-- ==== Sys2Proof/Word.lean ====
section
/-! DEFINITION. The word types of the model and the shape of a register or structure field. -/

namespace Sys2Proof

/-- A byte of a memory. -/
abbrev Byte := BitVec 8

/-- A register of the window is 64 bits (00_scope.md). -/
abbrev Word := BitVec 64

/-- An FP32 encoding (00_scope.md: IEEE 754-2019). -/
abbrev F32 := BitVec 32

/-- One lane of a tile: the sum and the compensation term, both FP32 (R15, R138). -/
structure Lane where
  s : F32
  c : F32
  deriving DecidableEq, Repr

/-- A field of a register or of a memory structure: its lowest bit and its width. -/
structure Field where
  lo    : Nat
  width : Nat
  deriving DecidableEq, Repr

end Sys2Proof
end

