-- ==== Sys2Proof/Kinds.lean ====
section
/-! DEFINITION. The operand types of the commands: who holds a job, the outcomes of accesses outside the block,
and the messages of 13_pods_and_links.md. -/

namespace Sys2Proof

/-- A holder of work: a task of a ring, the start-up task, or a near-path instruction. -/
inductive TaskRef where
  | ring (r : Nat) (pos : BitVec 32)
  | sring
  | near (id : Nat)
  deriving DecidableEq, Repr

/-- How an access outside the block ended: well, with an error answer of the port, with a failed check that the
second read passed, or with a failed check twice (R305, R333). -/
inductive Access where
  | ok
  | portError
  | badOnce
  | badTwice
  deriving DecidableEq, Repr

/-- What was found bad when a read failed its checks twice (R246, R397). -/
inductive Datum where
  | working
  | praline
  | side
  | outlierHeader
  | master
  | moments
  | header
  | masterAndWorking
  deriving DecidableEq, Repr

/-- The header of a message (R375); `crcOk` says whether its end-to-end CRC-32 passes at the receiver. -/
structure Hdr where
  dstDev   : Nat := 0
  dstSlice : Nat := 0
  srcDev   : Nat := 0
  srcSlice : Nat := 0
  hops     : Nat := 0
  seq      : Nat := 0
  tableId  : Nat := 0
  epoch    : Nat := 0
  gen      : Nat := 0
  ref      : Nat := 0
  arg      : Nat := 0
  crcOk    : Bool := true
  /-- Forwarded by an old home under R275: it keeps its source, and stands outside the numbering of R377 between the
  forwarding device and the new home (DESIGN CHOICE, notes/assumptions/24.md). -/
  fwd      : Bool := false
  deriving DecidableEq, Repr

/-- A row as a message or a record carries it: version, main bytes, log scale code, outlier side-row; or the FP32
master, with `wide` (R144, R261, R282). A row that another device reads carries the outlier channels of its shard
(DEDUCED, notes/assumptions/9.md: the manual does not say how another device learns them). -/
structure RowVal where
  ver  : Nat := 0
  data : List Byte := []
  ls   : Nat := 0
  side : List Byte := []
  wide : Bool := false
  chans : List Nat := []
  deriving DecidableEq, Repr

/-- STATUS_BITS of a partial or row message (R144). -/
structure StatusBits where
  sat    : Bool := false
  recomp : Bool := false
  bypass : Bool := false
  lost   : Bool := false
  deriving DecidableEq, Repr

/-- Flags of a sub-list (R144). -/
structure PoolFlags where
  weighted : Bool := false
  accInt   : Bool := false
  wide     : Bool := false
  prefetch : Bool := false
  last     : Bool := true
  /-- The part of a sub-list that an old home forwarded for a moved shard, and on the part it keeps the number of such
  parts (R274; DESIGN CHOICE, notes/assumptions/25.md). -/
  part     : Bool := false
  extra    : Nat := 0
  /-- Pairs of COMPOSE_MUL: the slot of sub-table B; TABLE_ID names sub-table A, whose rows lie at the home, which need not
  hold the composed table (R78, R95; DEDUCED, notes/assumptions/25.md). -/
  subB     : Nat := 0
  deriving DecidableEq, Repr

/-- What a row request asks for: a row of GATHER_ROWS, ROW_READ or a composed half; or an activation row with its
record, whose expert output region COMBINE names (R145, R177). -/
structure RowAsk where
  row    : Nat
  wide   : Bool := false
  /-- COMBINE: offset of the expert output region and its output format byte. -/
  region : Option (Nat × Nat) := none
  /-- PAGE_GATHER or COMBINE: the row of an activation table, with its scale record. -/
  activation : Bool := false
  /-- ROW_READ: the full version, read with the state row (R282, R458). -/
  full : Bool := false
  deriving DecidableEq, Repr

/-- The payload of a message, one constructor per TYPE of the table "Message types" (R376). Steps, keys and
versions are numbers; where the manual gives a field's place in the header (REF, ARG), it is the header's. -/
inductive Body where
  | e2eAck (cls seq : Nat)
  | e2eNack (cls seq : Nat)
  | gateUp (step flags digest : Nat)
  | gateDown (step : Nat) (proceed : Bool) (flags : Nat)
  | gateAsk (step : Nat)
  | endAck (step : Nat)
  | replay (step table row : Nat) (one : Bool) (home homeSlice chain : Nat) (fromStart : Bool)
  | drop (table : Nat)
  | dropAck (table : Nat)
  | rejoin (table : Nat)
  | rejoinAck (table : Nat)
  | shardMap (table shard : Nat) (entry : BitVec 64) (dropped : List Nat)
  | shardMapAck (table shard epoch : Nat)
  | timeSync (t1 : Nat)
  | timeReply (t2 t3 err : Nat)
  | mcastAck (table row ver : Nat)
  | faultNotice (cause slice : Nat)
  | ask (typ table item : Nat)
  | stateRead (table row : Nat) (low : Bool)
  | stateData (table row : Nat) (bytes : Option (List Byte))
  | stateWrite (table row : Nat) (bytes : List Byte)
  | stateWriteAck (table row : Nat)
  | subList (bag pos tile : Nat) (fl : PoolFlags) (rows : List (Nat × Option Nat)) (weights : List F32)
  | rowReq (bag : Nat) (ask : RowAsk)
  | replicaFetch (table row : Nat)
  | prefetchHint (table : Nat) (rows : List Nat)
  | replicaAction (table row action : Nat)
  | rowWriteReq (item row : Nat) (val : RowVal) (source : Nat)
  | partial_ (bag : Nat) (lanes : List Lane) (chk : Lane) (chkInt : Int) (bits : StatusBits) (part : Bool) (extra : Nat)
  | row (bag : Nat) (rowNo : Nat) (val : Option RowVal) (bits : StatusBits)
  | reject (reason : Nat)
  | writeDone (item : Nat) (bits : StatusBits)
  | chainRow (step table row count home homeSlice chain : Nat) (pairs : List Lane)
  | chainEnd (step home homeSlice chain rowsSent : Nat)
  | mcastRow (table row kind : Nat) (val : RowVal)
  | mcastRemove (table row : Nat) (all : Bool)
  | token (item row : Nat) (data : List Byte) (rec_ : Option (BitVec 64))
  | importRow (item row : Nat) (bytes : List Byte) (contents : Nat)
  | migrateCopy (item row base : Nat) (val : RowVal) (state : Option (List Byte))
  | regWrite (off size : Nat) (val : BitVec 64)
  | regRead (off size tag : Nat)
  | regData (tag : Nat) (val : BitVec 64)
  | dbLine (line : Nat) (slots : List (BitVec 32))
  | hostRead (addr len : Nat)
  | hostData (addr : Nat) (bytes : List Byte)
  | hostWrite (addr : Nat) (bytes : List Byte)
  | msi (vector : Nat)
  deriving DecidableEq, Repr

/-- A message: header and payload. -/
structure Msg where
  h : Hdr
  b : Body
  deriving DecidableEq, Repr

end Sys2Proof
end

