-- ==== Sys2Proof/Syntax.lean ====
section
/-! DEFINITION. The commands of the block: one constructor for each row of spec/opcode_table.json, in its order. -/

namespace Sys2Proof

/-- A command: what reaches the block from outside, or an event of its own that the table lists. -/
inductive Instr where
  /-- REGISTER_WRITE (R10). A host write to a register field that has no behaviour of its own stores or clears the
  field according to its access code. `off`: byte offset in the window; `size`: 4 or 8; `ok`: a host read that the
  write makes succeeds. -/
  | registerWrite (off : Nat) (size : Nat) (val : Word) (ok : Bool)
  /-- TIME_LOW_READ (R454). A 32-bit read of SHD_TIME bits [31:0] latches the upper half of the same tick into the
  shadow. -/
  | timeLowRead
  /-- TIME_HIGH_READ (R454). A 32-bit read of SHD_TIME bits [63:32] returns the latched shadow if one is pending, and
  otherwise the current upper half. -/
  | timeHighRead
  /-- START (R30). Ring command START checks the ring state and the ring context, then copies the context and enters
  RUNNING. `ok`: the read of the ring context succeeds. -/
  | start (r : Nat) (ok : Bool)
  /-- STOP (R31). Ring command STOP moves a RUNNING ring to DRAINING, or brings a HALTED or ERROR ring toward STOPPED.
  -/
  | stop (r : Nat)
  /-- ABORT (R32). Ring command ABORT moves the ring to ABORTING and ends its tasks in flight with ABORTED_BY_HOST. -/
  | abort (r : Nat)
  /-- RING_CMD_OTHER (R28). A ring command with an unassigned CMD code does nothing and gives RESULT 2. `cmd`: the
  code. -/
  | ringCmdOther (r : Nat) (cmd : Nat)
  /-- RING_STOPPED (R31). A DRAINING, HALTED, ERROR or ABORTING ring whose last task has completed enters STOPPED,
  writes QW7 and clears GO. -/
  | ringStopped (r : Nat)
  /-- ENABLE_SET (R431). A write of 1 to SHD_CTL.ENABLE takes effect in READY, and SHD_FAULT_N goes high. -/
  | enableSet
  /-- ENABLE_CLEAR (R453). A write of 0 to SHD_CTL.ENABLE stops descriptor fetch and task starts, while started tasks
  and the memory side continue. -/
  | enableClear
  /-- DOORBELL_POLL_CLEAR (R453). Clearing DOORBELL_POLL makes the head read every doorbell line once as Shared and
  treat every changed slot as a new producer index. -/
  | doorbellPollClear
  /-- FIRST_STEP_WRITE (R186). A write of SHD_STEP_BASE.FIRST_STEP sets OPEN_STEP when no step is closing or held.
  `k`: FIRST_STEP. -/
  | firstStepWrite (k : Nat)
  /-- WAY_CFG_WRITE (R326). A write of SHD_SLC_WAY_CFG that passes R325 sets RECONF_BUSY and begins emptying every way
  whose kind changes. -/
  | wayCfgWrite (n : Nat) (v : Word)
  /-- WAY_RECONF_DONE (R326). Once the changed ways are empty, each takes its new kind and RECONF_BUSY returns to 0.
  -/
  | wayReconfDone (n : Nat)
  /-- STREAM_CFG_WRITE (R291). A write of SHD_SLC_STREAM_CFG takes effect only if the queue depths meet their limits.
  -/
  | streamCfgWrite (n : Nat) (v : Word)
  /-- SRING_TAIL_WRITE (R309). A write of SHD_SRING_TAIL submits start-up descriptors, or is refused as an overrun of
  HEAD. `v`: TAIL. -/
  | sringTailWrite (v : Nat)
  /-- SRING_BASE_WRITE (R310). A write of SHD_SRING_BASE on an empty, idle start-up ring takes effect and sets HEAD
  and TAIL to 0. -/
  | sringBaseWrite (v : Word)
  /-- SRING_EXECUTE (R309). While enabled and HEAD differs from TAIL, the engine executes the descriptor at HEAD as an
  M-privilege task, writes its completion and advances HEAD. -/
  | sringExecute
  /-- SLICE_OFFLINE_WRITE (R408). A write of 1 to SHD_SLC_CTL.OFFLINE puts the slice into GOING_OFFLINE until its
  tasks in flight have completed. -/
  | sliceOfflineWrite (n : Nat)
  /-- SLICE_OFFLINE_REACHED (R408). A slice whose tasks in flight have completed becomes OFFLINE, and its stand-in
  takes over its pooling. -/
  | sliceOfflineReached (n : Nat)
  /-- SLICE_ONLINE_WRITE (R408). A write of 0 to SHD_SLC_CTL.OFFLINE returns a host-offlined slice to service. -/
  | sliceOnlineWrite (n : Nat)
  /-- SLICE_POWER_OFF (R436). A write of 1 to an OFF bit of SHD_PWR_SLICE, for an offline slice while no step is
  closing, writes back the slice's dirty rows and gates the slice. -/
  | slicePowerOff (n : Nat)
  /-- SLICE_GATE_DONE (R436). Once the write-back has finished and traffic has stopped, the slice is gated and reads
  POWER_OFF. -/
  | sliceGateDone (n : Nat)
  /-- SLICE_POWER_UP (R436). A write of 0 to an OFF bit of SHD_PWR_SLICE powers the slice up and runs that slice's
  start-up steps. -/
  | slicePowerUp (n : Nat)
  /-- PROFILE_SELECT (R438). A write of SHD_PWR_PROFILE loads the cap, ramp, temperature limit and HBM throttle values
  of the profile. `p`: PROFILE. -/
  | profileSelect (p : Nat)
  /-- INJECT_ARM (R412). A write of 1 to SHD_SAFE_INJECT.ARM arms one injected fault for the named check and slice.
  `target`: check code. -/
  | injectArm (target : Nat) (n : Nat)
  /-- LOG_FLUSH (R419). A write of 1 to SHD_LOG_CTL.FLUSH drains every record that has entered a front FIFO to the
  host rings. -/
  | logFlush
  /-- SKETCH_CLEAR (R256). A write of 1 to SHD_SLC_SKETCH_CLR.CLEAR sets every sketch counter and LOOKUPS to zero. -/
  | sketchClear (n : Nat)
  /-- UCIE_ADMIT (R371). A write of 1 to SHD_UCIE_CTL.ADMIT reads and checks the expansion capability, then admits the
  die or refuses it. `cap`: the capability the die presents, none where it cannot be read. -/
  | ucieAdmit (cap : Option (List Byte))
  /-- UCIE_EJECT (R371). A write of 1 to SHD_UCIE_CTL.EJECT ends admission of the expansion die once no message is in
  flight. -/
  | ucieEject
  /-- DRIFT_CHECK_GO (R238). A write of 1 to SHD_SLC_DRIFT_CTL.GO starts a sweep that compares working copies with the
  codes regenerated from the master. -/
  | driftCheckGo (n : Nat)
  /-- DRIFT_CHECK_ROW (R238). When the read of one swept row completes, the sweep regenerates its codes, compares them
  and rewrites the row on a mismatch. -/
  | driftCheckRow (n : Nat)
  /-- RESET_ENGINE (R426). A write of 1 to SHD_RESET.ENGINE resets all engine logic and registers and resumes start-up
  at step 2. -/
  | resetEngine
  /-- RESET_FULL (R426). A write of 1 to SHD_RESET.FULL resets everything except the rails and resumes start-up at
  step 1. -/
  | resetFull
  /-- POWER_ON_RESET (R426). Package power-on reset, or VDD_SHD of base die 0 leaving the rail window, resets the
  whole engine. -/
  | powerOnReset
  /-- TRAIN (R429). A write of 1 to SHD_INIT_CTL.TRAIN in WAIT_TRAIN starts HBM, Nimrus Link and UCIe training. -/
  | train
  /-- CONTINUE (R430). A write of 1 to SHD_INIT_CTL.CONTINUE in FAILED gates the failed slices and resumes start-up.
  -/
  | continueInit
  /-- PLL_LOCK_DONE (R429). Each PLL locks, the dividers release, SHD_TIME starts and start-up enters D2D_SELECT.
  `us`: lock time in µs. -/
  | pllLockDone (n : Nat) (us : Nat)
  /-- D2D_SELECT_DONE (R367). Die-to-die lane selection ends, and start-up enters WAIT_TRAIN. `edges`: edge, bundles
  up, spare lanes used, lanes that differ from the fuses. -/
  | d2dSelectDone (n : Nat) (edges : List (Nat × Nat × Nat × Nat))
  /-- HBM_TRAINING_DONE (R341). HBM training ends with its spare-lane results recorded, and start-up enters
  CACHE_TEST. `trained`: spare lanes used, unrepaired; `ports`: up, lanes, peer; `ucie`: rate, lanes repaired and
  capability of the UCIe link of slice 3. -/
  | hbmTrainingDone (n : Nat) (trained : List (Nat × Bool)) (ports : List (Bool × Nat × Nat)) (ucie : Option (Nat × Nat × Option (List Byte)))
  /-- CACHE_TEST_DONE (R429). The row-cache self-test ends with failing ways marked disabled, and start-up enters
  CORE_TEST. `ways`: the ways that failed. -/
  | cacheTestDone (n : Nat) (ways : List Nat)
  /-- CORE_TEST_DONE (R462). The core self-test ends, each slice assigns positions and spares, and start-up enters
  READY or FAILED. `cores`: the cores that failed. -/
  | coreTestDone (n : Nat) (cores : List Nat)
  /-- STARTUP_STEP_TIMEOUT (R429). A start-up step that exceeds its timeout fails the slices that have not finished
  it. `n`: the slice that powers up, or none for the engine. -/
  | startupStepTimeout (n : Option Nat)
  /-- BAR_ACCESS (R385). A host access to a slot of the head's BAR is served locally or relayed to device n as
  REG_WRITE or REG_READ. `wr`: the value of a write, none for a read; `tag`: the number of a relayed read; `ok` as for
  REGISTER_WRITE. -/
  | barAccess (slot : Nat) (off : Nat) (size : Nat) (wr : Option Word) (tag : Nat) (ok : Bool)
  /-- PATH_WINDOW_ACCESS (R386). A host access to the path window is carried along the ports of SHD_HOST_PATH.
  `ports`: none at the head; elsewhere the ports left of the path, and `port` the one it came in by. -/
  | pathWindowAccess (ports : Option (List Nat)) (port : Nat) (off : Nat) (size : Nat) (wr : Option Word) (tag : Nat) (ok : Bool)
  /-- RELAY_READ_TIMEOUT (R385). A relayed read with no REG_DATA after 50 µs returns all ones and sets RELAY_TIMEOUT.
  -/
  | relayReadTimeout (tag : Nat)
  /-- DOORBELL_INVALIDATION (R57). A host write invalidates the head's Shared copy of a doorbell line, and the head
  re-reads the line. -/
  | doorbellInvalidation (dev : Nat) (line : Nat)
  /-- DOORBELL_POLL_TICK (R58). Each poll interval the engine reads every doorbell line that holds the slot of a
  RUNNING ring. `noCxl`: the host link does not run CXL.cache. -/
  | doorbellPollTick (noCxl : Bool)
  /-- DOORBELL_LINE_READ (R57). When a doorbell line read completes, each changed slot is treated as a new producer
  index for its ring. `slots`: the contents of another device's line. -/
  | doorbellLineRead (dev : Nat) (line : Nat) (slots : List (BitVec 32))
  /-- DOORBELL_READ_FAULT (R60). A doorbell line read that returns an error is retried once after the polling interval
  or 1 µs. -/
  | doorbellReadFault (dev : Nat) (line : Nat)
  /-- DOORBELL_RETRY (R60). The retry interval expires; the line is read again, and a second failure faults every
  RUNNING ring on the line with DB_READ_FAULT. `ok`: the second read succeeds. -/
  | doorbellRetry (dev : Nat) (line : Nat) (ok : Bool) (slots : List (BitVec 32))
  /-- DESC_FETCH (R44). The control block visits the next ring in cyclic order and reads up to 8 consecutive
  descriptor slots. -/
  | descFetch
  /-- DESC_ARRIVAL (R37). Fetched descriptors arrive; their SEQ fields are checked and the tasks are queued to start
  in position order. -/
  | descArrival (r : Nat)
  /-- SEQ_REREAD (R37). 1 µs after a SEQ mismatch the descriptor is read again, and after three failures it completes
  with SEQ_MISMATCH. `pos`: position. -/
  | seqReread (r : Nat) (pos : BitVec 32)
  /-- DESC_READ_FAULT (R54). A descriptor read error completes the position with DESC_FETCH and faults the ring. `k`:
  the slot of the read that failed. -/
  | descReadFault (r : Nat) (k : Nat)
  /-- CTX_WRITE_FAULT (R27). An error for a QW7 write sets RING_ERROR and writes a CTX_WRITE_FAULT log record, without
  retry. -/
  | ctxWriteFault (r : Nat)
  /-- COMPLETION_WRITE (R47). Once every output of a task is visible, and every earlier record of its ring is written,
  the engine writes its 32 B completion record. -/
  | completionWrite (r : Nat)
  /-- CPL_WRITE_FAULT (R54). A completion write error faults the ring and stops its record writes until the next
  START. -/
  | cplWriteFault (r : Nat)
  /-- INT_DELAY_EXPIRY (R61). At a CLK_TS tick, a ring whose first pending request is INT_DELAY old sends its
  interrupt. -/
  | intDelayExpiry (r : Nat)
  /-- LOOKUP_POOL (R127). A task that pools the rows of each bag into one output vector per bag through the Glaze
  stage. -/
  | lookupPool (r : TaskRef)
  /-- GATHER_ROWS (R145). A task that gathers single rows, fetching remote rows in row messages. -/
  | gatherRows (r : TaskRef)
  /-- PAGE_GATHER (R181). A task that optionally appends a token row per session and gathers a window of key/value
  cache rows. -/
  | pageGather (r : TaskRef)
  /-- DISPATCH (R170). A task that routes token rows to expert buffer slots and writes the route and gate lists. -/
  | dispatch (r : TaskRef)
  /-- COMBINE (R176). A task that pools expert output rows back per token. -/
  | combine (r : TaskRef)
  /-- GRAD_SCATTER (R191). A task that expands bag gradients into per-row contributions and coalesces them. -/
  | gradScatter (r : TaskRef)
  /-- STEP_CLOSE_CLOSE (R202). A STEP_CLOSE of kind CLOSE that ends the open step on this device and takes part in the
  gate. -/
  | stepCloseClose (r : TaskRef) (acc : Access)
  /-- STEP_CLOSE_ARRIVAL (R218). A STEP_CLOSE of kind ARRIVAL that reads a summed DENSE region and passes its rows to
  the update unit. -/
  | stepCloseArrival (r : TaskRef) (acc : Access)
  /-- SCATTER_ADD (R336). A task that drives the memory-side adders to add value vectors into HBM targets. -/
  | scatterAdd (r : TaskRef)
  /-- ROW_WRITE (R281). A task that writes whole rows at their homes with the version advanced. -/
  | rowWrite (r : TaskRef)
  /-- ROW_READ (R282). A task that reads whole rows at their homes into row records. -/
  | rowRead (r : TaskRef)
  /-- MIGRATE (R274). A task that copies one shard to a new home, switches the home and forwards traffic. -/
  | migrate (r : TaskRef)
  /-- REPLICA_SET_INSTALL (R263). REPLICA_SET action INSTALL multicasts the listed rows as installs to the replica
  group. -/
  | replicaSetInstall (r : TaskRef)
  /-- REPLICA_SET_REMOVE (R263). REPLICA_SET action REMOVE frees every member's replica of the listed rows. -/
  | replicaSetRemove (r : TaskRef)
  /-- REPLICA_SET_VERIFY (R263). REPLICA_SET action VERIFY multicasts the listed rows so that members compare them
  with their replicas. -/
  | replicaSetVerify (r : TaskRef)
  /-- REPLICA_SET_REMOVE_TABLE (R263). REPLICA_SET action REMOVE_TABLE makes every group member free every replica of
  the table. -/
  | replicaSetRemoveTable (r : TaskRef)
  /-- STATE_EXPORT (R250). A task that writes the rows of one shard as state records. -/
  | stateExport (r : TaskRef)
  /-- STATE_IMPORT (R252). A task that reads state records and writes the rows they hold into a table. -/
  | stateImport (r : TaskRef)
  /-- CTX_LOAD (R90). A task that reads, checks and installs a table context image and its shard map into a slot. -/
  | ctxLoad (r : TaskRef) (acc : Access)
  /-- CTX_UNLOAD (R90). A CTX_LOAD with UNLOAD = 1 that marks the slot unloaded and frees its shard-map entries. -/
  | ctxUnload (r : TaskRef)
  /-- CTX_LOAD_INSTALL (R91). Once the slot is quiet, the context is installed in one cycle and the caches and
  replicas of the table are invalidated. -/
  | ctxLoadInstall (r : TaskRef)
  /-- RING_SAVE (R362). A task that stops a target ring and writes its state and tiles into an image. -/
  | ringSave (r : TaskRef)
  /-- RING_RESTORE (R364). A task that checks an image and restarts a stopped ring from it. `ok`: the read of the ring
  context succeeds. -/
  | ringRestore (r : TaskRef) (ok : Bool)
  /-- REARM_NEXT (R299). REARM action NEXT starts one round of the persistent task that holds the slot. -/
  | rearmNext (r : TaskRef)
  /-- REARM_END (R299). REARM action END completes the persistent task that holds the slot. -/
  | rearmEnd (r : TaskRef)
  /-- ROUND_END (R297). A persistent round whose items are all visible ends, the task returns between rounds and the
  REARM completes. -/
  | roundEnd (r : TaskRef)
  /-- FENCE (R41). A FENCE task that waits for earlier tasks of its ring, domain or engine. -/
  | fence (r : TaskRef)
  /-- FENCE_RELEASE (R41). Once every task the fence waits for has completed, the FENCE completes and later tasks may
  start. -/
  | fenceRelease (r : TaskRef)
  /-- NOP (R42). A task that does nothing and completes with DONE. -/
  | nop (r : TaskRef)
  /-- STATS_READ (R422). A task that writes the slice counters or a table's regeneration counters, optionally clearing
  them. `ok`: the write to OUT succeeds. -/
  | statsRead (r : TaskRef) (ok : Bool)
  /-- SKETCH_HALVING (R256). When LOOKUPS reaches 2^24, every counter halves, unreferenced automatic replicas are
  freed and LOOKUPS is cleared. -/
  | sketchHalving (n : Nat)
  /-- SECTOR_READ_DONE (R333). Narrow-path sector reads of a row complete; they are checked, read again or recovered,
  and they fill the cache and serve the request. `id`: the row read; `way`: a way whose copy failed its CRC-16. -/
  | sectorReadDone (id : Nat) (acc : Access) (d : Datum) (way : Option Nat)
  /-- WAY_ACCESS_COUNT_WRAP (R329). When a way's access count W reaches 2^20, its detection count returns to 0. -/
  | wayAccessCountWrap (n : Nat) (w : Nat)
  /-- HBM_WRITE_DONE (R319). An HBM write of a row completes, and its cache sectors become clean and visible. `id`:
  the row write; `way`: a way whose copy failed its CRC-16. -/
  | hbmWriteDone (id : Nat) (way : Option Nat)
  /-- CRUMB_WRITEBACK_DONE (R323). A write-back issued from the Crumb buffer completes, and the entry may be reused by
  waiting evictions. -/
  | crumbWritebackDone (id : Nat)
  /-- BULK_TRANSFER_DONE (R289). A stream slot's bulk transfer completes, and its buffers are handed on or returned.
  `bl`: how the reads of block-list entries that follow end. -/
  | bulkTransferDone (id : Nat) (acc : Access) (bl : Access)
  /-- DEP_WORD_LINE_WRITE (R294). A write to the LLM line of a dependence word makes the slot re-read the word and
  release a met DEP entry. -/
  | depWordLineWrite (die : Nat) (off : Nat) (data : List Byte)
  /-- DEP_POLL_TICK (R294). Each DEP_POLL interval, a dependence word in HBM or host memory is read again. -/
  | depPollTick (r : TaskRef) (acc : Access)
  /-- DEP_TIMEOUT (R296). A task held at a DEP entry for DEP_LIMIT ms ends with WATCHDOG and DEP_TIMEOUT. -/
  | depTimeout (r : TaskRef)
  /-- STREAM_WATCHDOG_TICK (R306). Once every µs, the slice ends with NO_PROGRESS every task whose time without
  progress has reached LIMIT. -/
  | streamWatchdogTick (n : Nat)
  /-- BAG_CLOSE (R151). A bag with all rows, partials, split merges and outlier lanes in finalises and passes its
  tiles to the Glaze stage. `b`: bag; `chk`: the check that fails at the close, 0 for none. -/
  | bagClose (r : TaskRef) (b : Nat) (chk : Nat)
  /-- ABFT_CHECK_PERIODIC (R393). Every 4,096 CLK_CORE cycles of a bag, the core compares the running lane sum with
  the checker lane. `b`: bag; `bad`: the running sums differ beyond the tolerance. -/
  | abftCheckPeriodic (r : TaskRef) (b : Nat) (bad : Bool)
  /-- SPLIT_SLOT_WRITTEN (R149). A split participant's scratch write becomes visible, it increments the split count,
  and the last participant merges the slots. `b`: bag; `part`: participant. -/
  | splitSlotWritten (r : TaskRef) (b : Nat) (part : Nat) (acc : Access)
  /-- MERGE_SORT_START (R202). Once every step-member task of the step has completed, each slice's merge sorter starts
  on the step's coalesced rows. -/
  | mergeSortStart
  /-- MERGE_SORT_DONE (R202). The merge sorter has written the sorted runs and dense regions, and the device may take
  part in the gate. `lost`: a spill record could not be read. -/
  | mergeSortDone (lost : Bool)
  /-- CLOSE_HELD_RESUME (R202). A CLOSE held at step 4 resumes once the previous step is fully applied on the device.
  -/
  | closeHeldResume
  /-- GATE_UP_SEND (R204). A member whose sort is done and whose children have all reported sends GATE_UP with its
  flags and digest to its parent. -/
  | gateUpSend
  /-- GATE_TIMEOUT (R207). The gate timer of a step expires, and the member sends GATE_UP at once with TIMEOUT raised.
  -/
  | gateTimeout
  /-- GATE_ASK_TIMER (R204). A member without a decision 100 µs after its GATE_UP asks its parent again. -/
  | gateAskTimer
  /-- STATE_ROW_ARRIVAL (R242). The state row of a parked arrival arrives, and the arrival proceeds from step 2 of
  R223. `id`: the state read. -/
  | stateRowArrival (id : Nat) (acc : Access) (d : Datum)
  /-- STATE_TIMEOUT (R244). An arrival whose state has not come within STATE_TIMEOUT is dropped without update, and
  its slot is released. `id`: the state read. -/
  | stateTimeout (id : Nat)
  /-- CHAIN_TIMEOUT (R215). A chain without progress for CHAIN_TIMEOUT after PROCEED has its remaining members treated
  as lost, and the home applies what it has. -/
  | chainTimeout (n : Nat) (chain : Nat)
  /-- MCAST_LAG_EXPIRY (R268). A member whose multicast lag reaches MCAST_WINDOW is dropped for the table and sent
  DROP. -/
  | mcastLagExpiry (table : Nat) (dev : Nat)
  /-- DROP_ACK_TIMEOUT (R268). A member that has not acknowledged DROP within a further MCAST_WINDOW is treated as
  lost. -/
  | dropAckTimeout (table : Nat) (dev : Nat)
  /-- REJOIN_START (R269). A dropped member whose receive queue has drained sends REJOIN to the current home. -/
  | rejoinStart (table : Nat) (home : Nat)
  /-- REPLICA_FETCH_TIMEOUT (R261). A replica fetch unanswered within MCAST_WINDOW is sent again once, and a second
  failure makes the replica INVALID. -/
  | replicaFetchTimeout (table : Nat) (row : Nat)
  /-- MIGRATE_SWITCH (R274). Once copies are acknowledged and no update of the shard is pending, the old home makes
  the new home the home and broadcasts the new entry. -/
  | migrateSwitch (r : TaskRef)
  /-- FWD_WINDOW_EXPIRY (R274). FWD_WINDOW after the broadcast is acknowledged, forwarding ends, the old region is
  freed and MIGRATE completes. -/
  | fwdWindowExpiry (r : TaskRef)
  /-- POSITION_MOVE (R14). At a task boundary of a position, the position moves to another physical core with its
  tiles carried in full width. -/
  | positionMove (n : Nat) (p : Nat)
  /-- SPARE_ROTATION (R406). Every ROTATE_MS the slice moves the next position onto the standby spare and sends the
  released core to self-test. -/
  | spareRotation (n : Nat)
  /-- CORE_SELF_TEST_DONE (R406). A test spare finishes its self-test and becomes the standby spare, or is failed.
  `ok`: it passed. -/
  | coreSelfTestDone (n : Nat) (ok : Bool)
  /-- LATENT_TEST (R401). The latent test period comes due, and each checker is tested with failing and passing
  inputs. `bad`: slice, checker and code of each failure. -/
  | latentTest (bad : List (Nat × Nat × Nat))
  /-- CLOCK_MONITOR_TRIP (R425). A derived clock loses lock or leaves ±1 % of nominal, and the engine enters the fault
  state. `lost`: the PLL is out of lock. -/
  | clockMonitorTrip (d : Nat) (lost : Bool)
  /-- RAIL_MONITOR_TRIP (R442). A VDD_SHD rail outside 0.690 to 0.810 V for more than 1 µs trips the rail monitor. -/
  | railMonitorTrip (d : Nat)
  /-- HBM_TEMP_SAMPLE (R340). Every 100 µs each stack's temperature and threshold are read, and the throttle LEVEL may
  rise. `report`: temperature and threshold, none where they cannot be read. -/
  | hbmTempSample (k : Nat) (report : Option (Nat × Nat))
  /-- THROTTLE_RISE_PERIOD (R340). Each UP_MS while a stack stays above its threshold, its throttle LEVEL rises by
  one. -/
  | throttleRisePeriod (k : Nat)
  /-- THROTTLE_FALL_PERIOD (R340). Each DOWN_MS while a stack stays below its threshold less HYST, its throttle LEVEL
  falls by one. -/
  | throttleFallPeriod (k : Nat)
  /-- POWER_CAP_COMPARE (R439). Every 100 µs the averaged power is compared with CAP and TJ_MAX, and the power LEVEL
  may rise. -/
  | powerCapCompare
  /-- POWER_LEVEL_FALL (R439). At each 1 ms boundary the power LEVEL falls by one if the fall test passes. -/
  | powerLevelFall
  /-- TELEMETRY_SAMPLE (R441). Every 10 µs each rail's voltage, current and die temperature are sampled into
  SHD_PWR_TELEM. `rails`: mV, 0.1 A and degrees of each rail, none for one that cannot be read. -/
  | telemetrySample (rails : List (Option (Nat × Nat × Nat)))
  /-- IDLE_ENTRY (R434). After IDLE_US of quiet, the engine gates CLK_CORE and CLK_LINK and enters IDLE. -/
  | idleEntry
  /-- IDLE_WAKE (R434). A doorbell, a message, a register write or a due test wakes the engine from IDLE to ACTIVE. -/
  | idleWake
  /-- ALIVE_HALF_PERIOD (R445). Every 18,750 CLK_CFG cycles the SHD_ALIVE pin toggles. -/
  | aliveHalfPeriod
  /-- SHD_GPOOL (R346). A near-path instruction that pools bags whose indices the vector core holds. `level`:
  privilege of the issuing thread; `cb`: address of the control block. -/
  | shdGpool (thread : Nat) (level : Nat) (domain : Nat) (indices : List Word) (weights : List Word) (count : Nat) (cb : Nat)
  /-- SHD_GATHER (R347). A near-path instruction that gathers rows into a vector register. `level`: privilege of the
  issuing thread; `cb`: address of the control block. -/
  | shdGather (thread : Nat) (level : Nat) (domain : Nat) (indices : List Word) (count : Nat) (cb : Nat)
  /-- SHD_SADD (R348). A near-path instruction that adds values into HBM through the memory-side adders. `level`:
  privilege of the issuing thread; `cb`: address of the control block. -/
  | shdSadd (thread : Nat) (level : Nat) (domain : Nat) (indices : List Word) (vals : List Byte) (count : Nat) (cb : Nat)
  /-- SHD_SYNC (R353). A near-path instruction that waits for earlier SHD outcomes, returns SHD_XSTS and may trap. -/
  | shdSync (thread : Nat)
  /-- NEAR_OUTCOME (R351). Once an instruction's writes and adds are visible, the engine returns its outcome to the
  vector core. -/
  | nearOutcome (thread : Nat)
  /-- NEAR_STOP_REQUEST (R354). An interrupt at the vector core asks the engine to stop an unretired instruction at a
  stop point. -/
  | nearStopRequest (thread : Nat)
  /-- NEAR_STOP_WINDOW_EXPIRY (R354). STOP_WINDOW expires without a bag boundary, and SHD.GPOOL stops at the next
  index boundary with its tiles saved. -/
  | nearStopWindowExpiry (thread : Nat)
  /-- NEAR_RESUME (R357). A reissued instruction with a resume record is checked and continues from its stop point, or
  restarts or is refused. `kind`: 1 SHD.GPOOL, 2 SHD.GATHER, 3 SHD.SADD; `rec`: the resume record. -/
  | nearResume (thread : Nat) (level : Nat) (domain : Nat) (kind : Nat) (vs1 : List Word) (vs2 : List Word) (vals : List Byte) (count : Nat) (cb : Nat) (rec : List Byte)
  /-- FLIT (R374). A received flit is checked, and a failure makes the sender replay from that flit. `nack`: the peer
  asks for a replay of a flit this end sent. -/
  | flit (link : Nat) (data : List Byte) (nack : Bool)
  /-- PORT_LINK_DOWN (R374). A port that cannot deliver a flit within LINK_DOWN µs is down. -/
  | portLinkDown (p : Nat)
  /-- E2E_RESEND_TIMEOUT (R377). A message unacknowledged within E2E_TIMEOUT is resent, and after the third resend it
  is undelivered. `cls`: class; `seq`: E2E_SEQ. -/
  | e2eResendTimeout (dev : Nat) (cls : Nat) (seq : Nat)
  /-- CTRL_REPEAT_TIMER (R378). A device waiting for a CONTROL answer repeats its request every CTRL_REPEAT µs until
  it is answered or gives up. `answer`: TYPE of the awaited answer. -/
  | ctrlRepeatTimer (peer : Nat) (answer : Nat) (table : Nat) (item : Nat)
  /-- MESSAGE_FORWARD (R379). A message addressed to another device is forwarded by the route table with HOPS
  incremented, or dropped at the hop limit. -/
  | messageForward (m : Msg)
  /-- BAD_MESSAGE (R376). A message whose TYPE is unknown is discarded and logged. `src`: sender; `typ`: TYPE. -/
  | badMessage (src : Nat) (typ : Nat)
  /-- E2E_ACK (R377). A cumulative end-to-end acknowledgement releases the messages it covers at the sender. -/
  | e2eAck (h : Hdr) (cls : Nat) (seq : Nat)
  /-- E2E_NACK (R377). A negative acknowledgement makes the sender resend the message. -/
  | e2eNack (h : Hdr) (cls : Nat) (seq : Nat)
  /-- GATE_UP (R204). A parent receives a child's flags and digest for the step. -/
  | gateUp (h : Hdr) (step : Nat) (flags : Nat) (digest : Nat)
  /-- GATE_DOWN (R204). A member receives the step decision and forwards it to its children. -/
  | gateDown (h : Hdr) (step : Nat) (proceed : Bool) (flags : Nat)
  /-- GATE_ASK (R207). A parent or root answers a repeated request for a step decision. -/
  | gateAsk (h : Hdr) (step : Nat)
  /-- END_ACK (R212). A chain member receives the home's acknowledgement that a home slice has applied the step. -/
  | endAck (h : Hdr) (step : Nat)
  /-- REPLAY (R212). A chain member restarts its part of the stream from its first key above KEY. -/
  | replay (h : Hdr) (step : Nat) (table : Nat) (row : Nat) (one : Bool) (home : Nat) (homeSlice : Nat) (chain : Nat) (fromStart : Bool)
  /-- DROP (R268). A member invalidates its replicas of the table from that home, discards queued updates and
  acknowledges. -/
  | drop (h : Hdr) (table : Nat)
  /-- DROP_ACK (R267). The home receives a member's acknowledgement of DROP, and the writes waiting on it become
  applied. -/
  | dropAck (h : Hdr) (table : Nat)
  /-- REJOIN (R269). The home adds a dropped member back to the group and acknowledges. -/
  | rejoin (h : Hdr) (table : Nat)
  /-- REJOIN_ACK (R269). A rejoined member fetches every replica that the drop made INVALID. -/
  | rejoinAck (h : Hdr) (table : Nat)
  /-- SHARD_MAP (R274). A device installs a broadcast shard-map entry in one cycle and acknowledges. -/
  | shardMap (h : Hdr) (table : Nat) (shard : Nat) (entry : Word) (dropped : List Nat)
  /-- SHARD_MAP_ACK (R274). The old home counts a device's acknowledgement of the new shard-map entry. -/
  | shardMapAck (h : Hdr) (table : Nat) (shard : Nat) (epoch : Nat)
  /-- TIME_EXCHANGE_TIMER (R384). Every INTERVAL a non-master device sends TIME_SYNC to its time parent. -/
  | timeExchangeTimer
  /-- TIME_SYNC (R384). A time parent notes the arrival and answers with TIME_REPLY carrying its timestamps and ERR.
  -/
  | timeSync (h : Hdr) (t1 : Nat)
  /-- TIME_REPLY (R384). A device computes its offset, corrects its time and updates ERR and SYNCED. -/
  | timeReply (h : Hdr) (t2 : Nat) (t3 : Nat) (err : Nat)
  /-- TIME_REPLY_LOSS (R384). No TIME_REPLY within three intervals clears SYNCED, advances RESYNCS and raises
  SHD_ALERT_N. -/
  | timeReplyLoss
  /-- MCAST_ACK (R267). The home receives a member's acknowledgement of a multicast, which may make held writes
  visible. -/
  | mcastAck (h : Hdr) (table : Nat) (row : Nat) (ver : Nat)
  /-- FAULT_NOTICE (R410). A device receiving a fault notice marks the sender lost. -/
  | faultNotice (h : Hdr) (cause : Nat) (slice : Nat)
  /-- ASK (R378). The receiver answers a repeated request once it has acted on the named item. -/
  | ask (h : Hdr) (typ : Nat) (table : Nat) (item : Nat)
  /-- STATE_READ (R239). A state device reads a state row in tracker order and answers with STATE_DATA. -/
  | stateRead (h : Hdr) (table : Nat) (row : Nat) (low : Bool)
  /-- STATE_DATA (R242). A home receives a state row from its state device and proceeds with the arrivals waiting for
  it. -/
  | stateData (h : Hdr) (table : Nat) (row : Nat) (data : Option (List Byte))
  /-- STATE_WRITE (R239). A state device writes a state row in tracker order and acknowledges. -/
  | stateWrite (h : Hdr) (table : Nat) (row : Nat) (data : List Byte)
  /-- STATE_WRITE_ACK (R239). A home receives confirmation that a state row has been written back. -/
  | stateWriteAck (h : Hdr) (table : Nat) (row : Nat)
  /-- SUB_LIST (R144). A home pools a sub-list into its home tile group and returns a partial after the LAST message.
  -/
  | subList (h : Hdr) (bag : Nat) (pos : Nat) (tile : Nat) (fl : PoolFlags) (rows : List (Nat × Option Nat)) (weights : List F32)
  /-- ROW_REQ (R145). A home reads a requested row in tracker order and answers with a row message. -/
  | rowReq (h : Hdr) (bag : Nat) (want : RowAsk)
  /-- REPLICA_FETCH (R261). A home reads a row in tracker order and answers a replica holder's fetch with a row
  message. -/
  | replicaFetch (h : Hdr) (table : Nat) (row : Nat)
  /-- PREFETCH_HINT (R147). A home issues state prefetch reads for rows that an owner pooled from replicas. -/
  | prefetchHint (h : Hdr) (table : Nat) (rows : List Nat)
  /-- REPLICA_ACTION (R263). A home carries out a REPLICA_SET action for a row and multicasts it to the group. -/
  | replicaAction (h : Hdr) (table : Nat) (row : Nat) (action : Nat)
  /-- ROW_WRITE_REQ (R281). A home writes a row record in one tracker-ordered write with its version advanced. -/
  | rowWriteReq (h : Hdr) (item : Nat) (row : Nat) (val : RowVal) (source : Nat)
  /-- PARTIAL (R145). An owner merges a home's partial into the bag's tiles and checker lane and ORs its status bits.
  -/
  | partialIn (h : Hdr) (bag : Nat) (lanes : List Lane) (chk : Lane) (chkInt : Int) (bits : StatusBits) (part : Bool) (extra : Nat)
  /-- ROW (R260). An owner or replica holder receives a row and pools it, or acts on it under the replica receipt
  table. -/
  | rowIn (h : Hdr) (bag : Nat) (rowNo : Nat) (val : Option RowVal) (bits : StatusBits)
  /-- REJECT (R95). A sender's task receives a rejection for a slot or generation mismatch and completes with
  GEN_MISMATCH or SLICE_POWER_OFF. -/
  | reject (h : Hdr) (reason : Nat)
  /-- WRITE_DONE (R281). A writer receives the home's confirmation that a row write is visible. -/
  | writeDone (h : Hdr) (item : Nat) (bits : StatusBits)
  /-- CHAIN_ROW (R210). A chain device or home receives a chain row and merges it in key order. -/
  | chainRow (h : Hdr) (step : Nat) (table : Nat) (row : Nat) (count : Nat) (home : Nat) (homeSlice : Nat) (chain : Nat) (pairs : List Lane)
  /-- CHAIN_END (R210). A chain stream's END message closes that input of the merge. -/
  | chainEnd (h : Hdr) (step : Nat) (home : Nat) (homeSlice : Nat) (chain : Nat) (rowsSent : Nat)
  /-- MCAST_ROW (R260). A replica holder installs, replaces, discards or checks a multicast row, and acknowledges it.
  -/
  | mcastRow (h : Hdr) (table : Nat) (row : Nat) (kind : Nat) (val : RowVal)
  /-- MCAST_REMOVE (R263). A replica holder frees its replica of the row and acknowledges. -/
  | mcastRemove (h : Hdr) (table : Nat) (row : Nat) (all : Bool)
  /-- TOKEN (R172). A home writes a converted token row and its record into an activation table row. -/
  | token (h : Hdr) (item : Nat) (row : Nat) (data : List Byte) (rec : Option (BitVec 64))
  /-- IMPORT_ROW (R252). A home writes an imported row in one tracker-ordered write. -/
  | importRow (h : Hdr) (item : Nat) (row : Nat) (data : List Byte) (contents : Nat)
  /-- MIGRATE_COPY (R274). A new home writes a copied row, keeping the newer of two copies. -/
  | migrateCopy (h : Hdr) (item : Nat) (row : Nat) (base : Nat) (val : RowVal) (state : Option (List Byte))
  /-- REG_WRITE (R385). A device applies a relayed register write. -/
  | regWrite (h : Hdr) (off : Nat) (size : Nat) (val : Word)
  /-- REG_READ (R385). A device answers a relayed register read with REG_DATA. -/
  | regRead (h : Hdr) (off : Nat) (size : Nat) (tag : Nat)
  /-- REG_DATA (R385). The head completes the host's relayed read with the returned data. -/
  | regData (h : Hdr) (tag : Nat) (val : Word)
  /-- DB_LINE (R59). A device receives forwarded doorbell line contents and treats changed slots as new producer
  indices. -/
  | dbLine (h : Hdr) (line : Nat) (slots : List (BitVec 32))
  /-- HOST_READ (R59). The head performs a host read on behalf of another device. -/
  | hostRead (h : Hdr) (addr : Nat) (len : Nat)
  /-- HOST_DATA (R59). A device receives the data of its host read through the head. -/
  | hostData (h : Hdr) (addr : Nat) (data : List Byte)
  /-- HOST_WRITE (R59). The head performs a device's host write, in the order the device issued it. -/
  | hostWrite (h : Hdr) (addr : Nat) (data : List Byte)
  /-- MSI (R61). The head writes another device's MSI-X message to the host. -/
  | msi (h : Hdr) (vector : Nat)
  /-- SECTOR_DATA (R371). The expansion die's answer to a sector read arrives and is checked. `id`: the read. -/
  | sectorData (id : Nat) (acc : Access) (d : Datum)
  /-- UCIE_LINK_DOWN (R372). The UCIe link goes down while the die is admitted, ADMITTED clears and the loss is
  logged. -/
  | ucieLinkDown
  /-- D2D_BUNDLE_FAIL (R410). A die-to-die bundle that fails in service leaves service, and the paths of R367 take
  over if its edge goes down. -/
  | d2dBundleFail (x : Nat)
  /-- LOG_PACK (R415). A slice takes a whole record from a front FIFO and packs it into its log ring, removing old
  records if needed. -/
  | logPack (n : Nat)
  /-- LOG_DRAIN (R418). When the host log ring has room, the slice drains a record to it and advances PI. -/
  | logDrain (n : Nat)
  /-- LOG_HOST_WRITE_FAULT (R418). A host write error while draining loses the record, which counts in LOST_COUNT. -/
  | logHostWriteFault (n : Nat)
  /-- RESET_RELEASE (R428). Reset release ends a reset, after which start-up enters PLL_LOCK (power-on, FULL) or
  D2D_SELECT (ENGINE) and SHD_TIME and ELAPSED begin counting. -/
  | resetRelease
  /-- INVALIDATION (R86). Another slice of the home device receives the home slice's invalidation for a REMOTE_CACHE
  row, drops its read-only copy and acknowledges. -/
  | invalidation (id : Nat) (n : Nat)
  /-- INVALIDATION_ACK (R86). The home slice receives an acknowledgement of its invalidation, and once all three have
  arrived it completes the held row write. -/
  | invalidationAck (id : Nat) (n : Nat)
  deriving DecidableEq, Repr

end Sys2Proof
end

