-- ==== Sys2Proof/Decode.lean ====
section
/-! DEFINITION. The words of commands. spec/opcode_table.json gives no row any bits: a command of this block is no word of
an instruction stream, so no word spells one. -/

namespace Sys2Proof

/-- The command that a word spells by the bits of the opcode table: none, since the table gives no row bits. -/
def decodeTableWord (_nbits _w : Nat) : Option Instr := none

end Sys2Proof
end

