-- ==== Sys2Proof/Machine/Bits.lean ====
section
/-! DEFINITION. Bit fields, little-endian bytes, tables keyed by a name, and the canonical byte memory. -/

namespace Sys2Proof.Machine

/-- Bits `lo` to `lo + w - 1` of a number. -/
def bitsOf (v lo w : Nat) : Nat := v / 2 ^ lo % 2 ^ w

/-- The field of a 64-bit word. -/
def getFld (v : Word) (f : Field) : Nat := bitsOf v.toNat f.lo f.width

/-- A 64-bit word with one field replaced (the value reduced to the field's width). -/
def setFld (v : Word) (f : Field) (x : Nat) : Word :=
  let mask : Word := BitVec.ofNat 64 ((2 ^ f.width - 1) * 2 ^ f.lo)
  (v &&& ~~~mask) ||| BitVec.ofNat 64 (x % 2 ^ f.width * 2 ^ f.lo)

/-- A truth value as a bit. -/
def b2n (b : Bool) : Nat := if b then 1 else 0

/-- A count that saturates at the largest value of `w` bits. -/
def satAdd (w a b : Nat) : Nat := min (a + b) (2 ^ w - 1)

/-- Quotient rounded up. -/
def ceilDiv (a b : Nat) : Nat := (a + b - 1) / b

/-- The `n` bytes of a number, least significant first (R5). -/
def toBytes : Nat → Nat → List Byte
  | 0, _ => []
  | n + 1, v => BitVec.ofNat 8 v :: toBytes n (v / 256)

/-- The number that a list of bytes spells, least significant first (R5). -/
def ofBytes : List Byte → Nat
  | [] => 0
  | b :: bs => b.toNat + 256 * ofBytes bs

/-! Tables: lists of key and value pairs, at most one pair per key. -/

/-- The value held under a key, or the default where none is listed. -/
def tget {K V : Type} [DecidableEq K] (d : V) (k : K) : List (K × V) → V
  | [] => d
  | (k', v) :: t => if k' = k then v else tget d k t

/-- The value held under a key, if any. -/
def tfind {K V : Type} [DecidableEq K] (k : K) : List (K × V) → Option V
  | [] => none
  | (k', v) :: t => if k' = k then some v else tfind k t

/-- The table with a value put under a key. -/
def tput {K V : Type} [DecidableEq K] (k : K) (v : V) : List (K × V) → List (K × V)
  | [] => [(k, v)]
  | (k', v') :: t => if k' = k then (k, v) :: t else (k', v') :: tput k v t

/-- The table without a key. -/
def tdel {K V : Type} [DecidableEq K] (k : K) (t : List (K × V)) : List (K × V) :=
  t.filter (fun p => decide (p.1 ≠ k))

/-! Memory: bytes by address, strictly rising, no byte 0 listed; an unlisted address reads 0
(DESIGN CHOICE, notes/assumptions/1.md; unsafe: the manual gives no contents before the first write). -/

/-- One byte of a memory; 0 where nothing is listed. -/
def memGet (a : Nat) : List (Nat × Byte) → Byte
  | [] => 0
  | (k, b) :: t => if k = a then b else if a < k then 0 else memGet a t

/-- A memory with one byte stored, in the canonical form. -/
def memSet (a : Nat) (v : Byte) : List (Nat × Byte) → List (Nat × Byte)
  | [] => if v = 0 then [] else [(a, v)]
  | (k, b) :: t =>
    if k = a then (if v = 0 then t else (a, v) :: t)
    else if a < k then (if v = 0 then (k, b) :: t else (a, v) :: (k, b) :: t)
    else (k, b) :: memSet a v t

/-- `n` bytes from an address up. -/
def memRead (a : Nat) : Nat → List (Nat × Byte) → List Byte
  | 0, _ => []
  | n + 1, m => memGet a m :: memRead (a + 1) n m

/-- Bytes stored from an address up. -/
def memWrite (a : Nat) : List Byte → List (Nat × Byte) → List (Nat × Byte)
  | [], m => m
  | b :: bs, m => memWrite (a + 1) bs (memSet a b m)

/-- The canonical form: addresses strictly rising from `lo` up, no byte 0. -/
def memWfFrom : Nat → List (Nat × Byte) → Bool
  | _, [] => true
  | lo, (k, b) :: t => decide (lo ≤ k) && decide (b ≠ 0) && memWfFrom (k + 1) t

/-- A memory is in its canonical form. -/
def Memory.wf (m : List (Nat × Byte)) : Bool := memWfFrom 0 m

/-- The number of `n` bytes from an address up (R5). -/
def memNat (a n : Nat) (m : List (Nat × Byte)) : Nat := ofBytes (memRead a n m)

end Sys2Proof.Machine
end

