-- ==== Sys2Proof/Machine/Num.lean ====
section
/-! DEFINITION. Exact numbers, the floating-point formats, and the rounding functions rn, ru and "toward zero"
of 04_number_formats_and_scales.md (R98 to R104) with the signed zeros of R138. -/

namespace Sys2Proof.Machine

/-- An exact rational value; the denominator is never 0. -/
structure Q where
  num : Int
  den : Nat
  deriving DecidableEq, Repr

/-- An integer as an exact value. -/
def Q.ofInt (n : Int) : Q := ⟨n, 1⟩

/-- Exact sum. -/
def Q.add (a b : Q) : Q :=
  if a.den = b.den then ⟨a.num + b.num, a.den⟩ else ⟨a.num * b.den + b.num * a.den, a.den * b.den⟩

/-- Exact negation. -/
def Q.neg (a : Q) : Q := ⟨-a.num, a.den⟩

/-- Exact difference. -/
def Q.sub (a b : Q) : Q := a.add b.neg

/-- Exact product. -/
def Q.mul (a b : Q) : Q := ⟨a.num * b.num, a.den * b.den⟩

/-- Exact quotient by a value other than zero; 0 where the divisor is 0 (no caller divides by 0). -/
def Q.div (a b : Q) : Q :=
  if b.num = 0 then ⟨0, 1⟩
  else if b.num < 0 then ⟨-(a.num * b.den), a.den * b.num.natAbs⟩
  else ⟨a.num * b.den, a.den * b.num.natAbs⟩

/-- Exact order. -/
def Q.lt (a b : Q) : Bool := decide (a.num * b.den < b.num * a.den)

/-- Exact order. -/
def Q.le (a b : Q) : Bool := decide (a.num * b.den ≤ b.num * a.den)

/-- Exact equality of values. -/
def Q.eqv (a b : Q) : Bool := decide (a.num * b.den = b.num * a.den)

/-- Absolute value. -/
def Q.abs (a : Q) : Q := ⟨a.num.natAbs, a.den⟩

/-- The larger of two values. -/
def Q.max (a b : Q) : Q := if a.lt b then b else a

/-- The smaller of two values. -/
def Q.min (a b : Q) : Q := if b.lt a then b else a

/-- The value is zero. -/
def Q.isZero (a : Q) : Bool := decide (a.num = 0)

/-- The value is negative. -/
def Q.isNeg (a : Q) : Bool := decide (a.num < 0)

/-- 2 to an integer power. -/
def Q.pow2 (e : Int) : Q :=
  if 0 ≤ e then ⟨2 ^ e.natAbs, 1⟩ else ⟨1, 2 ^ e.natAbs⟩

/-- The same value over the smallest denominator. -/
def Q.reduce (a : Q) : Q :=
  let g := Nat.gcd a.num.natAbs a.den
  if g = 0 then a else ⟨a.num / (g : Int), a.den / g⟩

/-- The directions of rounding of the manual: rn, ru and toward zero. -/
inductive Rnd where
  | nearest
  | up
  | zero
  deriving DecidableEq, Repr

/-- A binary floating-point grid: significand bits, exponent of the smallest subnormal (negated), and the code of
the largest finite magnitude. -/
structure Grid where
  prec   : Nat
  minExp : Nat
  maxCode : Nat
  deriving DecidableEq, Repr

def gridFp32 : Grid := ⟨24, 149, 0x7F7FFFFF⟩
def gridBf16 : Grid := ⟨8, 133, 0x7F7F⟩
def gridFp16 : Grid := ⟨11, 24, 0x7BFF⟩
def gridE4m3 : Grid := ⟨4, 9, 0x7E⟩
def gridE5m2 : Grid := ⟨3, 16, 0x7B⟩

/-- floor(log2(n / d)) plus `bias`, for n, d > 0; 0 where the sum is negative. -/
def log2Ratio (n d bias : Nat) : Nat :=
  let e := Nat.log2 n + bias - Nat.log2 d
  -- n / d lies in [2^(e - bias - 1), 2^(e - bias + 1))
  if Nat.log2 n + bias < Nat.log2 d then 0
  else if n * 2 ^ bias < d * 2 ^ e then e - 1 else e

/-- The magnitude code of n / d on a grid, rounded as `r` says (`neg`: the sign of the value, for `up`); a code above
`maxCode` means overflow. -/
def roundMag (g : Grid) (r : Rnd) (neg : Bool) (n d : Nat) : Nat :=
  if n = 0 then 0
  else
    -- k: position of the leading bit counted from the smallest subnormal (0: at or below it)
    let k := log2Ratio n d g.minExp
    let q := k - (g.prec - 1)
    -- quantum 2^(q - minExp)
    let top := n * 2 ^ g.minExp
    let bot := d * 2 ^ q
    let m := top / bot
    let rem := top % bot
    let up := match r with
      | .nearest => decide (2 * rem > bot) || (decide (2 * rem = bot) && decide (m % 2 = 1))
      | .up => !neg && decide (rem ≠ 0)
      | .zero => false
    q * 2 ^ (g.prec - 1) + (if up then m + 1 else m)

/-! FP32 values. -/

def f32Zero : F32 := 0
def f32One : F32 := 0x3F800000
def f32NaN : F32 := 0x7FC00000
def f32Inf : F32 := 0x7F800000
def f32Max : F32 := 0x7F7FFFFF

/-- The sign bit. -/
def f32Neg (x : F32) : Bool := x.getLsbD 31

/-- The magnitude bits. -/
def f32Mag (x : F32) : Nat := x.toNat % 2 ^ 31

def f32IsNaN (x : F32) : Bool := decide (0x7F800000 < f32Mag x)
def f32IsInf (x : F32) : Bool := decide (f32Mag x = 0x7F800000)
def f32IsFin (x : F32) : Bool := decide (f32Mag x < 0x7F800000)
def f32IsZero (x : F32) : Bool := decide (f32Mag x = 0)

/-- A magnitude with a sign. -/
def f32Mk (neg : Bool) (mag : Nat) : F32 := BitVec.ofNat 32 (mag + if neg then 2 ^ 31 else 0)

/-- The negated value. -/
def f32Flip (x : F32) : F32 := x ^^^ 0x80000000

/-- The magnitude of a code on a grid, as a multiple of the smallest subnormal. -/
def gridMag (g : Grid) (code : Nat) : Nat :=
  let ef := code / 2 ^ (g.prec - 1)
  let mf := code % 2 ^ (g.prec - 1)
  if ef = 0 then mf else (2 ^ (g.prec - 1) + mf) * 2 ^ (ef - 1)

/-- The exact value of a finite FP32 encoding. -/
def f32Q (x : F32) : Q :=
  let m : Int := gridMag gridFp32 (f32Mag x)
  ⟨if f32Neg x then -m else m, 2 ^ 149⟩

/-- Rounds an exact value to FP32. `zneg` is the sign of an exact zero. Overflow gives an infinity. -/
def f32Round (r : Rnd) (zneg : Bool) (q : Q) : F32 :=
  if q.num = 0 then f32Mk zneg 0
  else
    let neg := decide (q.num < 0)
    let c := roundMag gridFp32 r neg q.num.natAbs q.den
    f32Mk neg (if c > 0x7F7FFFFF then 0x7F800000 else c)

/-- rn: to nearest, ties to even (R119, R138). -/
def rn (zneg : Bool) (q : Q) : F32 := f32Round .nearest zneg q

/-- ru: upward (R119). -/
def ru (q : Q) : F32 := f32Round .up false q

/-- An infinity of a sign. -/
def f32InfOf (neg : Bool) : F32 := f32Mk neg 0x7F800000

/-- IEEE 754 product, rounded to nearest even; NaN results are the canonical NaN. -/
def f32Mul (a b : F32) : F32 :=
  let neg := f32Neg a != f32Neg b
  if f32IsNaN a || f32IsNaN b then f32NaN
  else if f32IsInf a || f32IsInf b then
    if f32IsZero a || f32IsZero b then f32NaN else f32InfOf neg
  else rn neg ((f32Q a).mul (f32Q b))

/-- IEEE 754 sum, rounded to nearest even. -/
def f32Add (a b : F32) : F32 :=
  if f32IsNaN a || f32IsNaN b then f32NaN
  else if f32IsInf a then
    if f32IsInf b && (f32Neg a != f32Neg b) then f32NaN else a
  else if f32IsInf b then b
  else rn (f32Neg a && f32Neg b && f32IsZero a && f32IsZero b) ((f32Q a).add (f32Q b))

/-- IEEE 754 quotient, rounded to nearest even. -/
def f32Div (a b : F32) : F32 :=
  let neg := f32Neg a != f32Neg b
  if f32IsNaN a || f32IsNaN b then f32NaN
  else if f32IsInf a then (if f32IsInf b then f32NaN else f32InfOf neg)
  else if f32IsInf b then f32Mk neg 0
  else if f32IsZero b then (if f32IsZero a then f32NaN else f32InfOf neg)
  else rn neg ((f32Q a).div (f32Q b))

/-- IEEE 754 fused w × v + s (the non-finite branch of R138's lane_add). -/
def f32Fma (w v s : F32) : F32 :=
  if f32IsNaN w || f32IsNaN v || f32IsNaN s then f32NaN
  else if f32IsInf w || f32IsInf v then f32Add (f32Mul w v) s
  else if f32IsInf s then s
  else
    let pneg := f32Neg w != f32Neg v
    let pz := f32IsZero w || f32IsZero v
    rn (pz && pneg && f32IsZero s && f32Neg s) (((f32Q w).mul (f32Q v)).add (f32Q s))

/-- A natural number rounded to nearest FP32 (R132's fp32(n)). -/
def f32OfNat (n : Nat) : F32 := rn false ⟨n, 1⟩

/-- Larger of two FP32 values that are not NaN, +0 above -0 (R152). -/
def f32Max2 (a b : F32) : F32 :=
  let lt := if f32IsZero a && f32IsZero b then f32Neg a && !f32Neg b
    else if f32IsInf a then f32Neg a && !(f32IsInf b && f32Neg b)
    else if f32IsInf b then !f32Neg b
    else (f32Q a).lt (f32Q b)
  if lt then b else a

/-- Integer square root by bits: the largest m with m² ≤ n, from `k` bits down. -/
def isqrtBits (n : Nat) : Nat → Nat → Nat
  | 0, m => m
  | k + 1, m =>
    let t := m + 2 ^ k
    isqrtBits n k (if t * t ≤ n then t else m)

/-- The largest m with m² ≤ n. -/
def isqrt (n : Nat) : Nat := isqrtBits n (Nat.log2 n / 2 + 1) 0

/-- The square root of a non-negative exact value, rounded to nearest FP32 (R132). The root is taken to 64 bits
beyond the FP32 significand with a sticky bit, so the rounding is the correct one. -/
def f32Sqrt (q : Q) : F32 :=
  if q.num ≤ 0 then f32Zero
  else
    -- scale n / d by 2^(2 k) so that the integer root has at least 90 bits
    let k := 90 + Nat.log2 q.den
    let n := q.num.natAbs * 2 ^ (2 * k) / q.den
    let m := isqrt n
    let exactRoot := decide (m * m = n) && decide (q.num.natAbs * 2 ^ (2 * k) % q.den = 0)
    -- two extra bits hold the sticky bit
    rn false ⟨(4 * m + if exactRoot then 0 else 1 : Nat), 2 ^ (k + 2)⟩

end Sys2Proof.Machine
end

