-- ==== Sys2Proof/Machine/Real.lean ====
section
/-! DEFINITION. Roots, powers, exponentials and cosines rounded to nearest FP32, and expressions that round once
(06 R169, 08 R231 to R234). Irrational values are formed to some 300 bits before the one rounding
(notes/assumptions/17.md). -/

namespace Sys2Proof.Machine

/-- Bits behind the point of a fixed-point value. -/
def fxP : Nat := 320

/-- The same value, or one within 2^-500 of it relative to its size, held in at most 512-bit terms. -/
def Q.trim (a : Q) : Q :=
  let n := a.num.natAbs
  let s := Nat.min (Nat.log2 n) (Nat.log2 a.den)
  if n = 0 ∨ s ≤ 512 then a
  else
    let k := s - 512
    -- an odd last bit keeps what was cut off from looking like a tie
    let cut (x : Nat) : Nat := if x % 2 ^ k = 0 then x / 2 ^ k else x / 2 ^ k / 2 * 2 + 1
    if a.den % 2 ^ k = 0 then ⟨if a.num < 0 then -(cut n : Int) else cut n, a.den / 2 ^ k⟩
    else ⟨if a.num < 0 then -(cut n : Int) else cut n, cut a.den⟩

/-- A magnitude held between 2^-5000 and 2^5000: beyond them every result rounds alike. -/
def Q.clamp (a : Q) : Q :=
  let n := a.num.natAbs
  if n = 0 then ⟨0, 1⟩
  else if Nat.log2 n + 5000 < Nat.log2 a.den then ⟨if a.num < 0 then -1 else 1, 2 ^ 5000⟩
  else if Nat.log2 a.den + 5000 < Nat.log2 n then ⟨if a.num < 0 then -(2 ^ 5000 : Int) else 2 ^ 5000, 1⟩
  else a

/-- A value to a power, by the bits of the exponent from the lowest up; `fuel` bits. -/
def qPowBits (base : Q) (n : Nat) (acc : Q) : Nat → Q
  | 0 => acc
  | fuel + 1 =>
    if n = 0 then acc
    else
      let acc := if n % 2 = 1 then (acc.mul base).trim.clamp else acc
      qPowBits (base.mul base).trim.clamp (n / 2) acc fuel

/-- A value to the power of a natural number below 2^33. -/
def qPow (base : Q) (n : Nat) : Q := qPowBits base n ⟨1, 1⟩ 33

/-- The square root of a non-negative value. -/
def qSqrt (a : Q) : Q :=
  if a.num ≤ 0 then ⟨0, 1⟩
  else
    let k := fxP + Nat.log2 a.den
    let n := a.num.natAbs * 2 ^ (2 * k) / a.den
    let m := isqrt n
    let ex := decide (m * m = n) && decide (a.num.natAbs * 2 ^ (2 * k) % a.den = 0)
    ⟨(4 * m + if ex then 0 else 1 : Nat), 2 ^ (k + 2)⟩

/-- The terms of the exponential series of a fixed-point value, summed. -/
def expTerms (r k term acc : Nat) : Nat → Nat
  | 0 => acc
  | fuel + 1 =>
    let t := term * r / (2 ^ fxP * k)
    if t = 0 then acc else expTerms r (k + 1) t (acc + t) fuel

/-- The square of a fixed-point value, taken eight times. -/
def square8 (x : Nat) : Nat := (List.range 8).foldl (fun x _ => x * x / 2 ^ fxP) x

/-- exp_rn of an exact value that is not above 0 (R169). -/
def expRn (q : Q) : F32 :=
  let y : Q := q.abs
  if y.num = 0 then f32One
  else if (Q.ofInt 110).le y then f32Zero
  else
    let r := y.num.natAbs * 2 ^ fxP / (y.den * 256)
    rn false ⟨2 ^ fxP, square8 (expTerms r 1 (2 ^ fxP) (2 ^ fxP) 200)⟩

/-- The terms of arctan(1 / x) in fixed point: `neg` is the sign of the next term. -/
def atanTerms (x k pw : Nat) (neg : Bool) (acc : Int) : Nat → Int
  | 0 => acc
  | fuel + 1 =>
    if pw = 0 then acc
    else
      let t : Int := pw / k
      atanTerms x (k + 2) (pw / (x * x)) (!neg) (if neg then acc - t else acc + t) fuel

/-- π in fixed point, by Machin's formula. -/
def piFx : Nat :=
  let p := 2 ^ (fxP + 16)
  let a := atanTerms 5 1 (p / 5) false 0 300
  let b := atanTerms 239 1 (p / 239) false 0 300
  (16 * a - 4 * b).toNat / 2 ^ 16

/-- The terms of the cosine series of a fixed-point value. -/
def cosTerms (x2 k term : Nat) (neg : Bool) (acc : Int) : Nat → Int
  | 0 => acc
  | fuel + 1 =>
    let t := term * x2 / (2 ^ fxP * (k * (k + 1)))
    if t = 0 then acc else cosTerms x2 (k + 2) t (!neg) (if neg then acc - (t : Int) else acc + (t : Int)) fuel

/-- cos_rn of π × p for p from 0 up to 1 (R231). -/
def cosPiRn (p : Q) : F32 :=
  if p.eqv ⟨1, 2⟩ then f32Zero
  else
    let flip := (Q.mk 1 2).lt p
    let p := if flip then (Q.ofInt 1).sub p else p
    let x := p.num.natAbs * piFx / p.den
    let c := cosTerms (x * x / 2 ^ fxP) 1 (2 ^ fxP) true (2 ^ fxP) 200
    rn false ⟨if flip then -c else c, 2 ^ fxP⟩

/-! Expressions that round once. -/

/-- An expression over FP32 operands. -/
inductive Ex where
  | val (x : F32)
  | add (a b : Ex)
  | sub (a b : Ex)
  | mul (a b : Ex)
  | div (a b : Ex)
  | sqrt (a : Ex)
  | pow (a : Ex) (n : Nat)
  | sum (xs : List F32)
  | sumSq (xs : List F32)
  deriving Repr

/-- The exact value of an expression over finite operands. -/
def Ex.exact : Ex → Q
  | .val x => f32Q x
  | .add a b => a.exact.add b.exact
  | .sub a b => a.exact.sub b.exact
  | .mul a b => a.exact.mul b.exact
  | .div a b => a.exact.div b.exact
  | .sqrt a => qSqrt a.exact
  | .pow a n => qPow a.exact n
  | .sum xs => (xs.map f32Q).foldl Q.add (Q.ofInt 0)
  | .sumSq xs => (xs.map (fun x => (f32Q x).mul (f32Q x))).foldl Q.add (Q.ofInt 0)

/-- The expression has an exact value: operands finite, no division by zero, no root of a negative value (R233). -/
def Ex.ok : Ex → Bool
  | .val x => f32IsFin x
  | .add a b | .sub a b | .mul a b => a.ok && b.ok
  | .div a b => a.ok && b.ok && !b.exact.isZero
  | .sqrt a => a.ok && !a.exact.isNeg
  | .pow a _ => a.ok
  | .sum xs | .sumSq xs => xs.all f32IsFin

/-- The sign of the exact value; of an exact zero, the sign that IEEE 754 gives (R138). -/
def Ex.neg : Ex → Bool
  | .val x => f32Neg x
  | .add a b =>
    let q := a.exact.add b.exact
    if q.isZero then a.exact.isZero && b.exact.isZero && a.neg && b.neg else q.isNeg
  | .sub a b =>
    let q := a.exact.sub b.exact
    if q.isZero then a.exact.isZero && b.exact.isZero && a.neg && !b.neg else q.isNeg
  | .mul a b | .div a b => a.neg != b.neg
  | .sqrt a => a.neg
  | .pow a n => a.neg && decide (n % 2 = 1)
  | .sum xs => xs.all (fun x => f32IsZero x && f32Neg x) && !xs.isEmpty
  | .sumSq _ => false

/-- IEEE 754 square root. -/
def f32SqrtOf (x : F32) : F32 :=
  if f32IsNaN x || f32IsZero x then x
  else if f32Neg x then f32NaN
  else if f32IsInf x then x
  else f32Sqrt (f32Q x)

/-- A power of an FP32 value, correctly rounded. -/
def f32Pow (x : F32) (n : Nat) : F32 :=
  if n = 0 then f32One
  else if f32IsNaN x then f32NaN
  else if f32IsInf x then f32InfOf (f32Neg x && decide (n % 2 = 1))
  else rn (f32Neg x && decide (n % 2 = 1)) (qPow (f32Q x) n)

/-- The value that IEEE 754 arithmetic gives one operation at a time (R233). -/
def Ex.ieee : Ex → F32
  | .val x => x
  | .add a b => f32Add a.ieee b.ieee
  | .sub a b => f32Add a.ieee (f32Flip b.ieee)
  | .mul a b => f32Mul a.ieee b.ieee
  | .div a b => f32Div a.ieee b.ieee
  | .sqrt a => f32SqrtOf a.ieee
  | .pow a n => f32Pow a.ieee n
  | .sum xs => xs.foldl f32Add f32Zero
  | .sumSq xs => (xs.map (fun x => f32Mul x x)).foldl f32Add f32Zero

/-- rn of an expression: one rounding of its exact value, or IEEE 754 arithmetic where it has none (R233). -/
def Ex.rn (x : Ex) : F32 := if x.ok then Sys2Proof.Machine.rn x.neg x.exact else x.ieee

end Sys2Proof.Machine
end

