-- ==== Sys2Proof/Machine/Formats.lean ====
section
/-! DEFINITION. Element formats, scales, narrowing, activation streams (04_number_formats_and_scales.md) and the
checks of the engine's structures (CRC-24 of R70, CRC-16 of R328, CRC-32 of R248, CRC-64 of R374). -/

namespace Sys2Proof.Machine

/-! Element formats (R66, R98): the code of a format is its number in the table "Element format codes". -/

/-- A code of the table "Element format codes". -/
def fmtValid (f : Nat) : Bool := decide (f ≤ 6)

/-- Bits per element (R66). -/
def fmtBits (f : Nat) : Nat :=
  match f with
  | 0 => 32 | 1 => 16 | 2 => 16 | 3 => 8 | 4 => 8 | 5 => 8 | _ => 4

/-- The format takes a row scale from the Praline tensor (R66). -/
def fmtScaled (f : Nat) : Bool := decide (3 ≤ f)

/-- Packed size of a row of `w` elements in bytes (R67). -/
def packedSize (f w : Nat) : Nat := ceilDiv (w * fmtBits f) 8

/-- The eight magnitudes of B4, in 128ths (R101). -/
def b4Mags : List Nat := [0, 8, 17, 27, 39, 54, 76, 128]

/-- A code of a floating-point grid as FP32, given where infinities and NaNs begin. -/
def gridToF32 (g : Grid) (neg : Bool) (mag : Nat) : F32 :=
  let m : Int := gridMag g mag
  rn neg ⟨if neg then -m else m, 2 ^ g.minExp⟩

/-- The FP32 value of one code of a format; for the quantised formats the grid value (R98 to R101). -/
def fmtDecode (f code : Nat) : F32 :=
  match f with
  | 0 => BitVec.ofNat 32 code
  | 1 => BitVec.ofNat 32 (code * 2 ^ 16)
  | 2 =>
    let mag := code % 2 ^ 15
    let neg := decide (2 ^ 15 ≤ code)
    if mag > 0x7C00 then f32NaN else if mag = 0x7C00 then f32InfOf neg else gridToF32 gridFp16 neg mag
  | 3 =>
    let mag := code % 128
    let neg := decide (128 ≤ code)
    if mag = 0x7F then f32NaN else gridToF32 gridE4m3 neg mag
  | 4 =>
    let mag := code % 128
    let neg := decide (128 ≤ code)
    if mag > 0x7C then f32NaN else if mag = 0x7C then f32InfOf neg else gridToF32 gridE5m2 neg mag
  | 5 => rn false (Q.ofInt (BitVec.ofNat 8 code).toInt)
  | _ =>
    let m : Int := b4Mags.getD (code % 8) 0
    rn false ⟨if 8 ≤ code then -m else m, 128⟩

/-- Largest finite magnitude G of a format (R98). -/
def fmtG (f : Nat) : Q :=
  match f with
  | 0 => f32Q f32Max
  | 1 => f32Q 0x7F7F0000
  | 2 => ⟨65504, 1⟩
  | 3 => ⟨448, 1⟩
  | 4 => ⟨57344, 1⟩
  | 5 => ⟨127, 1⟩
  | _ => ⟨1, 1⟩

/-- Rounds a magnitude onto a floating-point grid toward zero; true where it is above G (R103). -/
def tzFloat (g : Grid) (q : Q) : Nat × Bool :=
  let c := roundMag g .zero false q.num.natAbs q.den
  if c > g.maxCode then (g.maxCode, true)
  else if c = g.maxCode then
    -- above the largest finite value but rounded down onto it: clipped as well
    (c, decide (gridMag g g.maxCode * q.den < q.num.natAbs * 2 ^ g.minExp))
  else (c, false)

/-- The sign bit of a floating-point format of `b` bits. -/
def signBit (b : Nat) (neg : Bool) : Nat := if neg then 2 ^ (b - 1) else 0

/-- encode_tz: an exact finite value to the grid of a format, toward zero, and whether it clipped (R102, R103).
`zneg` is the sign of an exact zero. -/
def encodeTz (f : Nat) (zneg : Bool) (q : Q) : Nat × Bool :=
  let neg := if q.num = 0 then zneg else decide (q.num < 0)
  match f with
  | 0 => let r := tzFloat gridFp32 q; (signBit 32 neg + r.1, r.2)
  | 1 => let r := tzFloat gridBf16 q; (signBit 16 neg + r.1, r.2)
  | 2 => let r := tzFloat gridFp16 q; (signBit 16 neg + r.1, r.2)
  | 3 => let r := tzFloat gridE4m3 q; (signBit 8 neg + r.1, r.2)
  | 4 => let r := tzFloat gridE5m2 q; (signBit 8 neg + r.1, r.2)
  | 5 =>
    let m := q.num.natAbs / q.den
    let clip := decide (127 * q.den < q.num.natAbs)
    let m := min m 127
    ((if neg && decide (m ≠ 0) then 256 - m else m), clip)
  | _ =>
    let clip := decide (q.den < q.num.natAbs)
    -- the largest magnitude k / 128 not above |q|
    let idx := (b4Mags.filter (fun k => decide (k * q.den ≤ q.num.natAbs * 128))).length - 1
    ((if neg && decide (idx ≠ 0) then 8 + idx else idx), clip)

/-- Conversion of a non-finite operand and whether it counts as clipped (R104). -/
def encodeNonFinite (f : Nat) (x : F32) : Nat × Bool :=
  let neg := f32Neg x
  if f32IsNaN x then
    match f with
    | 0 => (0x7FC00000, false)
    | 1 => (0x7FC0, false)
    | 2 => (0x7E00, false)
    | 3 => (0x7F, false)
    | 4 => (0x7E, false)
    | _ => (0, true)
  else
    match f with
    | 0 => (signBit 32 neg + 0x7F800000, false)
    | 1 => (signBit 16 neg + 0x7F80, false)
    | 2 => (signBit 16 neg + 0x7C00, false)
    | 3 => (signBit 8 neg + 0x7E, true)
    | 4 => (signBit 8 neg + 0x7C, false)
    | 5 => (if neg then 129 else 127, true)
    | _ => (if neg then 15 else 7, true)

/-- Narrowing of an FP32 value to a format (R103, R104). -/
def narrow (f : Nat) (x : F32) : Nat × Bool :=
  if f32IsFin x then encodeTz f (f32Neg x) (f32Q x) else encodeNonFinite f x

/-! Rows of elements (R67). -/

/-- Codes packed into bytes, element 0 lowest, zero-padded to `size` bytes (R67). -/
def packCodes (f : Nat) (codes : List Nat) (size : Nat) : List Byte :=
  let b := fmtBits f
  toBytes size (codes.foldr (fun c a => a * 2 ^ b + c % 2 ^ b) 0)

/-- The codes of the first `w` elements of a row (R67). -/
def unpackCodes (f w : Nat) (bytes : List Byte) : List Nat :=
  let v := ofBytes bytes
  (List.range w).map (fun e => bitsOf v (fmtBits f * e) (fmtBits f))

/-! Scales (R108). -/

/-- m_j: the FP32 value nearest 2^(j/8) (R108, table "Scale multipliers"). -/
def scaleMult : List F32 :=
  [0x3F800000, 0x3F8B95C2, 0x3F9837F0, 0x3FA5FED7, 0x3FB504F3, 0x3FC5672A, 0x3FD744FD, 0x3FEAC0C7]

/-- The scale of a log scale code (R108); exact. -/
def lsScale (ls : Nat) : Q :=
  let e : Int := ((ls : Int) - 128) / 8
  (f32Q (scaleMult.getD (ls % 8) 0)).mul (Q.pow2 e)

/-- The widened value of one code of a row (R113): exact for the unscaled formats, rn(grid × scale) otherwise. -/
def widen (f ls code : Nat) : F32 :=
  let g := fmtDecode f code
  if fmtScaled f && f32IsFin g then rn (f32Neg g) ((f32Q g).mul (lsScale ls)) else g

/-- The BF16 value of a side-row element or output element as FP32. -/
def bf16ToF32 (c : Nat) : F32 := BitVec.ofNat 32 (c * 2 ^ 16)

/-! Output format bytes and scale groups (R117 to R121). -/

/-- FMT of an output format byte. -/
def ofFmt (b : Nat) : Nat := bitsOf b 0 3
/-- ZP of an output format byte. -/
def ofZp (b : Nat) : Bool := decide (bitsOf b 3 1 = 1)
/-- SCALED of an output format byte. -/
def ofScaled (b : Nat) : Bool := decide (bitsOf b 4 1 = 1)

/-- The output format byte is one the table "Output format byte" allows (R117). -/
def outFmtValid (b : Nat) : Bool :=
  fmtValid (ofFmt b) && decide (bitsOf b 5 3 = 0) && decide (b < 256) &&
  (ofScaled b == fmtScaled (ofFmt b)) && (!ofZp b || fmtScaled (ofFmt b))

/-- What encoding one scale group gives: codes, scale record, clipped elements, and whether it was degenerate. -/
structure Encoded where
  codes   : List Nat
  scale   : F32
  zp      : F32
  clipped : Nat
  degen   : Bool
  deriving DecidableEq, Repr

/-- encode_group (R119, R121). -/
def encodeGroup (f : Nat) (zpMode : Bool) (xs : List F32) : Encoded :=
  let fin := (xs.filter f32IsFin).map f32Q
  let lo := match fin with | [] => Q.ofInt 0 | x :: r => r.foldl Q.min x
  let hi := match fin with | [] => Q.ofInt 0 | x :: r => r.foldl Q.max x
  -- the sign of a zero midpoint: -0 only where every addend is -0 (R138)
  let allNegZero := xs.any f32IsFin && (xs.filter f32IsFin).all (fun x => f32IsZero x && f32Neg x)
  let zp := if zpMode then rn allNegZero ((lo.add hi).div ⟨2, 1⟩) else f32Zero
  let zq := f32Q zp
  let hr0 := if zpMode then ru (Q.max (hi.sub zq) (zq.sub lo)) else ru (Q.max lo.abs hi.abs)
  let hr := if f32IsInf hr0 then f32Max else hr0
  let degen := f32IsZero hr
  let scale := if degen then f32One else ru ((f32Q hr).div (fmtG f))
  let enc := xs.map (fun x =>
    if f32IsFin x then
      let t := (f32Q x).sub zq
      -- every finite element of a degenerate group has code 0 (R121)
      if degen then (0, false)
      else encodeTz f (f32IsZero x && f32Neg x && (!zpMode || !(f32Neg zp) && f32IsZero zp)) (t.div (f32Q scale))
    else
      let r := encodeNonFinite f x
      (r.1, true))
  ⟨enc.map (·.1), scale, zp, (enc.filter (·.2)).length, degen⟩

/-- Reading one element of a scaled stream (R120): rn(rn(grid × SCALE) + ZERO_POINT). -/
def streamWiden (b : Nat) (scale zp : F32) (code : Nat) : F32 :=
  let g := fmtDecode (ofFmt b) code
  if ofScaled b then
    let p := f32Mul g scale
    if ofZp b then f32Add p zp else f32Add p f32Zero
  else g

/-! Compensated accumulation (R138 to R140, R142). -/

/-- add_exact (R138): the new lane and whether the tile saturated. `zneg`: the sign of an exact zero e. -/
def addExact (l : Lane) (zneg : Bool) (e : Q) (cIn : F32) : Lane × Bool :=
  let t := rn zneg e
  if f32IsInf t then (⟨f32Mk e.isNeg 0x7F7FFFFF, f32Zero⟩, true)
  else
    let err := e.sub (f32Q t)
    if f32IsFin l.c && f32IsFin cIn then
      let z := err.isZero
      -- e - t is +0 when zero, so the sum of zeros is never -0
      (⟨t, rn false (((f32Q l.c).add (f32Q cIn)).add (if z then Q.ofInt 0 else err))⟩, false)
    else (⟨t, f32Add (f32Add l.c cIn) (rn false err)⟩, false)

/-- lane_add (R138). -/
def laneAdd (l : Lane) (w v : F32) : Lane × Bool :=
  if f32IsFin l.s && f32IsFin w && f32IsFin v then
    let p := (f32Q w).mul (f32Q v)
    let pneg := f32Neg w != f32Neg v
    addExact l (f32IsZero l.s && f32Neg l.s && p.isZero && pneg) ((f32Q l.s).add p) f32Zero
  else (⟨f32Fma w v l.s, f32Zero⟩, false)

/-- lane_merge (R138). -/
def laneMerge (l : Lane) (p : Lane) : Lane × Bool :=
  if f32IsFin l.s && f32IsFin p.s then
    addExact l (f32IsZero l.s && f32Neg l.s && f32IsZero p.s && f32Neg p.s) ((f32Q l.s).add (f32Q p.s)) p.c
  else (⟨f32Add l.s p.s, f32Zero⟩, false)

/-- A lane-wise operation over two lists, and whether any lane saturated. -/
def lanesZip {α : Type} (f : Lane → α → Lane × Bool) : List Lane → List α → List Lane × Bool
  | l :: ls, x :: xs =>
    let r := f l x
    let t := lanesZip f ls xs
    (r.1 :: t.1, r.2 || t.2)
  | ls, _ => (ls, false)

/-- Finalisation of a lane with divisor `d` (R140); the flag is a saturation. -/
def laneFinal (l : Lane) (d : F32) : F32 × Bool :=
  if !f32IsFin l.s then (l.s, false)
  else
    let sum := (f32Q l.s).add (f32Q l.c)
    let zneg := f32IsZero l.s && f32Neg l.s && f32IsZero l.c && f32Neg l.c
    if !f32IsFin d then
      let t := rn zneg sum
      let sat := f32IsInf t
      let t := if sat then f32Mk sum.isNeg 0x7F7FFFFF else t
      (f32Div t d, sat)
    else if f32IsZero d then
      -- R134: no division
      let t := rn zneg sum
      if f32IsInf t then (f32Mk sum.isNeg 0x7F7FFFFF, true) else (t, false)
    else
      let neg := if sum.isZero then zneg != f32Neg d else (sum.isNeg != f32Neg d)
      let t := rn neg (sum.div (f32Q d))
      if f32IsInf t then (f32Mk neg 0x7F7FFFFF, true) else (t, false)

/-- The saturating integer add of INT accumulation (R142); the flag is a saturation. -/
def intAdd (s : F32) (v : Int) : F32 × Bool :=
  let t := s.toInt + v
  if t > 2147483647 then (0x7FFFFFFF, true)
  else if t < -2147483648 then (0x80000000, true)
  else (BitVec.ofInt 32 t, false)

/-! Checks over bytes. -/

/-- One bit of a most-significant-first CRC of `w` bits. -/
def crcBit (w poly : Nat) (crc : Nat) (bit : Bool) : Nat :=
  let top := decide (2 ^ (w - 1) ≤ crc) != bit
  let sh := crc * 2 % 2 ^ w
  if top then Nat.xor sh poly else sh

/-- A most-significant-first CRC over bytes. -/
def crcBytes (w poly : Nat) (crc : Nat) : List Byte → Nat
  | [] => crc
  | b :: bs =>
    crcBytes w poly
      ([7, 6, 5, 4, 3, 2, 1, 0].foldl (fun c i => crcBit w poly c (b.getLsbD i)) crc) bs

/-- CHECK of a sector (R70): data, VERSION_LO and the address divided by 32 in 5 bytes. -/
def crc24 (data : List Byte) (verLo : Byte) (addr : Nat) : Nat :=
  crcBytes 24 0x864CFB 0xB704CE (data ++ [verLo] ++ toBytes 5 (addr / 32))

/-- The side bits of a sector (R69): CHECK in [23:0], VERSION_LO in [31:24]. -/
def sideBits (data : List Byte) (verLo : Byte) (addr : Nat) : BitVec 32 :=
  BitVec.ofNat 32 (crc24 data verLo addr + verLo.toNat * 2 ^ 24)

/-- CRC-16 of a cache sector (R328). -/
def crc16 (bytes : List Byte) : Nat := crcBytes 16 0x1021 0xFFFF bytes

/-- CRC-64 of a flit's first 248 bytes (R374). The manual gives the polynomial alone; initial value 0, no reflection
and no final exclusive or are a DESIGN CHOICE (notes/assumptions/6.md). -/
def crc64 (bytes : List Byte) : Nat := crcBytes 64 0x42F0E1EBA9EA3693 0 bytes

/-- One bit of the reflected CRC-32. -/
def crc32Bit (c : Nat) : Nat := if c % 2 = 1 then Nat.xor (c / 2) 0xEDB88320 else c / 2

/-- The reflected CRC-32 over bytes from a running value. -/
def crc32Step (crc : Nat) : List Byte → Nat
  | [] => crc
  | b :: bs =>
    crc32Step ((List.range 8).foldl (fun c _ => crc32Bit c) (Nat.xor crc b.toNat)) bs

/-- CRC-32 of R248: polynomial 0x04C1_1DB7, reflected, initial value and final exclusive or all ones. -/
def crc32 (bytes : List Byte) : Nat := Nat.xor (crc32Step 0xFFFFFFFF bytes) 0xFFFFFFFF

end Sys2Proof.Machine
end

