-- ==== Sys2Proof/Config.lean ====
section
/-! DEFINITION. The free values of the model: what the manual names undefined, or leaves unstated, while the
engine goes on. No constant here has a body that a proof could see (notes/assumptions/2.md). -/

namespace Sys2Proof

/-- The n-th free value taken in a run. The counter `freeCtr` of the state numbers them; nothing constrains
the values (DESIGN CHOICE, notes/assumptions/2.md; safe). -/
opaque Config.freeValue : Nat → BitVec 64

end Sys2Proof
end

