-- ==== Sys2Proof/Machine/RegMap.lean ====
section
/-! DEFINITION. The register window: every register of 16_register_map.md (R447 to R457), its offset,
its reset value, its access masks and its fields, as the tables of the behaviour chapters give them. -/

namespace Sys2Proof.Machine

/-- The registers of the window, under the manual's names (16_register_map.md R455 to R457).
A slice's register takes the slice number first; an array register takes its indices. -/
inductive Reg where
  | ringtabBase  -- SHD_RINGTAB_BASE, R28
  | ringtabSize  -- SHD_RINGTAB_SIZE, R28
  | dbellBase  -- SHD_DBELL_BASE, R28
  | dbellPoll  -- SHD_DBELL_POLL, R28
  | ringCmd  -- SHD_RING_CMD, R28
  | slcProfCtl (n p : Nat)  -- SHD_SLC_PROF_CTL, R155
  | slcProfHome (n p : Nat)  -- SHD_SLC_PROF_HOME, R155
  | slcProfScratch (n p : Nat)  -- SHD_SLC_PROF_SCRATCH, R155
  | slcProfBias (n p : Nat)  -- SHD_SLC_PROF_BIAS, R155
  | slcMoeCtl (n p : Nat)  -- SHD_SLC_MOE_CTL, R166
  | slcMoeSlots (n p : Nat)  -- SHD_SLC_MOE_SLOTS, R166
  | slcMoeCount (n p : Nat)  -- SHD_SLC_MOE_COUNT, R166
  | slcGradSpill (n : Nat)  -- SHD_SLC_GRAD_SPILL, R198
  | slcGradSort (n : Nat)  -- SHD_SLC_GRAD_SORT, R198
  | slcGradSts (n : Nat)  -- SHD_SLC_GRAD_STS, R198
  | stepCfg  -- SHD_STEP_CFG, R208
  | stepSts  -- SHD_STEP_STS, R208
  | stepBase  -- SHD_STEP_BASE, R208
  | stepMembers  -- SHD_STEP_MEMBERS, R208
  | optBeta (p : Nat)  -- SHD_OPT_BETA, R228
  | optEps (p : Nat)  -- SHD_OPT_EPS, R228
  | optDecay (p : Nat)  -- SHD_OPT_DECAY, R228
  | optCtl (p : Nat)  -- SHD_OPT_CTL, R228
  | schedSeg (s i : Nat)  -- SHD_SCHED_SEG, R230
  | schedEta (s i : Nat)  -- SHD_SCHED_ETA, R230
  | schedOrigin (s : Nat)  -- SHD_SCHED_ORIGIN, R230
  | slcDriftCtl (n : Nat)  -- SHD_SLC_DRIFT_CTL, R237
  | slcDriftFirst (n : Nat)  -- SHD_SLC_DRIFT_FIRST, R237
  | slcDriftCount (n : Nat)  -- SHD_SLC_DRIFT_COUNT, R237
  | slcDriftSts (n : Nat)  -- SHD_SLC_DRIFT_STS, R237
  | slcPark (n : Nat)  -- SHD_SLC_PARK, R245
  | slcUpdCfg (n : Nat)  -- SHD_SLC_UPD_CFG, R245
  | slcUpdSts (n : Nat)  -- SHD_SLC_UPD_STS, R245
  | slcSketchCfg (n : Nat)  -- SHD_SLC_SKETCH_CFG, R271
  | slcSketchRpt (n : Nat)  -- SHD_SLC_SKETCH_RPT, R271
  | slcSketchSts (n : Nat)  -- SHD_SLC_SKETCH_STS, R271
  | slcTruffleBudget (n : Nat)  -- SHD_SLC_TRUFFLE_BUDGET, R271
  | slcReplSts (n : Nat)  -- SHD_SLC_REPL_STS, R271
  | slcSketchClr (n : Nat)  -- SHD_SLC_SKETCH_CLR, R271
  | replCfg  -- SHD_REPL_CFG, R271
  | replSts  -- SHD_REPL_STS, R271
  | slcStreamCfg (n : Nat)  -- SHD_SLC_STREAM_CFG, R311
  | slcStreamSts (n : Nat)  -- SHD_SLC_STREAM_STS, R311
  | slcQueueSts (n : Nat)  -- SHD_SLC_QUEUE_STS, R311
  | slcWdog (n : Nat)  -- SHD_SLC_WDOG, R311
  | slcWdogSts (n : Nat)  -- SHD_SLC_WDOG_STS, R311
  | deadlineTab0  -- SHD_DEADLINE_TAB0, R311
  | deadlineTab1  -- SHD_DEADLINE_TAB1, R311
  | sringBase  -- SHD_SRING_BASE, R311
  | sringHead  -- SHD_SRING_HEAD, R311
  | sringTail  -- SHD_SRING_TAIL, R311
  | slcWayCfg (n : Nat)  -- SHD_SLC_WAY_CFG, R330
  | slcWaySts (n : Nat)  -- SHD_SLC_WAY_STS, R330
  | slcCacheCnt (n : Nat)  -- SHD_SLC_CACHE_CNT, R330
  | hbmThrCfg  -- SHD_HBM_THR_CFG, R342
  | hbmStackSts (s : Nat)  -- SHD_HBM_STACK_STS, R342
  | hbmAddwinBase (n : Nat)  -- SHD_HBM_ADDWIN_BASE, R342
  | hbmAddwinSize (n : Nat)  -- SHD_HBM_ADDWIN_SIZE, R342
  | nearCfg  -- SHD_NEAR_CFG, R359
  | nearSts  -- SHD_NEAR_STS, R359
  | d2dEdgeSts (e : Nat)  -- SHD_D2D_EDGE_STS, R368
  | d2dPath  -- SHD_D2D_PATH, R368
  | ucieCtl  -- SHD_UCIE_CTL, R373
  | ucieSts  -- SHD_UCIE_STS, R373
  | ucieCap  -- SHD_UCIE_CAP, R373
  | podCfg  -- SHD_POD_CFG, R381
  | nlE2eCfg  -- SHD_NL_E2E_CFG, R381
  | nlE2eSts  -- SHD_NL_E2E_STS, R381
  | hostPath  -- SHD_HOST_PATH, R381
  | nlTimeCfg  -- SHD_NL_TIME_CFG, R381
  | nlTimeSts  -- SHD_NL_TIME_STS, R381
  | nlPortSts (p : Nat)  -- SHD_NL_PORT_STS, R381
  | nlRoute (d : Nat)  -- SHD_NL_ROUTE, R381
  | partnerMap (w : Nat)  -- SHD_PARTNER_MAP, R381
  | nlMcast (g : Nat)  -- SHD_NL_MCAST, R381
  | chainEnt (d w : Nat)  -- SHD_CHAIN_ENT, R381
  | safeCfg  -- SHD_SAFE_CFG, R413
  | faultSts  -- SHD_FAULT_STS, R413
  | safeInject  -- SHD_SAFE_INJECT, R413
  | podLost  -- SHD_POD_LOST, R413
  | slcSts (n : Nat)  -- SHD_SLC_STS, R413
  | slcCtl (n : Nat)  -- SHD_SLC_CTL, R413
  | slcCoreMap (n m : Nat)  -- SHD_SLC_CORE_MAP, R413
  | slcSpareSts (n : Nat)  -- SHD_SLC_SPARE_STS, R413
  | logCtl  -- SHD_LOG_CTL, R421
  | logHost (n : Nat)  -- SHD_LOG_HOST, R421
  | logPiAddr (n : Nat)  -- SHD_LOG_PI_ADDR, R421
  | logCi (n : Nat)  -- SHD_LOG_CI, R421
  | logSts (n : Nat)  -- SHD_LOG_STS, R421
  | logPi (n : Nat)  -- SHD_LOG_PI, R421
  | reset  -- SHD_RESET, R446
  | initCtl  -- SHD_INIT_CTL, R446
  | initSts  -- SHD_INIT_STS, R446
  | clkCfg  -- SHD_CLK_CFG, R446
  | pwrProfile  -- SHD_PWR_PROFILE, R446
  | pwrCap  -- SHD_PWR_CAP, R446
  | pwrCtl  -- SHD_PWR_CTL, R446
  | pwrSlice  -- SHD_PWR_SLICE, R446
  | pwrSts  -- SHD_PWR_STS, R446
  | pwrTelem (d : Nat)  -- SHD_PWR_TELEM, R446
  | aliveCfg  -- SHD_ALIVE_CFG, R446
  | id  -- SHD_ID, R451
  | cap0  -- SHD_CAP0, R451
  | cap1  -- SHD_CAP1, R451
  | cap2  -- SHD_CAP2, R451
  | cap3  -- SHD_CAP3, R451
  | ctl  -- SHD_CTL, R452
  | sts  -- SHD_STS, R452
  | time  -- SHD_TIME, R452
  deriving DecidableEq, Repr

/-- The reset value and the access masks of a register (R10): `rw` the bits a write stores, `w1c` the flags a
written 1 clears, `rw1s` the bits a written 1 sets. Every other bit ignores writes. -/
structure RegSpec where
  reset : BitVec 64
  rw    : BitVec 64
  w1c   : BitVec 64
  rw1s  : BitVec 64
  deriving DecidableEq, Repr

/-- SHD_SLC_CORE_MAP(m) after reset: byte k reads 0x80 + 8m + k (R456). -/
def coreMapReset (m : Nat) : BitVec 64 :=
  BitVec.ofNat 64 ((List.range 8).foldl (fun a k => a + (0x80 + 8 * m + k) * 2 ^ (8 * k)) 0)

/-- The access masks and reset value of every register (the register tables of chapters 02 to 16). -/
def Reg.spec : Reg → RegSpec
  | .ringtabBase => ⟨0x0, 0xFFFFFFFFFFFFF000, 0x0, 0x0⟩
  | .ringtabSize => ⟨0x0, 0x7FF, 0x0, 0x0⟩
  | .dbellBase => ⟨0x0, 0xFFFFFFFFFFFFF000, 0x0, 0x0⟩
  | .dbellPoll => ⟨0xA, 0xFFFF, 0x0, 0x0⟩
  | .ringCmd => ⟨0x0, 0x703FF, 0x0, 0x8000000000000000⟩
  | .slcProfCtl _ _ => ⟨0x1000, 0x3FFFF01FFFF, 0x0, 0x0⟩
  | .slcProfHome _ _ => ⟨0x10000, 0x7F3FFF, 0x0, 0x0⟩
  | .slcProfScratch _ _ => ⟨0x0, 0x7FFFE00, 0x0, 0x0⟩
  | .slcProfBias _ _ => ⟨0x0, 0xFFFFFFFFFFFFFFC0, 0x0, 0x0⟩
  | .slcMoeCtl _ _ => ⟨0x0, 0xFFFFFF0FFF, 0x0, 0x0⟩
  | .slcMoeSlots _ _ => ⟨0x0, 0xFFFFFFFF, 0x0, 0x0⟩
  | .slcMoeCount _ _ => ⟨0x0, 0xFFFFFFFFFFFFFFF8, 0x0, 0x0⟩
  | .slcGradSpill _ => ⟨0x0, 0xFFFF07FFF000, 0x0, 0x0⟩
  | .slcGradSort _ => ⟨0x0, 0xFFFF07FFF000, 0x0, 0x0⟩
  | .slcGradSts _ => ⟨0x0, 0x0, 0x0, 0x0⟩
  | .stepCfg => ⟨0x3E827100000, 0xFFFFFFFF007F, 0x0, 0x0⟩
  | .stepSts => ⟨0x0, 0x0, 0x0, 0x0⟩
  | .stepBase => ⟨0x0, 0xFFFFFFFF, 0x0, 0x0⟩
  | .stepMembers => ⟨0x0, 0xFFFFFFFFFFFFFFFF, 0x0, 0x0⟩
  | .optBeta _ => ⟨0x0, 0xFFFFFFFFFFFFFFFF, 0x0, 0x0⟩
  | .optEps _ => ⟨0x0, 0xFFFFFFFFFFFFFFFF, 0x0, 0x0⟩
  | .optDecay _ => ⟨0x0, 0xFFFFFFFFFFFFFFFF, 0x0, 0x0⟩
  | .optCtl _ => ⟨0x0, 0xFFFFFFFF0000003F, 0x0, 0x0⟩
  | .schedSeg _ _ => ⟨0x0, 0x7FFFFFFFF, 0x0, 0x0⟩
  | .schedEta _ _ => ⟨0x0, 0xFFFFFFFFFFFFFFFF, 0x0, 0x0⟩
  | .schedOrigin _ => ⟨0x0, 0xFFFFFFFF, 0x0, 0x0⟩
  | .slcDriftCtl _ => ⟨0x0, 0xFFF, 0x0, 0x8000000000000000⟩
  | .slcDriftFirst _ => ⟨0x0, 0xFFFFFFFFFF, 0x0, 0x0⟩
  | .slcDriftCount _ => ⟨0x0, 0xFFFFFFFFFF, 0x0, 0x0⟩
  | .slcDriftSts _ => ⟨0x0, 0x0, 0x0, 0x0⟩
  | .slcPark _ => ⟨0x0, 0xFFFF07FFF000, 0x0, 0x0⟩
  | .slcUpdCfg _ => ⟨0xC80800, 0xFFFF1FFF, 0x0, 0x0⟩
  | .slcUpdSts _ => ⟨0x0, 0x0, 0x0, 0x0⟩
  | .slcSketchCfg _ => ⟨0x4000000, 0xFFFF0003, 0x0, 0x0⟩
  | .slcSketchRpt _ => ⟨0x0, 0xFFFFFFFFFFFFF01F, 0x0, 0x0⟩
  | .slcSketchSts _ => ⟨0x0, 0x0, 0x0, 0x0⟩
  | .slcTruffleBudget _ => ⟨0x0, 0xFFFF, 0x0, 0x0⟩
  | .slcReplSts _ => ⟨0x0, 0x0, 0x0, 0x0⟩
  | .slcSketchClr _ => ⟨0x0, 0x0, 0x0, 0x1⟩
  | .replCfg => ⟨0x640008, 0xFFFFFFFF, 0x0, 0x0⟩
  | .replSts => ⟨0x0, 0x0, 0x0, 0x0⟩
  | .slcStreamCfg _ => ⟨0x2020202020202020, 0x7F7F7F7F7F7F7F7F, 0x0, 0x0⟩
  | .slcStreamSts _ => ⟨0x0, 0x0, 0x0, 0x0⟩
  | .slcQueueSts _ => ⟨0x2020202020202020, 0x0, 0x0, 0x0⟩
  | .slcWdog _ => ⟨0x400000064, 0xFFFFFFFFFF, 0x0, 0x0⟩
  | .slcWdogSts _ => ⟨0x0, 0x0, 0x0, 0x0⟩
  | .deadlineTab0 => ⟨0x706050403020100, 0xFFFFFFFFFFFFFFFF, 0x0, 0x0⟩
  | .deadlineTab1 => ⟨0xFF0E0D0C0B0A0908, 0xFFFFFFFFFFFFFFFF, 0x0, 0x0⟩
  | .sringBase => ⟨0x0, 0xFFFFFFFFFFFFF0FF, 0x0, 0x0⟩
  | .sringHead => ⟨0x0, 0x0, 0x0, 0x0⟩
  | .sringTail => ⟨0x0, 0xFF, 0x0, 0x0⟩
  | .slcWayCfg _ => ⟨0x0, 0xFFFFFFFFFFFF, 0x0, 0x0⟩
  | .slcWaySts _ => ⟨0x0, 0x0, 0x0, 0x0⟩
  | .slcCacheCnt _ => ⟨0x0, 0x0, 0x0, 0x0⟩
  | .hbmThrCfg => ⟨0xA01033A, 0xFFFFFF3F, 0x0, 0x0⟩
  | .hbmStackSts _ => ⟨0x0, 0x0, 0x0, 0x0⟩
  | .hbmAddwinBase _ => ⟨0x0, 0x80FF007FFFFFF000, 0x0, 0x0⟩
  | .hbmAddwinSize _ => ⟨0x0, 0xFFFFFFF000, 0x0, 0x0⟩
  | .nearCfg => ⟨0xA, 0xFF, 0x0, 0x0⟩
  | .nearSts => ⟨0x0, 0x0, 0x0, 0x0⟩
  | .d2dEdgeSts _ => ⟨0x0, 0x0, 0x0, 0x0⟩
  | .d2dPath => ⟨0x0, 0x0, 0x0, 0x0⟩
  | .ucieCtl => ⟨0x0, 0x1, 0x0, 0x6⟩
  | .ucieSts => ⟨0x0, 0x0, 0x0, 0x0⟩
  | .ucieCap => ⟨0x0, 0x0, 0x0, 0x0⟩
  | .podCfg => ⟨0x0, 0x33F, 0x0, 0x0⟩
  | .nlE2eCfg => ⟨0x2000A0014, 0xFFFFFFFFFF, 0x0, 0x0⟩
  | .nlE2eSts => ⟨0x0, 0x0, 0x0, 0x0⟩
  | .hostPath => ⟨0x0, 0xFFFF07, 0x0, 0x0⟩
  | .nlTimeCfg => ⟨0xA00, 0xFF3D, 0x0, 0x0⟩
  | .nlTimeSts => ⟨0x0, 0x0, 0x0, 0x0⟩
  | .nlPortSts _ => ⟨0x0, 0x0, 0x0, 0x0⟩
  | .nlRoute _ => ⟨0x0, 0x3FF, 0x0, 0x0⟩
  | .partnerMap _ => ⟨0x0, 0xBFBFBFBFBFBFBFBF, 0x0, 0x0⟩
  | .nlMcast g => if g = 0 then ⟨0, 0, 0, 0⟩ else ⟨0, 0xFFFFFFFFFFFFFFFF, 0, 0⟩
  | .chainEnt _ _ => ⟨0x0, 0xFFFFFFFFFFFFFFFF, 0x0, 0x0⟩
  | .safeCfg => ⟨0xFF010A28, 0x7FFFF03FFFF, 0x0, 0x0⟩
  | .faultSts => ⟨0x0, 0x0, 0xFF000000, 0x0⟩
  | .safeInject => ⟨0x0, 0x3FF, 0x0, 0x8000000000000000⟩
  | .podLost => ⟨0x0, 0x0, 0xFFFFFFFFFFFFFFFF, 0x0⟩
  | .slcSts _ => ⟨0x400000, 0x0, 0x0, 0x0⟩
  | .slcCtl _ => ⟨0x0, 0x1, 0x0, 0x0⟩
  | .slcCoreMap _ m => ⟨coreMapReset m, 0, 0, 0⟩
  | .slcSpareSts _ => ⟨0xC1C0, 0x0, 0x0, 0x0⟩
  | .logCtl => ⟨0xFF01, 0xFF01, 0x0, 0x2⟩
  | .logHost _ => ⟨0x0, 0xFFFFFFFFFFFFF01F, 0x0, 0x0⟩
  | .logPiAddr _ => ⟨0x0, 0xFFFFFFFFFFFFFFF8, 0x0, 0x0⟩
  | .logCi _ => ⟨0x0, 0xFFFFFFFF, 0x0, 0x0⟩
  | .logSts _ => ⟨0x0, 0x0, 0x0, 0x0⟩
  | .logPi _ => ⟨0x0, 0x0, 0x0, 0x0⟩
  | .reset => ⟨0x0, 0x0, 0x0, 0x0⟩
  | .initCtl => ⟨0x0, 0x0, 0x0, 0x3⟩
  | .initSts => ⟨0x0, 0x0, 0x0, 0x0⟩
  | .clkCfg => ⟨0x10000, 0x10000, 0x0, 0x0⟩
  | .pwrProfile => ⟨0x3, 0x3, 0x0, 0x0⟩
  | .pwrCap => ⟨0x5F1400B4, 0xFFFF0FFF, 0x0, 0x0⟩
  | .pwrCtl => ⟨0x640001, 0xFFFF0001, 0x0, 0x0⟩
  | .pwrSlice => ⟨0x0, 0xE, 0x0, 0x0⟩
  | .pwrSts => ⟨0x0, 0x0, 0x0, 0x0⟩
  | .pwrTelem _ => ⟨0x0, 0x0, 0x0, 0x0⟩
  | .aliveCfg => ⟨0x1, 0x1, 0x0, 0x0⟩
  | .id => ⟨0xB048534A46, 0x0, 0x0, 0x0⟩
  | .cap0 => ⟨0x3000400008040424, 0x0, 0x0, 0x0⟩
  | .cap1 => ⟨0x1004081020100018, 0x0, 0x0, 0x0⟩
  | .cap2 => ⟨0x2100400004001000, 0x0, 0x0, 0x0⟩
  | .cap3 => ⟨0x20000040077F3F7F, 0x0, 0x0, 0x0⟩
  | .ctl => ⟨0x0, 0x7, 0x0, 0x0⟩
  | .sts => ⟨0x0, 0x0, 0xF, 0x0⟩
  | .time => ⟨0x0, 0x0, 0x0, 0x0⟩

/-- The window offset of every register (R455 to R457; the block bases of 00_scope.md). -/
def Reg.offset : Reg → Nat
  | .ringtabBase => 0x100
  | .ringtabSize => 0x108
  | .dbellBase => 0x110
  | .dbellPoll => 0x118
  | .ringCmd => 0x120
  | .slcProfCtl n p => 0x10000 + 0x10000 * n + 0x1000 + 0x20 * p
  | .slcProfHome n p => 0x10000 + 0x10000 * n + 0x1008 + 0x20 * p
  | .slcProfScratch n p => 0x10000 + 0x10000 * n + 0x1010 + 0x20 * p
  | .slcProfBias n p => 0x10000 + 0x10000 * n + 0x1018 + 0x20 * p
  | .slcMoeCtl n p => 0x10000 + 0x10000 * n + 0x1400 + 0x20 * p
  | .slcMoeSlots n p => 0x10000 + 0x10000 * n + 0x1408 + 0x20 * p
  | .slcMoeCount n p => 0x10000 + 0x10000 * n + 0x1410 + 0x20 * p
  | .slcGradSpill n => 0x10000 + 0x10000 * n + 0x500
  | .slcGradSort n => 0x10000 + 0x10000 * n + 0x508
  | .slcGradSts n => 0x10000 + 0x10000 * n + 0x510
  | .stepCfg => 0x600
  | .stepSts => 0x608
  | .stepBase => 0x610
  | .stepMembers => 0x618
  | .optBeta p => 0x2000 + 0x20 * p
  | .optEps p => 0x2008 + 0x20 * p
  | .optDecay p => 0x2010 + 0x20 * p
  | .optCtl p => 0x2018 + 0x20 * p
  | .schedSeg s i => 0x4000 + 0x100 * s + 0x10 * i
  | .schedEta s i => 0x4008 + 0x100 * s + 0x10 * i
  | .schedOrigin s => 0x5000 + 0x8 * s
  | .slcDriftCtl n => 0x10000 + 0x10000 * n + 0x618
  | .slcDriftFirst n => 0x10000 + 0x10000 * n + 0x620
  | .slcDriftCount n => 0x10000 + 0x10000 * n + 0x628
  | .slcDriftSts n => 0x10000 + 0x10000 * n + 0x630
  | .slcPark n => 0x10000 + 0x10000 * n + 0x600
  | .slcUpdCfg n => 0x10000 + 0x10000 * n + 0x608
  | .slcUpdSts n => 0x10000 + 0x10000 * n + 0x610
  | .slcSketchCfg n => 0x10000 + 0x10000 * n + 0x200
  | .slcSketchRpt n => 0x10000 + 0x10000 * n + 0x208
  | .slcSketchSts n => 0x10000 + 0x10000 * n + 0x210
  | .slcTruffleBudget n => 0x10000 + 0x10000 * n + 0x218
  | .slcReplSts n => 0x10000 + 0x10000 * n + 0x220
  | .slcSketchClr n => 0x10000 + 0x10000 * n + 0x228
  | .replCfg => 0x800
  | .replSts => 0x808
  | .slcStreamCfg n => 0x10000 + 0x10000 * n + 0x300
  | .slcStreamSts n => 0x10000 + 0x10000 * n + 0x308
  | .slcQueueSts n => 0x10000 + 0x10000 * n + 0x310
  | .slcWdog n => 0x10000 + 0x10000 * n + 0x400
  | .slcWdogSts n => 0x10000 + 0x10000 * n + 0x408
  | .deadlineTab0 => 0x900
  | .deadlineTab1 => 0x908
  | .sringBase => 0xB00
  | .sringHead => 0xB08
  | .sringTail => 0xB10
  | .slcWayCfg n => 0x10000 + 0x10000 * n + 0x100
  | .slcWaySts n => 0x10000 + 0x10000 * n + 0x108
  | .slcCacheCnt n => 0x10000 + 0x10000 * n + 0x110
  | .hbmThrCfg => 0xB0000
  | .hbmStackSts s => 0xB0010 + 0x8 * s
  | .hbmAddwinBase n => 0xB0100 + 0x10 * n
  | .hbmAddwinSize n => 0xB0108 + 0x10 * n
  | .nearCfg => 0xA00
  | .nearSts => 0xA08
  | .d2dEdgeSts e => 0xA0000 + 0x8 * e
  | .d2dPath => 0xA0020
  | .ucieCtl => 0xA0100
  | .ucieSts => 0xA0108
  | .ucieCap => 0xA0110
  | .podCfg => 0x80000
  | .nlE2eCfg => 0x80010
  | .nlE2eSts => 0x80018
  | .hostPath => 0x80020
  | .nlTimeCfg => 0x80040
  | .nlTimeSts => 0x80048
  | .nlPortSts p => 0x80100 + 0x8 * p
  | .nlRoute d => 0x80200 + 0x8 * d
  | .partnerMap w => 0x80600 + 0x8 * w
  | .nlMcast g => 0x80800 + 0x8 * g
  | .chainEnt d w => 0x81000 + 0x40 * d + 0x8 * w
  | .safeCfg => 0x500
  | .faultSts => 0x508
  | .safeInject => 0x520
  | .podLost => 0x528
  | .slcSts n => 0x10000 + 0x10000 * n + 0x0
  | .slcCtl n => 0x10000 + 0x10000 * n + 0x8
  | .slcCoreMap n m => 0x10000 + 0x10000 * n + 0x10 + 0x8 * m
  | .slcSpareSts n => 0x10000 + 0x10000 * n + 0x50
  | .logCtl => 0x90000
  | .logHost n => 0x90100 + 0x40 * n + 0x0
  | .logPiAddr n => 0x90100 + 0x40 * n + 0x8
  | .logCi n => 0x90100 + 0x40 * n + 0x10
  | .logSts n => 0x90100 + 0x40 * n + 0x18
  | .logPi n => 0x90100 + 0x40 * n + 0x20
  | .reset => 0x50
  | .initCtl => 0x58
  | .initSts => 0x60
  | .clkCfg => 0x300
  | .pwrProfile => 0x400
  | .pwrCap => 0x408
  | .pwrCtl => 0x410
  | .pwrSlice => 0x418
  | .pwrSts => 0x420
  | .pwrTelem d => 0x428 + 0x8 * d
  | .aliveCfg => 0x510
  | .id => 0x0
  | .cap0 => 0x8
  | .cap1 => 0x10
  | .cap2 => 0x18
  | .cap3 => 0x20
  | .ctl => 0x40
  | .sts => 0x48
  | .time => 0x700

/-- The scalar registers outside the slice blocks with their offsets. -/
def scalarRegs : List (Nat × Reg) :=
  [(0x100, .ringtabBase), (0x108, .ringtabSize), (0x110, .dbellBase), (0x118, .dbellPoll), (0x120, .ringCmd), (0x600, .stepCfg), (0x608, .stepSts), (0x610, .stepBase), (0x618, .stepMembers), (0x800, .replCfg), (0x808, .replSts), (0x900, .deadlineTab0), (0x908, .deadlineTab1), (0xB00, .sringBase), (0xB08, .sringHead)] ++
  [(0xB10, .sringTail), (0xB0000, .hbmThrCfg), (0xA00, .nearCfg), (0xA08, .nearSts), (0xA0020, .d2dPath), (0xA0100, .ucieCtl), (0xA0108, .ucieSts), (0xA0110, .ucieCap), (0x80000, .podCfg), (0x80010, .nlE2eCfg), (0x80018, .nlE2eSts), (0x80020, .hostPath), (0x80040, .nlTimeCfg), (0x80048, .nlTimeSts), (0x500, .safeCfg)] ++
  [(0x508, .faultSts), (0x520, .safeInject), (0x528, .podLost), (0x90000, .logCtl), (0x50, .reset), (0x58, .initCtl), (0x60, .initSts), (0x300, .clkCfg), (0x400, .pwrProfile), (0x408, .pwrCap), (0x410, .pwrCtl), (0x418, .pwrSlice), (0x420, .pwrSts), (0x510, .aliveCfg), (0x0, .id)] ++
  [(0x8, .cap0), (0x10, .cap1), (0x18, .cap2), (0x20, .cap3), (0x40, .ctl), (0x48, .sts), (0x700, .time)]

/-- The scalar registers of a slice block with their offsets inside it (R456). -/
def sliceScalars : List (Nat × (Nat → Reg)) :=
  [(0x500, .slcGradSpill), (0x508, .slcGradSort), (0x510, .slcGradSts), (0x618, .slcDriftCtl), (0x620, .slcDriftFirst), (0x628, .slcDriftCount), (0x630, .slcDriftSts), (0x600, .slcPark), (0x608, .slcUpdCfg), (0x610, .slcUpdSts), (0x200, .slcSketchCfg), (0x208, .slcSketchRpt)] ++
  [(0x210, .slcSketchSts), (0x218, .slcTruffleBudget), (0x220, .slcReplSts), (0x228, .slcSketchClr), (0x300, .slcStreamCfg), (0x308, .slcStreamSts), (0x310, .slcQueueSts), (0x400, .slcWdog), (0x408, .slcWdogSts), (0x100, .slcWayCfg), (0x108, .slcWaySts), (0x110, .slcCacheCnt)] ++
  [(0x0, .slcSts), (0x8, .slcCtl), (0x50, .slcSpareSts)]

/-- The registers of one slice of the event-log block with their offsets inside it (R457). -/
def logScalars : List (Nat × (Nat → Reg)) :=
  [(0x0, .logHost), (0x8, .logPiAddr), (0x10, .logCi), (0x18, .logSts), (0x20, .logPi)]

/-- The one-index arrays outside the slice blocks: base, stride, count, register. -/
def arrayRegs : List (Nat × Nat × Nat × (Nat → Reg)) :=
  [(0x2000, 0x20, 256, .optBeta),
   (0x2008, 0x20, 256, .optEps),
   (0x2010, 0x20, 256, .optDecay),
   (0x2018, 0x20, 256, .optCtl),
   (0x5000, 0x8, 16, .schedOrigin),
   (0xB0010, 0x8, 8, .hbmStackSts),
   (0xB0100, 0x10, 16, .hbmAddwinBase),
   (0xB0108, 0x10, 16, .hbmAddwinSize),
   (0xA0000, 0x8, 4, .d2dEdgeSts),
   (0x80100, 0x8, 16, .nlPortSts),
   (0x80200, 0x8, 64, .nlRoute),
   (0x80600, 0x8, 8, .partnerMap),
   (0x80800, 0x8, 256, .nlMcast),
   (0x428, 0x8, 4, .pwrTelem)]

/-- The arrays of a slice block: base, stride, count, register of an index and a slice. -/
def sliceArrays : List (Nat × Nat × Nat × (Nat → Nat → Reg)) :=
  [(0x1000, 0x20, 32, fun p n => .slcProfCtl n p),
   (0x1008, 0x20, 32, fun p n => .slcProfHome n p),
   (0x1010, 0x20, 32, fun p n => .slcProfScratch n p),
   (0x1018, 0x20, 32, fun p n => .slcProfBias n p),
   (0x1400, 0x20, 16, fun p n => .slcMoeCtl n p),
   (0x1408, 0x20, 16, fun p n => .slcMoeSlots n p),
   (0x1410, 0x20, 16, fun p n => .slcMoeCount n p),
   (0x10, 0x8, 8, fun m n => .slcCoreMap n m)]

/-- The member of an array that stands at an offset. -/
def inArray {α : Type} (off : Nat) : List (Nat × Nat × Nat × (Nat → α)) → Option α
  | [] => none
  | (base, stride, count, mk) :: rest =>
    if base ≤ off ∧ (off - base) % stride = 0 ∧ (off - base) / stride < count
    then some (mk ((off - base) / stride)) else inArray off rest

/-- The register at an 8-byte-aligned window offset; none where the offset is reserved (R447). -/
def Reg.ofOffset? (off : Nat) : Option Reg :=
  if 0x10000 ≤ off ∧ off < 0x50000 then
    let n := off / 0x10000 - 1
    let o := off % 0x10000
    match sliceScalars.lookup o with
    | some mk => some (mk n)
    | none => (inArray o sliceArrays).map (fun mk => mk n)
  else if 0x90100 ≤ off ∧ off < 0x90200 then
    (logScalars.lookup ((off - 0x90100) % 0x40)).map (fun mk => mk ((off - 0x90100) / 0x40))
  else if 0x4000 ≤ off ∧ off < 0x5000 then
    let s := (off - 0x4000) / 0x100
    let i := (off - 0x4000) % 0x100 / 0x10
    if off % 0x10 = 0 then some (.schedSeg s i)
    else if off % 0x10 = 8 then some (.schedEta s i) else none
  else if 0x81000 ≤ off ∧ off < 0x82000 then
    if off % 8 = 0 then some (.chainEnt ((off - 0x81000) / 0x40) ((off - 0x81000) % 0x40 / 8)) else none
  else
    match scalarRegs.lookup off with
    | some r => some r
    | none => inArray off arrayRegs

/-- SHD_RINGTAB_BASE.BASE (RW, R28). -/
def Fld.RINGTAB_BASE_BASE : Field := ⟨12, 52⟩
/-- SHD_RINGTAB_SIZE.ENTRIES (RW, R28). -/
def Fld.RINGTAB_SIZE_ENTRIES : Field := ⟨0, 11⟩
/-- SHD_DBELL_BASE.BASE (RW, R28). -/
def Fld.DBELL_BASE_BASE : Field := ⟨12, 52⟩
/-- SHD_DBELL_POLL.INTERVAL (RW, R28). -/
def Fld.DBELL_POLL_INTERVAL : Field := ⟨0, 16⟩
/-- SHD_RING_CMD.RING (RW, R28). -/
def Fld.RING_CMD_RING : Field := ⟨0, 10⟩
/-- SHD_RING_CMD.CMD (RW, R28). -/
def Fld.RING_CMD_CMD : Field := ⟨16, 3⟩
/-- SHD_RING_CMD.RESULT (RO, R28). -/
def Fld.RING_CMD_RESULT : Field := ⟨20, 4⟩
/-- SHD_RING_CMD.GO (RW1S, R28). -/
def Fld.RING_CMD_GO : Field := ⟨63, 1⟩
/-- SHD_SLC_PROF_CTL.SPLIT_THRESHOLD (RW, R155). -/
def Fld.SLC_PROF_CTL_SPLIT_THRESHOLD : Field := ⟨0, 16⟩
/-- SHD_SLC_PROF_CTL.SPLIT_EN (RW, R155). -/
def Fld.SLC_PROF_CTL_SPLIT_EN : Field := ⟨16, 1⟩
/-- SHD_SLC_PROF_CTL.SPLIT_TILE (RW, R155). -/
def Fld.SLC_PROF_CTL_SPLIT_TILE : Field := ⟨24, 8⟩
/-- SHD_SLC_PROF_CTL.OUT_STRIDE (RW, R155). -/
def Fld.SLC_PROF_CTL_OUT_STRIDE : Field := ⟨32, 10⟩
/-- SHD_SLC_PROF_HOME.HOME_TILE (RW, R155). -/
def Fld.SLC_PROF_HOME_HOME_TILE : Field := ⟨0, 8⟩
/-- SHD_SLC_PROF_HOME.HOME_POS (RW, R155). -/
def Fld.SLC_PROF_HOME_HOME_POS : Field := ⟨8, 6⟩
/-- SHD_SLC_PROF_HOME.HOME_POS_COUNT (RW, R155). -/
def Fld.SLC_PROF_HOME_HOME_POS_COUNT : Field := ⟨16, 7⟩
/-- SHD_SLC_PROF_SCRATCH.SCRATCH (RW, R155). -/
def Fld.SLC_PROF_SCRATCH_SCRATCH : Field := ⟨9, 18⟩
/-- SHD_SLC_PROF_BIAS.BIAS_ADDR (RW, R155). -/
def Fld.SLC_PROF_BIAS_BIAS_ADDR : Field := ⟨6, 58⟩
/-- SHD_SLC_MOE_CTL.EXPERTS_M1 (RW, R166). -/
def Fld.SLC_MOE_CTL_EXPERTS_M1 : Field := ⟨0, 12⟩
/-- SHD_SLC_MOE_CTL.CAPACITY (RW, R166). -/
def Fld.SLC_MOE_CTL_CAPACITY : Field := ⟨16, 16⟩
/-- SHD_SLC_MOE_CTL.BUF_FMT (RW, R166). -/
def Fld.SLC_MOE_CTL_BUF_FMT : Field := ⟨32, 8⟩
/-- SHD_SLC_MOE_SLOTS.SLOT_FIRST (RW, R166). -/
def Fld.SLC_MOE_SLOTS_SLOT_FIRST : Field := ⟨0, 16⟩
/-- SHD_SLC_MOE_SLOTS.SLOT_COUNT (RW, R166). -/
def Fld.SLC_MOE_SLOTS_SLOT_COUNT : Field := ⟨16, 16⟩
/-- SHD_SLC_MOE_COUNT.COUNT_ADDR (RW, R166). -/
def Fld.SLC_MOE_COUNT_COUNT_ADDR : Field := ⟨3, 61⟩
/-- SHD_SLC_GRAD_SPILL.BASE (RW, R198). -/
def Fld.SLC_GRAD_SPILL_BASE : Field := ⟨12, 15⟩
/-- SHD_SLC_GRAD_SPILL.SIZE (RW, R198). -/
def Fld.SLC_GRAD_SPILL_SIZE : Field := ⟨32, 16⟩
/-- SHD_SLC_GRAD_SORT.BASE (RW, R198). -/
def Fld.SLC_GRAD_SORT_BASE : Field := ⟨12, 15⟩
/-- SHD_SLC_GRAD_SORT.SIZE (RW, R198). -/
def Fld.SLC_GRAD_SORT_SIZE : Field := ⟨32, 16⟩
/-- SHD_SLC_GRAD_STS.HELD (RO, R198). -/
def Fld.SLC_GRAD_STS_HELD : Field := ⟨0, 32⟩
/-- SHD_SLC_GRAD_STS.SPILLED (RO, R198). -/
def Fld.SLC_GRAD_STS_SPILLED : Field := ⟨32, 32⟩
/-- SHD_STEP_CFG.GATE_ROOT (RW, R208). -/
def Fld.STEP_CFG_GATE_ROOT : Field := ⟨0, 6⟩
/-- SHD_STEP_CFG.GATE_MEMBER (RW, R208). -/
def Fld.STEP_CFG_GATE_MEMBER : Field := ⟨6, 1⟩
/-- SHD_STEP_CFG.GATE_TIMEOUT (RW, R208). -/
def Fld.STEP_CFG_GATE_TIMEOUT : Field := ⟨16, 16⟩
/-- SHD_STEP_CFG.CHAIN_TIMEOUT (RW, R208). -/
def Fld.STEP_CFG_CHAIN_TIMEOUT : Field := ⟨32, 16⟩
/-- SHD_STEP_STS.OPEN_STEP (RO, R208). -/
def Fld.STEP_STS_OPEN_STEP : Field := ⟨0, 32⟩
/-- SHD_STEP_STS.CLOSING (RO, R208). -/
def Fld.STEP_STS_CLOSING : Field := ⟨32, 1⟩
/-- SHD_STEP_STS.LAST_SKIPPED (RO, R208). -/
def Fld.STEP_STS_LAST_SKIPPED : Field := ⟨33, 1⟩
/-- SHD_STEP_STS.LAST_FLAGS (RO, R208). -/
def Fld.STEP_STS_LAST_FLAGS : Field := ⟨40, 7⟩
/-- SHD_STEP_BASE.FIRST_STEP (RW, R208). -/
def Fld.STEP_BASE_FIRST_STEP : Field := ⟨0, 32⟩
/-- SHD_STEP_MEMBERS.MASK (RW, R208). -/
def Fld.STEP_MEMBERS_MASK : Field := ⟨0, 64⟩
/-- SHD_OPT_BETA.BETA1 (RW, R228). -/
def Fld.OPT_BETA_BETA1 : Field := ⟨0, 32⟩
/-- SHD_OPT_BETA.BETA2 (RW, R228). -/
def Fld.OPT_BETA_BETA2 : Field := ⟨32, 32⟩
/-- SHD_OPT_EPS.EPS (RW, R228). -/
def Fld.OPT_EPS_EPS : Field := ⟨0, 32⟩
/-- SHD_OPT_EPS.MU (RW, R228). -/
def Fld.OPT_EPS_MU : Field := ⟨32, 32⟩
/-- SHD_OPT_DECAY.LAMBDA (RW, R228). -/
def Fld.OPT_DECAY_LAMBDA : Field := ⟨0, 32⟩
/-- SHD_OPT_DECAY.CLIP (RW, R228). -/
def Fld.OPT_DECAY_CLIP : Field := ⟨32, 32⟩
/-- SHD_OPT_CTL.SCHED (RW, R228). -/
def Fld.OPT_CTL_SCHED : Field := ⟨0, 4⟩
/-- SHD_OPT_CTL.DECAY_MODE (RW, R228). -/
def Fld.OPT_CTL_DECAY_MODE : Field := ⟨4, 1⟩
/-- SHD_OPT_CTL.BIAS_CORR (RW, R228). -/
def Fld.OPT_CTL_BIAS_CORR : Field := ⟨5, 1⟩
/-- SHD_OPT_CTL.INIT_ACC (RW, R228). -/
def Fld.OPT_CTL_INIT_ACC : Field := ⟨32, 32⟩
/-- SHD_SCHED_SEG.START (RW, R230). -/
def Fld.SCHED_SEG_START : Field := ⟨0, 32⟩
/-- SHD_SCHED_SEG.KIND (RW, R230). -/
def Fld.SCHED_SEG_KIND : Field := ⟨32, 2⟩
/-- SHD_SCHED_SEG.VALID (RW, R230). -/
def Fld.SCHED_SEG_VALID : Field := ⟨34, 1⟩
/-- SHD_SCHED_ETA.ETA0 (RW, R230). -/
def Fld.SCHED_ETA_ETA0 : Field := ⟨0, 32⟩
/-- SHD_SCHED_ETA.ETA1 (RW, R230). -/
def Fld.SCHED_ETA_ETA1 : Field := ⟨32, 32⟩
/-- SHD_SCHED_ORIGIN.ORIGIN (RW, R230). -/
def Fld.SCHED_ORIGIN_ORIGIN : Field := ⟨0, 32⟩
/-- SHD_SLC_DRIFT_CTL.TABLE_ID (RW, R237). -/
def Fld.SLC_DRIFT_CTL_TABLE_ID : Field := ⟨0, 12⟩
/-- SHD_SLC_DRIFT_CTL.GO (RW1S, R237). -/
def Fld.SLC_DRIFT_CTL_GO : Field := ⟨63, 1⟩
/-- SHD_SLC_DRIFT_FIRST.FIRST (RW, R237). -/
def Fld.SLC_DRIFT_FIRST_FIRST : Field := ⟨0, 40⟩
/-- SHD_SLC_DRIFT_COUNT.COUNT (RW, R237). -/
def Fld.SLC_DRIFT_COUNT_COUNT : Field := ⟨0, 40⟩
/-- SHD_SLC_DRIFT_STS.MISMATCHES (RO, R237). -/
def Fld.SLC_DRIFT_STS_MISMATCHES : Field := ⟨0, 32⟩
/-- SHD_SLC_DRIFT_STS.RESULT (RO, R237). -/
def Fld.SLC_DRIFT_STS_RESULT : Field := ⟨32, 3⟩
/-- SHD_SLC_PARK.BASE (RW, R245). -/
def Fld.SLC_PARK_BASE : Field := ⟨12, 15⟩
/-- SHD_SLC_PARK.SIZE (RW, R245). -/
def Fld.SLC_PARK_SIZE : Field := ⟨32, 16⟩
/-- SHD_SLC_UPD_CFG.PEND_MAX (RW, R245). -/
def Fld.SLC_UPD_CFG_PEND_MAX : Field := ⟨0, 13⟩
/-- SHD_SLC_UPD_CFG.STATE_TIMEOUT (RW, R245). -/
def Fld.SLC_UPD_CFG_STATE_TIMEOUT : Field := ⟨16, 16⟩
/-- SHD_SLC_UPD_STS.PARKED_NOW (RO, R245). -/
def Fld.SLC_UPD_STS_PARKED_NOW : Field := ⟨0, 13⟩
/-- SHD_SLC_UPD_STS.PARKED_PEAK (RO, R245). -/
def Fld.SLC_UPD_STS_PARKED_PEAK : Field := ⟨16, 13⟩
/-- SHD_SLC_SKETCH_CFG.ENABLE (RW, R271). -/
def Fld.SLC_SKETCH_CFG_ENABLE : Field := ⟨0, 1⟩
/-- SHD_SLC_SKETCH_CFG.AUTO (RW, R271). -/
def Fld.SLC_SKETCH_CFG_AUTO : Field := ⟨1, 1⟩
/-- SHD_SLC_SKETCH_CFG.THRESHOLD (RW, R271). -/
def Fld.SLC_SKETCH_CFG_THRESHOLD : Field := ⟨16, 16⟩
/-- SHD_SLC_SKETCH_RPT.LOG2_SIZE (RW, R271). -/
def Fld.SLC_SKETCH_RPT_LOG2_SIZE : Field := ⟨0, 5⟩
/-- SHD_SLC_SKETCH_RPT.BASE (RW, R271). -/
def Fld.SLC_SKETCH_RPT_BASE : Field := ⟨12, 52⟩
/-- SHD_SLC_SKETCH_STS.REPORTS (RO, R271). -/
def Fld.SLC_SKETCH_STS_REPORTS : Field := ⟨0, 32⟩
/-- SHD_SLC_SKETCH_STS.LOOKUPS (RO, R271). -/
def Fld.SLC_SKETCH_STS_LOOKUPS : Field := ⟨32, 25⟩
/-- SHD_SLC_TRUFFLE_BUDGET.AUTO_LINES (RW, R271). -/
def Fld.SLC_TRUFFLE_BUDGET_AUTO_LINES : Field := ⟨0, 16⟩
/-- SHD_SLC_REPL_STS.LINES_EXPLICIT (RO, R271). -/
def Fld.SLC_REPL_STS_LINES_EXPLICIT : Field := ⟨0, 16⟩
/-- SHD_SLC_REPL_STS.LINES_AUTO (RO, R271). -/
def Fld.SLC_REPL_STS_LINES_AUTO : Field := ⟨16, 16⟩
/-- SHD_SLC_REPL_STS.DECLINED (RO, R271). -/
def Fld.SLC_REPL_STS_DECLINED : Field := ⟨32, 16⟩
/-- SHD_SLC_SKETCH_CLR.CLEAR (RW1S, R271). -/
def Fld.SLC_SKETCH_CLR_CLEAR : Field := ⟨0, 1⟩
/-- SHD_REPL_CFG.MCAST_WINDOW (RW, R271). -/
def Fld.REPL_CFG_MCAST_WINDOW : Field := ⟨0, 16⟩
/-- SHD_REPL_CFG.FWD_WINDOW (RW, R271). -/
def Fld.REPL_CFG_FWD_WINDOW : Field := ⟨16, 16⟩
/-- SHD_REPL_STS.DROPS (RO, R271). -/
def Fld.REPL_STS_DROPS : Field := ⟨0, 16⟩
/-- SHD_REPL_STS.REJOINS (RO, R271). -/
def Fld.REPL_STS_REJOINS : Field := ⟨16, 16⟩
/-- SHD_REPL_STS.DISAGREE (RO, R271). -/
def Fld.REPL_STS_DISAGREE : Field := ⟨32, 16⟩
/-- SHD_SLC_STREAM_CFG.DEPTH_q, entry `k` of the register (RW, R311). -/
def Fld.SLC_STREAM_CFG_DEPTH (k : Nat) : Field := ⟨8 * k, 7⟩
/-- SHD_SLC_STREAM_STS.SLOT_BUSY (RO, R311). -/
def Fld.SLC_STREAM_STS_SLOT_BUSY : Field := ⟨0, 16⟩
/-- SHD_SLC_STREAM_STS.SLOT_DEP (RO, R311). -/
def Fld.SLC_STREAM_STS_SLOT_DEP : Field := ⟨16, 16⟩
/-- SHD_SLC_STREAM_STS.SLOT_PERSIST (RO, R311). -/
def Fld.SLC_STREAM_STS_SLOT_PERSIST : Field := ⟨32, 16⟩
/-- SHD_SLC_QUEUE_STS.FREE_q, entry `k` of the register (RO, R311). -/
def Fld.SLC_QUEUE_STS_FREE (k : Nat) : Field := ⟨8 * k, 7⟩
/-- SHD_SLC_WDOG.LIMIT (RW, R311). -/
def Fld.SLC_WDOG_LIMIT : Field := ⟨0, 16⟩
/-- SHD_SLC_WDOG.DEP_LIMIT (RW, R311). -/
def Fld.SLC_WDOG_DEP_LIMIT : Field := ⟨16, 16⟩
/-- SHD_SLC_WDOG.DEP_POLL (RW, R311). -/
def Fld.SLC_WDOG_DEP_POLL : Field := ⟨32, 8⟩
/-- SHD_SLC_WDOG_STS.EXPIRED (RO, R311). -/
def Fld.SLC_WDOG_STS_EXPIRED : Field := ⟨0, 32⟩
/-- SHD_SLC_WDOG_STS.LAST_SLOT (RO, R311). -/
def Fld.SLC_WDOG_STS_LAST_SLOT : Field := ⟨32, 4⟩
/-- SHD_DEADLINE_TAB0.D_c, entry `k` of the register (RW, R311). -/
def Fld.DEADLINE_TAB0_D (k : Nat) : Field := ⟨8 * k, 8⟩
/-- SHD_DEADLINE_TAB1.D_c, entry `k` of the register (RW, R311). -/
def Fld.DEADLINE_TAB1_D (k : Nat) : Field := ⟨8 * k, 8⟩
/-- SHD_SRING_BASE.SLOTS (RW, R311). -/
def Fld.SRING_BASE_SLOTS : Field := ⟨0, 8⟩
/-- SHD_SRING_BASE.BASE (RW, R311). -/
def Fld.SRING_BASE_BASE : Field := ⟨12, 52⟩
/-- SHD_SRING_HEAD.HEAD (RO, R311). -/
def Fld.SRING_HEAD_HEAD : Field := ⟨0, 8⟩
/-- SHD_SRING_HEAD.BUSY (RO, R311). -/
def Fld.SRING_HEAD_BUSY : Field := ⟨8, 1⟩
/-- SHD_SRING_HEAD.LAST_STATUS (RO, R311). -/
def Fld.SRING_HEAD_LAST_STATUS : Field := ⟨16, 8⟩
/-- SHD_SRING_TAIL.TAIL (RW, R311). -/
def Fld.SRING_TAIL_TAIL : Field := ⟨0, 8⟩
/-- SHD_SLC_WAY_CFG.KIND_w, entry `k` of the register (RW, R330). -/
def Fld.SLC_WAY_CFG_KIND (k : Nat) : Field := ⟨2 * k, 2⟩
/-- SHD_SLC_WAY_STS.DISABLED (RO, R330). -/
def Fld.SLC_WAY_STS_DISABLED : Field := ⟨0, 24⟩
/-- SHD_SLC_WAY_STS.RECONF_BUSY (RO, R330). -/
def Fld.SLC_WAY_STS_RECONF_BUSY : Field := ⟨24, 1⟩
/-- SHD_SLC_WAY_STS.CRUMB_USED (RO, R330). -/
def Fld.SLC_WAY_STS_CRUMB_USED : Field := ⟨32, 9⟩
/-- SHD_SLC_CACHE_CNT.DETECTIONS (RO, R330). -/
def Fld.SLC_CACHE_CNT_DETECTIONS : Field := ⟨0, 32⟩
/-- SHD_SLC_CACHE_CNT.NO_ALLOC (RO, R330). -/
def Fld.SLC_CACHE_CNT_NO_ALLOC : Field := ⟨32, 32⟩
/-- SHD_HBM_THR_CFG.STEP (RW, R342). -/
def Fld.HBM_THR_CFG_STEP : Field := ⟨0, 3⟩
/-- SHD_HBM_THR_CFG.MAX_LEVEL (RW, R342). -/
def Fld.HBM_THR_CFG_MAX_LEVEL : Field := ⟨3, 3⟩
/-- SHD_HBM_THR_CFG.HYST (RW, R342). -/
def Fld.HBM_THR_CFG_HYST : Field := ⟨8, 8⟩
/-- SHD_HBM_THR_CFG.UP_MS (RW, R342). -/
def Fld.HBM_THR_CFG_UP_MS : Field := ⟨16, 8⟩
/-- SHD_HBM_THR_CFG.DOWN_MS (RW, R342). -/
def Fld.HBM_THR_CFG_DOWN_MS : Field := ⟨24, 8⟩
/-- SHD_HBM_STACK_STS.TEMP (RO, R342). -/
def Fld.HBM_STACK_STS_TEMP : Field := ⟨0, 8⟩
/-- SHD_HBM_STACK_STS.THRESH (RO, R342). -/
def Fld.HBM_STACK_STS_THRESH : Field := ⟨8, 8⟩
/-- SHD_HBM_STACK_STS.LEVEL (RO, R342). -/
def Fld.HBM_STACK_STS_LEVEL : Field := ⟨16, 3⟩
/-- SHD_HBM_STACK_STS.STALE (RO, R342). -/
def Fld.HBM_STACK_STS_STALE : Field := ⟨19, 1⟩
/-- SHD_HBM_STACK_STS.SPARES_USED (RO, R342). -/
def Fld.HBM_STACK_STS_SPARES_USED : Field := ⟨24, 8⟩
/-- SHD_HBM_STACK_STS.TRAINED (RO, R342). -/
def Fld.HBM_STACK_STS_TRAINED : Field := ⟨32, 1⟩
/-- SHD_HBM_STACK_STS.UNREPAIRED (RO, R342). -/
def Fld.HBM_STACK_STS_UNREPAIRED : Field := ⟨33, 1⟩
/-- SHD_HBM_ADDWIN_BASE.BASE (RW, R342). -/
def Fld.HBM_ADDWIN_BASE_BASE : Field := ⟨12, 27⟩
/-- SHD_HBM_ADDWIN_BASE.DOMAIN (RW, R342). -/
def Fld.HBM_ADDWIN_BASE_DOMAIN : Field := ⟨48, 8⟩
/-- SHD_HBM_ADDWIN_BASE.VALID (RW, R342). -/
def Fld.HBM_ADDWIN_BASE_VALID : Field := ⟨63, 1⟩
/-- SHD_HBM_ADDWIN_SIZE.SIZE (RW, R342). -/
def Fld.HBM_ADDWIN_SIZE_SIZE : Field := ⟨12, 28⟩
/-- SHD_NEAR_CFG.STOP_WINDOW (RW, R359). -/
def Fld.NEAR_CFG_STOP_WINDOW : Field := ⟨0, 8⟩
/-- SHD_NEAR_STS.EPOCH (RO, R359). -/
def Fld.NEAR_STS_EPOCH : Field := ⟨0, 16⟩
/-- SHD_NEAR_STS.REFUSED (RO, R359). -/
def Fld.NEAR_STS_REFUSED : Field := ⟨16, 16⟩
/-- SHD_NEAR_STS.RESUMES (RO, R359). -/
def Fld.NEAR_STS_RESUMES : Field := ⟨32, 32⟩
/-- SHD_D2D_EDGE_STS.BUNDLES_UP (RO, R368). -/
def Fld.D2D_EDGE_STS_BUNDLES_UP : Field := ⟨0, 5⟩
/-- SHD_D2D_EDGE_STS.SPARES_USED (RO, R368). -/
def Fld.D2D_EDGE_STS_SPARES_USED : Field := ⟨8, 8⟩
/-- SHD_D2D_EDGE_STS.FUSE_DIFF (RO, R368). -/
def Fld.D2D_EDGE_STS_FUSE_DIFF : Field := ⟨16, 8⟩
/-- SHD_D2D_EDGE_STS.UNREPAIRED (RO, R368). -/
def Fld.D2D_EDGE_STS_UNREPAIRED : Field := ⟨24, 5⟩
/-- SHD_D2D_EDGE_STS.LINK_RETRIES (RO, R368). -/
def Fld.D2D_EDGE_STS_LINK_RETRIES : Field := ⟨32, 16⟩
/-- SHD_D2D_PATH.EDGE_DOWN (RO, R368). -/
def Fld.D2D_PATH_EDGE_DOWN : Field := ⟨0, 4⟩
/-- SHD_UCIE_CTL.ENABLE (RW, R373). -/
def Fld.UCIE_CTL_ENABLE : Field := ⟨0, 1⟩
/-- SHD_UCIE_CTL.ADMIT (RW1S, R373). -/
def Fld.UCIE_CTL_ADMIT : Field := ⟨1, 1⟩
/-- SHD_UCIE_CTL.EJECT (RW1S, R373). -/
def Fld.UCIE_CTL_EJECT : Field := ⟨2, 1⟩
/-- SHD_UCIE_STS.LINK_UP (RO, R373). -/
def Fld.UCIE_STS_LINK_UP : Field := ⟨0, 1⟩
/-- SHD_UCIE_STS.RATE (RO, R373). -/
def Fld.UCIE_STS_RATE : Field := ⟨1, 2⟩
/-- SHD_UCIE_STS.LANES_REPAIRED (RO, R373). -/
def Fld.UCIE_STS_LANES_REPAIRED : Field := ⟨4, 8⟩
/-- SHD_UCIE_STS.ADMITTED (RO, R373). -/
def Fld.UCIE_STS_ADMITTED : Field := ⟨12, 1⟩
/-- SHD_UCIE_STS.REFUSE (RO, R373). -/
def Fld.UCIE_STS_REFUSE : Field := ⟨13, 3⟩
/-- SHD_UCIE_CAP.CAPACITY (RO, R373). -/
def Fld.UCIE_CAP_CAPACITY : Field := ⟨0, 32⟩
/-- SHD_UCIE_CAP.MAX_OUTSTANDING (RO, R373). -/
def Fld.UCIE_CAP_MAX_OUTSTANDING : Field := ⟨32, 16⟩
/-- SHD_POD_CFG.DEVICE (RW, R381). -/
def Fld.POD_CFG_DEVICE : Field := ⟨0, 6⟩
/-- SHD_POD_CFG.POD_SIZE (RW, R381). -/
def Fld.POD_CFG_POD_SIZE : Field := ⟨8, 2⟩
/-- SHD_NL_E2E_CFG.E2E_TIMEOUT (RW, R381). -/
def Fld.NL_E2E_CFG_E2E_TIMEOUT : Field := ⟨0, 16⟩
/-- SHD_NL_E2E_CFG.LINK_DOWN (RW, R381). -/
def Fld.NL_E2E_CFG_LINK_DOWN : Field := ⟨16, 16⟩
/-- SHD_NL_E2E_CFG.CTRL_REPEAT (RW, R381). -/
def Fld.NL_E2E_CFG_CTRL_REPEAT : Field := ⟨32, 8⟩
/-- SHD_NL_E2E_STS.RESENDS (RO, R381). -/
def Fld.NL_E2E_STS_RESENDS : Field := ⟨0, 16⟩
/-- SHD_NL_E2E_STS.UNDELIVERED (RO, R381). -/
def Fld.NL_E2E_STS_UNDELIVERED : Field := ⟨16, 16⟩
/-- SHD_NL_E2E_STS.LOOP_DROPS (RO, R381). -/
def Fld.NL_E2E_STS_LOOP_DROPS : Field := ⟨32, 16⟩
/-- SHD_NL_E2E_STS.BAD_MESSAGE (RO, R381). -/
def Fld.NL_E2E_STS_BAD_MESSAGE : Field := ⟨48, 16⟩
/-- SHD_HOST_PATH.HOPS (RW, R381). -/
def Fld.HOST_PATH_HOPS : Field := ⟨0, 3⟩
/-- SHD_HOST_PATH.PORT_k, entry `k` of the register (RW, R381). -/
def Fld.HOST_PATH_PORT (k : Nat) : Field := ⟨8 + 4 * k, 4⟩
/-- SHD_NL_TIME_CFG.MASTER (RW, R381). -/
def Fld.NL_TIME_CFG_MASTER : Field := ⟨0, 1⟩
/-- SHD_NL_TIME_CFG.PARENT_PORT (RW, R381). -/
def Fld.NL_TIME_CFG_PARENT_PORT : Field := ⟨2, 4⟩
/-- SHD_NL_TIME_CFG.INTERVAL (RW, R381). -/
def Fld.NL_TIME_CFG_INTERVAL : Field := ⟨8, 8⟩
/-- SHD_NL_TIME_STS.SYNCED (RO, R381). -/
def Fld.NL_TIME_STS_SYNCED : Field := ⟨0, 1⟩
/-- SHD_NL_TIME_STS.OFFSET (RO, R381). -/
def Fld.NL_TIME_STS_OFFSET : Field := ⟨16, 16⟩
/-- SHD_NL_TIME_STS.RESYNCS (RO, R381). -/
def Fld.NL_TIME_STS_RESYNCS : Field := ⟨32, 16⟩
/-- SHD_NL_TIME_STS.ERR (RO, R381). -/
def Fld.NL_TIME_STS_ERR : Field := ⟨48, 8⟩
/-- SHD_NL_PORT_STS.UP (RO, R381). -/
def Fld.NL_PORT_STS_UP : Field := ⟨0, 1⟩
/-- SHD_NL_PORT_STS.LANES_UP (RO, R381). -/
def Fld.NL_PORT_STS_LANES_UP : Field := ⟨1, 6⟩
/-- SHD_NL_PORT_STS.PEER_DEV (RO, R381). -/
def Fld.NL_PORT_STS_PEER_DEV : Field := ⟨8, 6⟩
/-- SHD_NL_PORT_STS.LINK_RETRIES (RO, R381). -/
def Fld.NL_PORT_STS_LINK_RETRIES : Field := ⟨16, 16⟩
/-- SHD_NL_PORT_STS.CRC_ERRORS (RO, R381). -/
def Fld.NL_PORT_STS_CRC_ERRORS : Field := ⟨32, 16⟩
/-- SHD_NL_ROUTE.PORT (RW, R381). -/
def Fld.NL_ROUTE_PORT : Field := ⟨0, 4⟩
/-- SHD_NL_ROUTE.ALT_PORT (RW, R381). -/
def Fld.NL_ROUTE_ALT_PORT : Field := ⟨4, 4⟩
/-- SHD_NL_ROUTE.ALT_EN (RW, R381). -/
def Fld.NL_ROUTE_ALT_EN : Field := ⟨8, 1⟩
/-- SHD_NL_ROUTE.VALID (RW, R381). -/
def Fld.NL_ROUTE_VALID : Field := ⟨9, 1⟩
/-- SHD_PARTNER_MAP.PARTNER, entry `k` of the register (RW, R381). -/
def Fld.PARTNER_MAP_PARTNER (k : Nat) : Field := ⟨8 * k, 6⟩
/-- SHD_PARTNER_MAP.VALID, entry `k` of the register (RW, R381). -/
def Fld.PARTNER_MAP_VALID (k : Nat) : Field := ⟨7 + 8 * k, 1⟩
/-- SHD_NL_MCAST.MASK (RW, R381). -/
def Fld.NL_MCAST_MASK : Field := ⟨0, 64⟩
/-- SHD_CHAIN_ENT.DEVICE, entry `k` of the register (RW, R381). -/
def Fld.CHAIN_ENT_DEVICE (k : Nat) : Field := ⟨8 * k, 6⟩
/-- SHD_CHAIN_ENT.LAST, entry `k` of the register (RW, R381). -/
def Fld.CHAIN_ENT_LAST (k : Nat) : Field := ⟨6 + 8 * k, 1⟩
/-- SHD_CHAIN_ENT.VALID, entry `k` of the register (RW, R381). -/
def Fld.CHAIN_ENT_VALID (k : Nat) : Field := ⟨7 + 8 * k, 1⟩
/-- SHD_SAFE_CFG.LATENT_MS (RW, R413). -/
def Fld.SAFE_CFG_LATENT_MS : Field := ⟨0, 8⟩
/-- SHD_SAFE_CFG.ROTATE_MS (RW, R413). -/
def Fld.SAFE_CFG_ROTATE_MS : Field := ⟨8, 8⟩
/-- SHD_SAFE_CFG.ROTATE_EN (RW, R413). -/
def Fld.SAFE_CFG_ROTATE_EN : Field := ⟨16, 1⟩
/-- SHD_SAFE_CFG.FAULT_INT_EN (RW, R413). -/
def Fld.SAFE_CFG_FAULT_INT_EN : Field := ⟨17, 1⟩
/-- SHD_SAFE_CFG.ALERT_EN (RW, R413). -/
def Fld.SAFE_CFG_ALERT_EN : Field := ⟨24, 8⟩
/-- SHD_SAFE_CFG.FAULT_VECTOR (RW, R413). -/
def Fld.SAFE_CFG_FAULT_VECTOR : Field := ⟨32, 11⟩
/-- SHD_FAULT_STS.FAULT (RO, R413). -/
def Fld.FAULT_STS_FAULT : Field := ⟨0, 1⟩
/-- SHD_FAULT_STS.CAUSE (RO, R413). -/
def Fld.FAULT_STS_CAUSE : Field := ⟨8, 8⟩
/-- SHD_FAULT_STS.LATENT (RO, R413). -/
def Fld.FAULT_STS_LATENT : Field := ⟨16, 1⟩
/-- SHD_FAULT_STS.CAUSE_SLICE (RO, R413). -/
def Fld.FAULT_STS_CAUSE_SLICE : Field := ⟨17, 2⟩
/-- SHD_FAULT_STS.SPARE_USED (W1C, R413). -/
def Fld.FAULT_STS_SPARE_USED : Field := ⟨24, 1⟩
/-- SHD_FAULT_STS.WAY_DISABLED (W1C, R413). -/
def Fld.FAULT_STS_WAY_DISABLED : Field := ⟨25, 1⟩
/-- SHD_FAULT_STS.SLICE_OFFLINE (W1C, R413). -/
def Fld.FAULT_STS_SLICE_OFFLINE : Field := ⟨26, 1⟩
/-- SHD_FAULT_STS.CFG_LOST (W1C, R413). -/
def Fld.FAULT_STS_CFG_LOST : Field := ⟨27, 1⟩
/-- SHD_FAULT_STS.TIME_UNSYNCED (W1C, R413). -/
def Fld.FAULT_STS_TIME_UNSYNCED : Field := ⟨28, 1⟩
/-- SHD_FAULT_STS.LINK_DEGRADED (W1C, R413). -/
def Fld.FAULT_STS_LINK_DEGRADED : Field := ⟨29, 1⟩
/-- SHD_FAULT_STS.MEMBER_LOST (W1C, R413). -/
def Fld.FAULT_STS_MEMBER_LOST : Field := ⟨30, 1⟩
/-- SHD_FAULT_STS.LOG_LOST (W1C, R413). -/
def Fld.FAULT_STS_LOG_LOST : Field := ⟨31, 1⟩
/-- SHD_SAFE_INJECT.TARGET (RW, R413). -/
def Fld.SAFE_INJECT_TARGET : Field := ⟨0, 8⟩
/-- SHD_SAFE_INJECT.SLICE (RW, R413). -/
def Fld.SAFE_INJECT_SLICE : Field := ⟨8, 2⟩
/-- SHD_SAFE_INJECT.ARM (RW1S, R413). -/
def Fld.SAFE_INJECT_ARM : Field := ⟨63, 1⟩
/-- SHD_POD_LOST.LOST (W1C, R413). -/
def Fld.POD_LOST_LOST : Field := ⟨0, 64⟩
/-- SHD_SLC_STS.STATE (RO, R413). -/
def Fld.SLC_STS_STATE : Field := ⟨0, 2⟩
/-- SHD_SLC_STS.AUTO (RO, R413). -/
def Fld.SLC_STS_AUTO : Field := ⟨2, 1⟩
/-- SHD_SLC_STS.STAND_IN (RO, R413). -/
def Fld.SLC_STS_STAND_IN : Field := ⟨8, 2⟩
/-- SHD_SLC_STS.POSITIONS (RO, R413). -/
def Fld.SLC_STS_POSITIONS : Field := ⟨16, 7⟩
/-- SHD_SLC_CTL.OFFLINE (RW, R413). -/
def Fld.SLC_CTL_OFFLINE : Field := ⟨0, 1⟩
/-- SHD_SLC_CORE_MAP.CORE, entry `k` of the register (RO, R413). -/
def Fld.SLC_CORE_MAP_CORE (k : Nat) : Field := ⟨8 * k, 7⟩
/-- SHD_SLC_CORE_MAP.FILLED, entry `k` of the register (RO, R413). -/
def Fld.SLC_CORE_MAP_FILLED (k : Nat) : Field := ⟨7 + 8 * k, 1⟩
/-- SHD_SLC_SPARE_STS.STANDBY (RO, R413). -/
def Fld.SLC_SPARE_STS_STANDBY : Field := ⟨0, 7⟩
/-- SHD_SLC_SPARE_STS.STANDBY_VALID (RO, R413). -/
def Fld.SLC_SPARE_STS_STANDBY_VALID : Field := ⟨7, 1⟩
/-- SHD_SLC_SPARE_STS.TEST (RO, R413). -/
def Fld.SLC_SPARE_STS_TEST : Field := ⟨8, 7⟩
/-- SHD_SLC_SPARE_STS.TEST_VALID (RO, R413). -/
def Fld.SLC_SPARE_STS_TEST_VALID : Field := ⟨15, 1⟩
/-- SHD_SLC_SPARE_STS.FAILED (RO, R413). -/
def Fld.SLC_SPARE_STS_FAILED : Field := ⟨16, 2⟩
/-- SHD_SLC_SPARE_STS.LAST_FAILED (RO, R413). -/
def Fld.SLC_SPARE_STS_LAST_FAILED : Field := ⟨18, 7⟩
/-- SHD_SLC_SPARE_STS.ROTATIONS (RO, R413). -/
def Fld.SLC_SPARE_STS_ROTATIONS : Field := ⟨32, 32⟩
/-- SHD_LOG_CTL.ENABLE (RW, R421). -/
def Fld.LOG_CTL_ENABLE : Field := ⟨0, 1⟩
/-- SHD_LOG_CTL.FLUSH (RW1S, R421). -/
def Fld.LOG_CTL_FLUSH : Field := ⟨1, 1⟩
/-- SHD_LOG_CTL.CLUSTER_EN (RW, R421). -/
def Fld.LOG_CTL_CLUSTER_EN : Field := ⟨8, 8⟩
/-- SHD_LOG_HOST.LOG2_SIZE (RW, R421). -/
def Fld.LOG_HOST_LOG2_SIZE : Field := ⟨0, 5⟩
/-- SHD_LOG_HOST.BASE (RW, R421). -/
def Fld.LOG_HOST_BASE : Field := ⟨12, 52⟩
/-- SHD_LOG_PI_ADDR.PI_ADDR (RW, R421). -/
def Fld.LOG_PI_ADDR_PI_ADDR : Field := ⟨3, 61⟩
/-- SHD_LOG_CI.CI (RW, R421). -/
def Fld.LOG_CI_CI : Field := ⟨0, 32⟩
/-- SHD_LOG_STS.RING_WORDS (RO, R421). -/
def Fld.LOG_STS_RING_WORDS : Field := ⟨0, 13⟩
/-- SHD_LOG_STS.FIFO_DROPS (RO, R421). -/
def Fld.LOG_STS_FIFO_DROPS : Field := ⟨16, 16⟩
/-- SHD_LOG_STS.LOST_COUNT (RO, R421). -/
def Fld.LOG_STS_LOST_COUNT : Field := ⟨32, 32⟩
/-- SHD_LOG_PI.PI (RO, R421). -/
def Fld.LOG_PI_PI : Field := ⟨0, 32⟩
/-- SHD_RESET.ENGINE (WO, R446). -/
def Fld.RESET_ENGINE : Field := ⟨0, 1⟩
/-- SHD_RESET.FULL (WO, R446). -/
def Fld.RESET_FULL : Field := ⟨1, 1⟩
/-- SHD_INIT_CTL.TRAIN (RW1S, R446). -/
def Fld.INIT_CTL_TRAIN : Field := ⟨0, 1⟩
/-- SHD_INIT_CTL.CONTINUE (RW1S, R446). -/
def Fld.INIT_CTL_CONTINUE : Field := ⟨1, 1⟩
/-- SHD_INIT_STS.STATE (RO, R446). -/
def Fld.INIT_STS_STATE : Field := ⟨0, 4⟩
/-- SHD_INIT_STS.FAIL_SLICES (RO, R446). -/
def Fld.INIT_STS_FAIL_SLICES : Field := ⟨8, 4⟩
/-- SHD_INIT_STS.FAIL_CAUSE (RO, R446). -/
def Fld.INIT_STS_FAIL_CAUSE : Field := ⟨16, 4⟩
/-- SHD_INIT_STS.ELAPSED (RO, R446). -/
def Fld.INIT_STS_ELAPSED : Field := ⟨32, 32⟩
/-- SHD_CLK_CFG.LOCKED (RO, R446). -/
def Fld.CLK_CFG_LOCKED : Field := ⟨0, 4⟩
/-- SHD_CLK_CFG.CLK_FAULT (RO, R446). -/
def Fld.CLK_CFG_CLK_FAULT : Field := ⟨8, 4⟩
/-- SHD_CLK_CFG.GATE_EN (RW, R446). -/
def Fld.CLK_CFG_GATE_EN : Field := ⟨16, 1⟩
/-- SHD_CLK_CFG.LOCK_TIME (RO, R446). -/
def Fld.CLK_CFG_LOCK_TIME : Field := ⟨32, 16⟩
/-- SHD_PWR_PROFILE.PROFILE (RW, R446). -/
def Fld.PWR_PROFILE_PROFILE : Field := ⟨0, 2⟩
/-- SHD_PWR_CAP.CAP (RW, R446). -/
def Fld.PWR_CAP_CAP : Field := ⟨0, 12⟩
/-- SHD_PWR_CAP.RAMP (RW, R446). -/
def Fld.PWR_CAP_RAMP : Field := ⟨16, 8⟩
/-- SHD_PWR_CAP.TJ_MAX (RW, R446). -/
def Fld.PWR_CAP_TJ_MAX : Field := ⟨24, 8⟩
/-- SHD_PWR_CTL.IDLE_EN (RW, R446). -/
def Fld.PWR_CTL_IDLE_EN : Field := ⟨0, 1⟩
/-- SHD_PWR_CTL.IDLE_US (RW, R446). -/
def Fld.PWR_CTL_IDLE_US : Field := ⟨16, 16⟩
/-- SHD_PWR_SLICE.OFF (RW, R446). -/
def Fld.PWR_SLICE_OFF : Field := ⟨1, 3⟩
/-- SHD_PWR_STS.POWER (RO, R446). -/
def Fld.PWR_STS_POWER : Field := ⟨0, 16⟩
/-- SHD_PWR_STS.LEVEL (RO, R446). -/
def Fld.PWR_STS_LEVEL : Field := ⟨16, 4⟩
/-- SHD_PWR_STS.IDLE (RO, R446). -/
def Fld.PWR_STS_IDLE : Field := ⟨20, 1⟩
/-- SHD_PWR_STS.TJ (RO, R446). -/
def Fld.PWR_STS_TJ : Field := ⟨24, 8⟩
/-- SHD_PWR_STS.CAP_EVENTS (RO, R446). -/
def Fld.PWR_STS_CAP_EVENTS : Field := ⟨32, 16⟩
/-- SHD_PWR_TELEM.VOLT (RO, R446). -/
def Fld.PWR_TELEM_VOLT : Field := ⟨0, 16⟩
/-- SHD_PWR_TELEM.CURR (RO, R446). -/
def Fld.PWR_TELEM_CURR : Field := ⟨16, 16⟩
/-- SHD_PWR_TELEM.POWER (RO, R446). -/
def Fld.PWR_TELEM_POWER : Field := ⟨32, 16⟩
/-- SHD_PWR_TELEM.TEMP (RO, R446). -/
def Fld.PWR_TELEM_TEMP : Field := ⟨48, 8⟩
/-- SHD_PWR_TELEM.VALID (RO, R446). -/
def Fld.PWR_TELEM_VALID : Field := ⟨56, 1⟩
/-- SHD_ALIVE_CFG.ENABLE (RW, R446). -/
def Fld.ALIVE_CFG_ENABLE : Field := ⟨0, 1⟩
/-- SHD_ID.VENDOR (RO, R451). -/
def Fld.ID_VENDOR : Field := ⟨0, 16⟩
/-- SHD_ID.PART (RO, R451). -/
def Fld.ID_PART : Field := ⟨16, 16⟩
/-- SHD_ID.STEPPING (RO, R451). -/
def Fld.ID_STEPPING : Field := ⟨32, 8⟩
/-- SHD_ID.METAL (RO, R451). -/
def Fld.ID_METAL : Field := ⟨40, 8⟩
/-- SHD_CAP0.SLICES (RO, R451). -/
def Fld.CAP0_SLICES : Field := ⟨0, 4⟩
/-- SHD_CAP0.CORES (RO, R451). -/
def Fld.CAP0_CORES : Field := ⟨4, 8⟩
/-- SHD_CAP0.POSITIONS (RO, R451). -/
def Fld.CAP0_POSITIONS : Field := ⟨12, 7⟩
/-- SHD_CAP0.TILES (RO, R451). -/
def Fld.CAP0_TILES : Field := ⟨19, 9⟩
/-- SHD_CAP0.TRACKER_ENTRIES (RO, R451). -/
def Fld.CAP0_TRACKER_ENTRIES : Field := ⟨32, 16⟩
/-- SHD_CAP0.REMOTE_ENTRIES (RO, R451). -/
def Fld.CAP0_REMOTE_ENTRIES : Field := ⟨48, 16⟩
/-- SHD_CAP1.WAYS (RO, R451). -/
def Fld.CAP1_WAYS : Field := ⟨0, 5⟩
/-- SHD_CAP1.SETS (RO, R451). -/
def Fld.CAP1_SETS : Field := ⟨8, 13⟩
/-- SHD_CAP1.CRUMB_LINES (RO, R451). -/
def Fld.CAP1_CRUMB_LINES : Field := ⟨21, 9⟩
/-- SHD_CAP1.STREAM_SLOTS (RO, R451). -/
def Fld.CAP1_STREAM_SLOTS : Field := ⟨32, 5⟩
/-- SHD_CAP1.QUEUES (RO, R451). -/
def Fld.CAP1_QUEUES : Field := ⟨40, 4⟩
/-- SHD_CAP1.QUEUE_DEPTH (RO, R451). -/
def Fld.CAP1_QUEUE_DEPTH : Field := ⟨44, 8⟩
/-- SHD_CAP1.BUFFERS (RO, R451). -/
def Fld.CAP1_BUFFERS : Field := ⟨52, 9⟩
/-- SHD_CAP2.CONTEXTS (RO, R451). -/
def Fld.CAP2_CONTEXTS : Field := ⟨0, 13⟩
/-- SHD_CAP2.RINGS (RO, R451). -/
def Fld.CAP2_RINGS : Field := ⟨16, 11⟩
/-- SHD_CAP2.SHARD_MAP (RO, R451). -/
def Fld.CAP2_SHARD_MAP : Field := ⟨32, 15⟩
/-- SHD_CAP2.OPT_SETS (RO, R451). -/
def Fld.CAP2_OPT_SETS : Field := ⟨48, 9⟩
/-- SHD_CAP2.SCHEDULES (RO, R451). -/
def Fld.CAP2_SCHEDULES : Field := ⟨57, 5⟩
/-- SHD_CAP3.FORMATS (RO, R451). -/
def Fld.CAP3_FORMATS : Field := ⟨0, 7⟩
/-- SHD_CAP3.POOL_MODES (RO, R451). -/
def Fld.CAP3_POOL_MODES : Field := ⟨8, 8⟩
/-- SHD_CAP3.UPDATE_RULES (RO, R451). -/
def Fld.CAP3_UPDATE_RULES : Field := ⟨16, 8⟩
/-- SHD_CAP3.UCIE (RO, R451). -/
def Fld.CAP3_UCIE : Field := ⟨24, 1⟩
/-- SHD_CAP3.CXL_CACHE (RO, R451). -/
def Fld.CAP3_CXL_CACHE : Field := ⟨25, 1⟩
/-- SHD_CAP3.NEAR_PATH (RO, R451). -/
def Fld.CAP3_NEAR_PATH : Field := ⟨26, 1⟩
/-- SHD_CAP3.MAX_POD (RO, R451). -/
def Fld.CAP3_MAX_POD : Field := ⟨32, 7⟩
/-- SHD_CAP3.MAX_TASKS (RO, R451). -/
def Fld.CAP3_MAX_TASKS : Field := ⟨48, 16⟩
/-- SHD_CTL.ENABLE (RW, R452). -/
def Fld.CTL_ENABLE : Field := ⟨0, 1⟩
/-- SHD_CTL.PRECISE_DEFAULT (RW, R452). -/
def Fld.CTL_PRECISE_DEFAULT : Field := ⟨1, 1⟩
/-- SHD_CTL.DOORBELL_POLL (RW, R452). -/
def Fld.CTL_DOORBELL_POLL : Field := ⟨2, 1⟩
/-- SHD_STS.RING_ERROR (W1C, R452). -/
def Fld.STS_RING_ERROR : Field := ⟨0, 1⟩
/-- SHD_STS.HBM_THROTTLE (W1C, R452). -/
def Fld.STS_HBM_THROTTLE : Field := ⟨1, 1⟩
/-- SHD_STS.RELAY_TIMEOUT (W1C, R452). -/
def Fld.STS_RELAY_TIMEOUT : Field := ⟨2, 1⟩
/-- SHD_STS.SRING_OVERRUN (W1C, R452). -/
def Fld.STS_SRING_OVERRUN : Field := ⟨3, 1⟩
/-- SHD_STS.RING_ERRORS (RO, R452). -/
def Fld.STS_RING_ERRORS : Field := ⟨16, 16⟩
/-- SHD_STS.LAST_ERROR_RING (RO, R452). -/
def Fld.STS_LAST_ERROR_RING : Field := ⟨32, 10⟩
/-- SHD_STS.RELAY_TIMEOUTS (RO, R452). -/
def Fld.STS_RELAY_TIMEOUTS : Field := ⟨48, 16⟩
/-- SHD_TIME.TIME (RO, R452). -/
def Fld.TIME_TIME : Field := ⟨0, 64⟩

end Sys2Proof.Machine
end

