-- ==== Sys2Proof/Machine/State.lean ====
section
/-! DEFINITION. The state of the block as plain data: one structure per part of the engine, gathered in `Engine`;
`State` adds the queue of waiting commands. Every field names the rule that gives it. -/

namespace Sys2Proof.Machine

/-- The faults of a command. No command of this block faults: a guard that fails leaves the engine as it is. -/
inductive Fault where
  /-- Raised by no command (safe: it never occurs). -/
  | none
  deriving DecidableEq, Repr

/-- The refusals of a command. -/
inductive Refusal where
  /-- Raised by the arm of a command that has no meaning yet (safe). -/
  | notModelled (mnemonic : String)
  deriving DecidableEq, Repr

/-- The memories the engine reads and writes (00 R2, 03 R81, 10 R286, 13 R371). -/
structure Mems where
  /-- Host memory by 57-bit host address (R286), as this device sees it through the head (R59). -/
  host : List Host.Cell := []
  /-- This device's HBM by 39-bit device address (R81). -/
  hbm  : List Host.Cell := []
  /-- The 32 side bits of each HBM sector, by sector number (R69). -/
  hbmSide : List (Nat × BitVec 32) := []
  /-- The LLM, by die × 2^27 + offset (R286). -/
  llm  : List Host.Cell := []
  /-- The admitted expansion die by 40-bit address (R371). -/
  exp  : List Host.Cell := []
  /-- The side bits of the expansion die's sectors. -/
  expSide : List (Nat × BitVec 32) := []
  /-- The 32 B capability that the attached die presents (R370); none where it cannot be read. -/
  expCap : Option (List Byte) := none
  deriving DecidableEq, Repr

/-- Ring states (02, table "Ring states"). -/
inductive RingState where
  | stopped | running | draining | halted | error | aborting
  deriving DecidableEq, Repr

/-- The engine's copy of a ring context (R26). -/
structure RingCtx where
  descBase : BitVec 64 := 0
  cplBase  : BitVec 64 := 0
  log2Size : Nat := 0
  dbLine   : Nat := 0
  dbSlot   : Nat := 0
  priv     : Nat := 0
  domain   : Nat := 0
  intVector : Nat := 0
  intEnable : Bool := false
  intCount : Nat := 0
  intDelay : Nat := 0
  startPos : BitVec 32 := 0
  maxInflight : Nat := 0
  deriving DecidableEq, Repr

/-- One of the 1,024 rings (R25 to R61). -/
structure Ring where
  ctx     : RingCtx := {}
  state   : RingState := .stopped
  /-- RING_ERR (R26). -/
  err     : Nat := 0
  /-- NEXT_POS: the position of the next descriptor the engine will fetch. -/
  nextPos : BitVec 32 := 0
  /-- P_last (R36). -/
  pLast   : BitVec 32 := 0
  /-- The position of the next completion record (R50). -/
  cplPos  : BitVec 32 := 0
  /-- The next position to start (R43). -/
  startAt : BitVec 32 := 0
  /-- Record writes are stopped by CPL_WRITE_FAULT until the next START (R54). -/
  cplStopped : Bool := false
  /-- A position completed with a STATUS of 0x10 or above since the last START (R55). -/
  failed  : Bool := false
  /-- The fence position that broke: every position from it up is CANCELLED (R55). -/
  broken  : Option (BitVec 32) := none
  /-- Pending interrupt requests and the time of the first (R61). -/
  intPending : Nat := 0
  intFirst   : Nat := 0
  /-- A STOP or ABORT whose RESULT waits for STOPPED (R33). -/
  cmdWait : Bool := false
  /-- QW7 of the ring context as host memory held it before the last write of it (R27). -/
  qw7Old  : Option (List Byte) := none
  deriving DecidableEq, Repr

/-- The life of a fetched task. -/
inductive Phase where
  /-- SEQ differed from the position; re-reads made and time of the last read (R37). -/
  | seqWait (tries t0 : Nat)
  /-- Waiting for its turn to start (R43). -/
  | ready
  /-- Started and not ended. -/
  | running
  /-- Its outcome stands and all outputs are visible; the record waits (R50). -/
  | ended
  deriving DecidableEq, Repr

/-- A task in flight (R43 to R55). -/
structure Task where
  ref     : TaskRef
  desc    : BitVec 512 := 0
  /-- The descriptor was read (R46: otherwise USER_TAG is 0). -/
  read    : Bool := true
  phase   : Phase := .ready
  status  : Nat := 0
  detail  : Nat := 0
  flags   : Nat := 0
  items   : Nat := 0
  clipped : Nat := 0
  quantised : Nat := 0
  /-- Order of fetch over all rings (R41). -/
  order   : Nat := 0
  priv    : Nat := 0
  domain  : Nat := 0
  /-- The open step when the task started (R187). -/
  step    : Nat := 0
  /-- It runs precise: DESC.PRECISE, or PRECISE_DEFAULT when it started (R352, R452). -/
  precise : Bool := false
  /-- Host software has written what the task names while it is in flight, and its outputs are undefined (R156, R167, R293). -/
  undef   : Bool := false
  deriving DecidableEq, Repr

/-- A descriptor read in flight: ring, first position, slots (R43). -/
structure Fetch where
  ring  : Nat
  pos   : BitVec 32
  count : Nat
  deriving DecidableEq, Repr

/-- A table context slot (R63, R107, R115). -/
structure CtxSlot where
  loaded : Bool := false
  /-- The 128 B image. -/
  img    : BitVec 1024 := 0
  /-- REGEN_QUANTISED and REGEN_CLIPPED, and their values when the running step's updates began (R107). -/
  regenQ : Nat := 0
  regenC : Nat := 0
  markQ  : Nat := 0
  markC  : Nat := 0
  /-- Outlier channel lists read since the last CTX_LOAD, by shard and slice (R115). -/
  outl   : List ((Nat × Nat) × List Nat) := []
  /-- The slot was named by a lost-configuration detection (R396). -/
  lost   : Bool := false
  deriving DecidableEq, Repr

/-- An entry of the shard-map store and the slot that owns it (R81, R84). -/
structure ShardEnt where
  owner : Nat
  entry : BitVec 64
  deriving DecidableEq, Repr

/-- One list that a stream slot reads (R287 to R289). -/
structure LStream where
  /-- Engine address of the next block-list entry. -/
  cursor : Nat
  /-- The DATA block being read: next engine address, bytes left. -/
  blk    : Nat := 0
  left   : Nat := 0
  /-- The address at which that block begins. -/
  start  : Nat := 0
  /-- Consecutive LINK entries (R288). -/
  links  : Nat := 0
  /-- Bytes the task needs of this list, as far as it knows. -/
  need   : Nat := 0
  /-- Bytes read. -/
  got    : List Byte := []
  /-- Bytes of reads in flight. -/
  inflight : Nat := 0
  /-- An END entry was reached. -/
  ended  : Bool := false
  /-- The list ended at an entry that breaks R287 or R288. -/
  bad    : Bool := false
  /-- The unmet DEP entry the list is held at: address of the word, target, time (R294, R296). -/
  dep    : Option (Nat × Nat × Nat) := none
  deriving DecidableEq, Repr

/-- What a bulk transfer does when it completes. -/
inductive XKind where
  /-- A read of list number `list`. -/
  | listRead (list : Nat)
  /-- Output bytes of item `item`. -/
  | output (item : Nat)
  /-- A scale or side record of item `item`. -/
  | aux (item : Nat)
  /-- The residual row of a bag, read before its first contribution (R136). -/
  | residual (bag : Nat)
  deriving DecidableEq, Repr

/-- A bulk transfer of a stream slot (R289). -/
structure Xfer where
  id    : Nat
  kind  : XKind
  addr  : Nat
  len   : Nat
  /-- The bytes to write; empty for a read. -/
  bytes : List Byte := []
  /-- Issued (at most six of a slot are), with the buffers it occupies. -/
  issued : Bool := false
  bufs  : Nat := 0
  deriving DecidableEq, Repr

/-- A write held at a DEP entry of the output stream (R294): item, block list, offset, row, records. -/
structure HeldOut where
  item : Nat
  bl   : Nat
  off  : Nat
  row  : List Byte
  recs : List (Nat × List Byte)
  t0   : Nat := 0
  deriving DecidableEq, Repr

/-- A tile of a service position: 64 lanes, the outlier accumulator and TILE_SAT (R15, R115, R141). -/
structure Tile where
  lanes : List Lane := []
  outl  : List Lane := []
  sat   : Bool := false
  deriving DecidableEq, Repr

/-- What a write does once it is visible (R47, R319, R267). -/
inductive VisAct where
  /-- An item of a job of this device has one more output visible. -/
  | item (ref : TaskRef) (item : Nat)
  /-- A writer on another device is told (WRITE_DONE, R281). -/
  | done (dev slice ref item : Nat) (bits : StatusBits)
  deriving DecidableEq, Repr

/-- Who a row read serves. -/
inductive RowUse where
  /-- A contribution to participant `part` of a bag. -/
  | bag (ref : TaskRef) (bag part : Nat) (w : F32)
  /-- One half of composed pair `key`, to be combined with the other when it is in (R78). -/
  | pair (ref : TaskRef) (bag part : Nat) (w : F32) (key : Nat)
  /-- A contribution to a home run, or one half of its pair `key` (R144, R78). -/
  | home (run : Nat) (w : F32)
  | homePair (run : Nat) (w : F32) (key : Nat)
  /-- A whole row wanted as item `item` of a job: ROW_READ, STATE_EXPORT. -/
  | item (ref : TaskRef) (item : Nat)
  /-- A row message in answer to another device: its reference, BAG, and whether it is a replica fetch (R145, R261). -/
  | reply (dev slice ref bag : Nat) (fetch : Bool)
  /-- A REPLICA_SET action at the home: INSTALL 0 or VERIFY 2, and who issued it (R263). -/
  | action (act : Nat) (acts : List VisAct)
  /-- A row of a MIGRATE copy (R274). -/
  | migrate (ref : TaskRef) (rLocal : Nat)
  /-- One half of pair `key` of a GRAD_SCATTER under COMPOSE_MUL: the A half or the B half (R192). -/
  | grad (ref : TaskRef) (key : Nat) (isA : Bool)
  /-- A row, or half 0 or 1 of a pair, of a near-path gather (R347). -/
  | near (id row half : Nat)
  deriving DecidableEq, Repr

/-- A row read the tracker has accepted: the row as it stood then (R17), or none where its checks failed. -/
structure RowReq where
  id    : Nat
  use   : RowUse
  slot  : Nat
  row   : Nat
  /-- The master is read instead of the working copy (R124). -/
  wide  : Bool := false
  /-- The state row is read with the working copy (R458). -/
  both  : Bool := false
  /-- The slice that asks. -/
  slice : Nat := 0
  val   : Option RowVal := none
  st    : Option (List Byte) := none
  /-- Lines it fills: memory and A / 512. -/
  bases : List (Nat × Nat) := []
  recomp : Bool := false
  /-- It waits for its state row from another device. -/
  waitState : Bool := false
  /-- The row of an activation table with its scale record (R163), and the expert output region of COMBINE: offset and
  format byte (R176). -/
  activation : Bool := false
  region : Option (Nat × Nat) := none
  deriving DecidableEq, Repr

/-- A participant of a bag: its tile group and what it still waits for (R148). -/
structure Part where
  pos     : Nat
  tile    : Nat
  waiting : Nat := 0
  chk     : Lane := ⟨0, 0⟩
  /-- Slot written (R149). -/
  written : Bool := false
  deriving DecidableEq, Repr

/-- A bag being pooled (R131 to R151). -/
structure Bag where
  idx   : Nat
  /-- Divisor count n (R80, R132) and the pair of Σw (R139). -/
  n     : Nat := 0
  sw    : Lane := ⟨0, 0⟩
  parts : List Part := []
  /-- Partials awaited, by home device, slice and table. -/
  partials : List (Nat × Nat × Nat) := []
  /-- Rows asked of other devices: slot, row, weight, and the pair they are half of (R145, R177). -/
  asked    : List (Nat × Nat × F32 × Option Nat) := []
  /-- Its residual row is in, if it has one (R136). -/
  ready    : Bool := true
  /-- The exact code sum under ACC_INT (R392). -/
  chkInt : Int := 0
  /-- Halves of composed pairs that have come, by pair number. -/
  halves : List (Nat × List F32) := []
  /-- Participants that have written their slots (R149). -/
  split : Nat := 0
  /-- The participant that merged the others (R149). -/
  merged : Option Nat := none
  /-- Finalised and handed to the Glaze stage. -/
  closed : Bool := false
  /-- A recomputation under R394: the S of the first computation. -/
  redo   : Option F32 := none
  /-- The check that failed while the bag was pooling, 0 for none (R393). -/
  failed : Nat := 0
  /-- Indices and weights, for a recomputation from the first index (R394). -/
  indices : List (Nat × F32) := []
  /-- Default hits (R356), and rows gathered for sub-lists while indices are still accepted (R354). -/
  dflts  : Nat := 0
  subs   : List ((Nat × Nat × Nat) × List (Nat × Option Nat × F32)) := []
  deriving DecidableEq, Repr

/-- A pair of a GRAD_SCATTER under COMPOSE_MUL whose rows are being read (R192): its bag, its contribution, the rows of
its halves (none: a zero default) and their values once they have come. -/
structure GradPair where
  key   : Nat
  bag   : Nat
  g     : List F32
  a     : Option (Nat × Nat)
  b     : Option (Nat × Nat)
  va    : Option (List F32) := none
  vb    : Option (List F32) := none
  deriving DecidableEq, Repr

/-- The settings of a pooling job, as its descriptor and profile give them (R127, R155). -/
structure PoolCfg where
  slot    : Nat := 0
  width   : Nat := 0
  mode    : Nat := 0
  gather  : Bool := false
  accInt  : Bool := false
  preload : Nat := 0
  sideEn  : Bool := false
  prefetch : Bool := false
  wide    : Bool := false
  profile : Nat := 0
  outFmt  : Nat := 0
  pos     : Nat := 0
  tile    : Nat := 0
  posCount : Nat := 0
  span    : Nat := 0
  outBl   : Nat := 0
  stride  : Nat := 0
  scaleAddr : Nat := 0
  bags    : Nat := 0
  /-- COMBINE: the expert output region (R176) and TOP_K; 0 for the other opcodes. -/
  region  : Option (Nat × Nat) := none
  topK    : Nat := 0
  deriving DecidableEq, Repr

/-- The running part of a pooling job. -/
structure PoolRun where
  cfg     : PoolCfg := {}
  nextBag : Nat := 0
  bags    : List Bag := []
  /-- Bias values (R136) and rescale multipliers (R122), read once per task. -/
  bias    : List F32 := []
  rescale : List F32 := []
  /-- A bag that goes on from a save image (R356, R364): its index position P and the image. -/
  saved   : Option (Nat × List Byte) := none
  deriving DecidableEq, Repr

/-- A job: a started task that holds a stream slot, or whose work goes on over several commands. -/
structure Job where
  ref    : TaskRef
  opcode : Nat
  slice  : Nat := 0
  /-- The stream slot held (R20). -/
  slot   : Option Nat := none
  queue  : Nat := 0
  lists  : List LStream := []
  xfers  : List Xfer := []
  /-- Items formed whose writes are not all visible: item, parts outstanding. -/
  open_  : List (Nat × Nat) := []
  /-- Leading items visible, and visible items beyond them (R46). -/
  lead   : Nat := 0
  ahead  : List Nat := []
  total  : Nat := 0
  /-- ITEMS in terms of the job's units: `unit` items a unit and `count` in all (STATE_EXPORT). -/
  unit   : Nat := 1
  count  : Nat := 0
  /-- Where the outputs lie: block lists with the bytes of a unit, or plain memory from 2^64 + an engine address up (R46). -/
  outs   : List (Nat × Nat) := []
  /-- PAGE_GATHER: the first output row of each session taken up. -/
  starts : List Nat := []
  /-- Items whose outputs are undefined: bags pooled in tiles that two tasks name, or from rows whose outlier header
  breaks R116 (R19, R116, R161). -/
  undef  : List Nat := []
  /-- Writes held at a DEP entry of the output stream: item, block list, offset, row, records (R294). -/
  heldOut : List HeldOut := []
  /-- Answers of other devices awaited. -/
  acks   : Nat := 0
  /-- All work of the body has been issued. -/
  issued : Bool := false
  /-- Time of the last progress (R306). -/
  prog   : Nat := 0
  /-- A mid-stream fault: the job ends once its transfers in flight are done (R304). -/
  fault  : Option (Nat × Nat) := none
  /-- A fault met in item order, at item `.1`: it stands once the items before that one are visible (R130). -/
  pend   : Option (Nat × Nat × Nat) := none
  /-- The task has passed its start checks and waits for its stream slot (R20). -/
  waitSlot : Bool := false
  /-- A persistent task between rounds (R297); the REARM that started the running round. -/
  between : Bool := false
  rearm  : Option TaskRef := none
  /-- Sums over the finished rounds of a persistent task (R299). -/
  sumItems : Nat := 0
  pool   : Option PoolRun := none
  /-- Rows read and not yet written out: item, row, state row (R250, R282). -/
  rowsIn : List (Nat × (RowVal × List Byte)) := []
  /-- Pairs of a GRAD_SCATTER whose rows are being read. -/
  prods  : List GradPair := []
  /-- Operation-specific numbers kept between commands (row counters and the like). -/
  aux    : List Nat := []
  /-- Outcomes of the round or of the task so far. -/
  flags  : Nat := 0
  clipped : Nat := 0
  quantised : Nat := 0
  deriving DecidableEq, Repr

/-- A sub-list being pooled at this home (R144, R146). -/
structure HomeRun where
  id     : Nat
  dev    : Nat
  slice  : Nat
  ref    : Nat
  bag    : Nat
  slot   : Nat
  /-- The slot of sub-table B of pairs (R78). -/
  slotB  : Nat := 0
  /-- The home slice the sub-list was addressed to. -/
  home  : Nat := 0
  /-- Slice, position and first tile of the home tile group. -/
  at_    : Nat × Nat × Nat
  tiles  : Nat
  accInt : Bool
  wide   : Bool
  waiting : Nat := 0
  last   : Bool := false
  chk    : Lane := ⟨0, 0⟩
  chkInt : Int := 0
  /-- TILE_SAT, RECOMPUTED, REPLICA_BYPASS, LOST of the partial. -/
  sat    : Bool := false
  recomp : Bool := false
  lost   : Bool := false
  /-- It pools a forwarded part, or what is left after `extra` parts were forwarded (R274). -/
  part   : Bool := false
  extra  : Nat := 0
  /-- Waiting for the previous sub-list of the same tile group (R146). -/
  held   : Bool := false
  /-- Rows received and not yet read, with the other half of a pair and the weight (R78). -/
  rows   : List (Nat × Option Nat × F32) := []
  halves : List (Nat × List F32) := []
  deriving DecidableEq, Repr

/-- A record in a front FIFO or in a log ring (R414 to R417). -/
structure LogRec where
  cluster : Nat := 0
  slice   : Nat := 0
  typ     : Nat := 0
  seq     : Nat := 0
  time    : Nat := 0
  injected : Bool := false
  tableId : Nat := 0
  row     : Nat := 0
  peer    : Nat := 0
  peerSlice : Nat := 0
  ref     : Nat := 0
  code    : Nat := 0
  arg     : Nat := 0
  details : List (BitVec 128) := []
  drained : Bool := false
  deriving DecidableEq, Repr

/-- The event log of one slice (R414 to R419). -/
structure LogSlice where
  /-- The eight front FIFOs, oldest record first. -/
  fifos   : List (Nat × List LogRec) := []
  /-- The log ring, oldest record first. -/
  ring    : List LogRec := []
  nextSeq : Nat := 0
  /-- Next cluster of the cyclic packing order (R415). -/
  nextCluster : Nat := 0
  /-- Records formed before this number are being flushed (R419). -/
  flushTo : Option Nat := none
  deriving DecidableEq, Repr

/-- The level of a package pin (R443 to R445). -/
inductive Pin where
  | hiZ | low | high
  deriving DecidableEq, Repr

/-- A reset in progress: what it resets and where start-up resumes (R426, R428). -/
inductive ResetKind where
  | powerOn | full | engine
  deriving DecidableEq, Repr

/-- The ring front end (02). -/
structure Front where
  rings    : List (Nat × Ring) := []
  fetches  : List Fetch := []
  /-- The ring after which the next cyclic visit begins (R44). -/
  fetchPtr : Nat := 0
  /-- Tasks fetched so far, the next order number (R41). -/
  order    : Nat := 0
  /-- The last contents held of each doorbell line, by device and line (R57). -/
  dbLines  : List ((Nat × Nat) × List (BitVec 32)) := []
  /-- Producer indices observed for slots of no RUNNING ring, by line and slot (R36). -/
  piSeen   : List ((Nat × Nat) × BitVec 32) := []
  /-- Doorbell line reads in flight, and lines whose failed read waits for its retry (R57, R60). -/
  dbReads  : List (Nat × Nat) := []
  dbRetry  : List (Nat × Nat) := []
  /-- The MSI-X messages written at the head, oldest first (R61; the model's own output list). -/
  msix     : List Nat := []
  deriving DecidableEq, Repr

/-- A message sent and not acknowledged (R377). -/
structure Unacked where
  msg     : Msg
  cls     : Nat
  resends : Nat := 0
  t0      : Nat := 0
  deriving DecidableEq, Repr

/-- A CONTROL request whose answer is awaited (R378): peer, TYPE of the answer, item, the request, times of the
first and of the last sending. -/
structure CtrlWait where
  peer   : Nat
  answer : Nat
  table  : Nat := 0
  item   : Nat := 0
  msg    : Msg
  t0     : Nat := 0
  tLast  : Nat := 0
  /-- Times it has been sent. -/
  sent   : Nat := 1
  deriving DecidableEq, Repr

/-- A relayed access of the head that waits for REG_DATA (R385). -/
structure Relay where
  tag  : Nat
  slot : Nat
  t0   : Nat
  deriving DecidableEq, Repr

/-- The links (13). -/
structure Net where
  /-- Next E2E_SEQ to send, and to expect, per device and class (R377). -/
  seqOut  : List ((Nat × Nat) × Nat) := []
  seqIn   : List ((Nat × Nat) × Nat) := []
  unacked : List Unacked := []
  /-- Messages that arrived ahead of their turn. -/
  heldIn  : List Msg := []
  /-- Messages given to the ports, oldest first (the model's own output list): the port, or 16 for the fabric and the
  die-to-die bundles of this device, and the message. -/
  egress  : List (Nat × Msg) := []
  waits   : List CtrlWait := []
  /-- Requests of tasks that await an answer: reference and device (R377, R410). -/
  awaits  : List (Nat × Nat) := []
  relays  : List Relay := []
  /-- Time exchange (R384): departure t1 of the exchange in flight, first exchange done, good exchanges in a row,
  thirds of a nanosecond of offset still to slew. -/
  t1      : Option Nat := none
  stepped : Bool := false
  good    : Nat := 0
  slew    : Int := 0
  /-- Thirds of a nanosecond that a tick removes of it. -/
  rate    : Nat := 0
  /-- The fraction of the running tick in thirds of a nanosecond (32 to the tick); SHD_TIME at the last exchange sent and at
  the last reply (R384). -/
  frac    : Nat := 0
  tSent   : Nat := 0
  tReply  : Nat := 0
  deriving DecidableEq, Repr

/-- A coalesced row (R195, R196): its key, its step, where it is held, its pairs. -/
structure Coal where
  slice : Nat
  table : Nat
  row   : Nat
  step  : Nat
  /-- The coalescing way and first set, or none for a spill record. -/
  way   : Option (Nat × Nat) := none
  count : Nat := 0
  pairs : List Lane := []
  deriving DecidableEq, Repr

/-- A record of a sorted run (R202): key, count, pairs, home slice. -/
structure RunRec where
  table : Nat
  row   : Nat
  count : Nat
  pairs : List Lane
  deriving DecidableEq, Repr

/-- One input of a home's merge or of a chain device's merge (R210, R211). -/
structure ChainIn where
  home  : Nat
  slice : Nat
  chain : Nat
  queue : List RunRec := []
  ended : Bool := false
  /-- Time of its last message (R215). -/
  t0    : Nat := 0
  /-- Rows received (against ROWS_SENT). -/
  rows  : Nat := 0
  lastKey : Option (Nat × Nat) := none
  deriving DecidableEq, Repr

/-- A sorted run of this device for one home slice, and how far it has been sent (R210, R212). -/
structure Run where
  home  : Nat
  slice : Nat
  recs  : List RunRec := []
  left  : List RunRec := []
  sentEnd : Bool := false
  sent  : Nat := 0
  acked : Bool := false
  deriving DecidableEq, Repr

/-- Where a CLOSE stands (R202). -/
inductive ClosePhase where
  | waiting      -- step 2: tasks of the step
  | sorting      -- step 3
  | held         -- before step 4: step k - 1 not fully applied
  | gate         -- step 4: waiting for children or for the decision
  | chains       -- step 6
  deriving DecidableEq, Repr

/-- The closing step (R186, R202). -/
structure Closing where
  ref   : TaskRef
  step  : Nat
  phase : ClosePhase := .waiting
  absurd : F32 := 0
  denseCount : Nat := 0
  dense : List (Nat × Nat) := []
  /-- The checked copy of the chain entries (R382, R396). -/
  chains : List (Nat × List (List Nat)) := []
  start : Nat := 0
  /-- Children heard, with the OR of their flags (R204). -/
  heard : List Nat := []
  upFlags : Nat := 0
  sentUp : Bool := false
  sentAt : Nat := 0
  timeout : Bool := false
  runs  : List Run := []
  ins   : List ChainIn := []
  /-- Home slices that have applied every key and sent END_ACK. -/
  applied : List Nat := []
  items : Nat := 0
  flags : Nat := 0
  fault : Option (Nat × Nat) := none
  progress : Nat := 0
  deriving DecidableEq, Repr

/-- The gradient return (07). -/
structure Grad where
  coal    : List Coal := []
  closing : Option Closing := none
  /-- Flags raised for the open step and for the closing step (R203). -/
  flagsOpen : Nat := 0
  flagsClosing : Nat := 0
  /-- The arrival step with its DENSE_COUNT (R186), and arrivals received per step. -/
  arrival : Option (Nat × Nat) := none
  arrived : List (Nat × Nat) := []
  /-- Arrivals that have completed per step (R219). -/
  arrDone : List (Nat × Nat) := []
  /-- GATE_UP messages of a step whose CLOSE has not started here: sender, step, flags, digest. -/
  early   : List (Nat × Nat × Nat × Nat) := []
  /-- The decisions of the last four steps: step, proceed, flags (R207). -/
  decided : List (Nat × Bool × Nat) := []
  /-- Arrival tasks that wait for their step's decision, with the outcome of their region's read (R201, R218). -/
  arrWait : List (TaskRef × Access) := []
  /-- Slices and steps whose contributions are undefined (R199). -/
  spoilt  : List (Nat × Nat) := []
  deriving DecidableEq, Repr

/-! The row cache (11). -/

/-- What an address line holds (R314, R316). -/
inductive LineKind where
  | working | praline | outlier | state | copy | activ
  deriving DecidableEq, Repr

/-- An address line of the row cache (R313, R314, R318, R328). -/
structure Line where
  slice : Nat
  way   : Nat
  set   : Nat
  /-- The memory the line belongs to: a device number, or 64 for the expansion die; and A / 512. -/
  src   : Nat
  base  : Nat
  table : Nat
  kind  : LineKind
  /-- Valid bit per half (16) and dirty bit per cache sector (8). -/
  valid : Nat := 0
  dirty : Nat := 0
  /-- VERSION_LO per half, the 512 data bytes, CRC-16 per cache sector. -/
  vers  : List Nat := []
  data  : List Byte := []
  crc   : List Nat := []
  age   : Nat := 2
  deriving DecidableEq, Repr

/-- A line in the Crumb buffer, with the number of its write-back in flight (R323). -/
structure CrumbEnt where
  line : Line
  wb   : Option Nat := none
  deriving DecidableEq, Repr

/-- Bytes of one write: memory (device or 64), address, bytes, VERSION_LO, poisoned (R398). -/
structure WPart where
  src  : Nat
  addr : Nat
  bytes : List Byte
  ver  : Nat := 0
  poison : Bool := false
  deriving DecidableEq, Repr

/-- A write of a row that the tracker has accepted and that is not yet visible (R319, R86, R267). -/
structure RowW where
  id    : Nat
  slice : Nat
  slot  : Nat
  row   : Nat
  ver   : Nat := 0
  parts : List WPart := []
  /-- Slices that have not yet received the invalidation, and those whose acknowledgement is on its way (R86). -/
  inv   : List Nat := []
  invAck : List Nat := []
  /-- The HBM write is outstanding. -/
  hbm   : Bool := true
  /-- A write-back from the Crumb buffer (R323). -/
  evict : Bool := false
  acts  : List VisAct := []
  deriving DecidableEq, Repr

/-- The row caches of the slices. -/
structure Cache where
  lines  : List Line := []
  crumb  : List CrumbEnt := []
  /-- Detection count D and access count W, by slice and way (R329). -/
  ways   : List ((Nat × Nat) × (Nat × Nat)) := []
  /-- Way reconfigurations in progress: slice and the new register value (R326). -/
  reconf : List (Nat × Word) := []
  writes : List RowW := []
  deriving DecidableEq, Repr

/-! The update unit (08). -/

/-- A reduced row that has reached its home (R222): who delivered it, and its pairs. -/
structure Arrival where
  ref   : TaskRef
  slot  : Nat
  row   : Nat
  step  : Nat
  count : Nat := 0
  pairs : List Lane := []
  deriving DecidableEq, Repr

/-- What a write request of a row asks (R281, R252). -/
inductive WriteSrc where
  /-- ROW_WRITE: FP32 or working record, MOMENTS_ZERO. -/
  | record (val : RowVal) (momentsZero : Bool)
  /-- STATE_IMPORT: the assembled row of state records, its contents bits and the header it carries. -/
  | state (bytes : List Byte) (contents : Nat)
  deriving DecidableEq, Repr

/-- Why a state row is read (R239, R242). -/
inductive StateUse where
  /-- A parked arrival; `slot_`: it holds a pending-update slot. -/
  | arrival (a : Arrival) (parked : Bool)
  | write (src : WriteSrc) (acts : List VisAct)
  /-- A row request that needs the state row (READ_WIDE, ROW_READ, STATE_EXPORT, DRIFT_CHECK, MIGRATE). -/
  | req (id : Nat)
  | prefetch
  /-- The recovery of a row request's working copy from the master (R397). -/
  | recover (id : Nat)
  deriving DecidableEq, Repr

/-- A state read in flight (R242). -/
structure StateWait where
  id    : Nat
  slice : Nat
  slot  : Nat
  row   : Nat
  use   : StateUse
  t0    : Nat
  deriving DecidableEq, Repr

/-- A DRIFT_CHECK sweep of a slice (R238): table, shard and row_in_slice next, row request in flight. -/
structure Drift where
  slice : Nat
  slot  : Nat
  shard : Nat := 0
  next  : Nat := 0
  req   : Option Nat := none
  deriving DecidableEq, Repr

/-- The update units. -/
structure Upd where
  waits  : List StateWait := []
  /-- η held per parameter set: set, step, value (R231). -/
  etas   : List (Nat × Nat × F32) := []
  drifts : List Drift := []
  /-- Parameter sets and steps whose updates are undefined (R229). -/
  spoilt : List (Nat × Nat) := []
  deriving DecidableEq, Repr

/-! Hot rows (09). -/

/-- Replica states (R258). -/
inductive RepState where
  | valid | pending | invalid
  deriving DecidableEq, Repr

/-- A replica (R258, R261, R265). -/
structure Replica where
  slice : Nat
  table : Nat
  row   : Nat
  way   : Nat
  set   : Nat
  lines : Nat
  st    : RepState := .pending
  auto  : Bool := false
  refBit : Bool := false
  val   : RowVal := {}
  tries : Nat := 0
  t0    : Nat := 0
  /-- INVALID because of a DROP (R268, R269). -/
  dropped : Bool := false
  deriving DecidableEq, Repr

/-- A multicast that members have not all acknowledged (R266, R267). -/
structure Mcast where
  table : Nat
  row   : Nat
  ver   : Nat
  members : List Nat
  t0    : Nat
  /-- The step of an update. -/
  step  : Option Nat := none
  /-- What follows when all have acknowledged (REPLICA_SET). -/
  acts  : List VisAct := []
  deriving DecidableEq, Repr

/-- A member dropped for a table by this home (R268). -/
structure Dropped where
  table  : Nat
  member : Nat
  t0     : Nat
  acked  : Bool := false
  deriving DecidableEq, Repr

/-- Phases of a MIGRATE (R274). -/
inductive MigPhase where
  | copy | switch | forward
  deriving DecidableEq, Repr

/-- A migration in flight at the old home (R274). -/
structure Mig where
  ref   : TaskRef
  slot  : Nat
  shard : Nat
  newDev : Nat
  newSlice : Nat
  newBase : Nat
  phase : MigPhase := .copy
  /-- Rows whose read has been asked for, by r_local. -/
  next  : Nat := 0
  /-- Copies sent and not acknowledged, by row. -/
  open_ : Nat := 0
  /-- Devices whose SHARD_MAP_ACK is awaited, and the time of the last. -/
  mapWait : List Nat := []
  tAck  : Nat := 0
  /-- The old shard-map entry. -/
  old   : BitVec 64 := 0
  deriving DecidableEq, Repr

/-- Hot rows, replicas and migration. -/
structure Hot where
  /-- Sketch counters by slice, sketch row and index (R255). -/
  sketch : List ((Nat × Nat × Nat) × Nat) := []
  replicas : List Replica := []
  mcasts : List Mcast := []
  dropped : List Dropped := []
  /-- Tables to rejoin, with the home that dropped this device (R268, R269). -/
  rejoin : List (Nat × Nat) := []
  /-- The newest multicast acted upon, by home, table and row: its VERSION_LO (R378). -/
  acted  : List ((Nat × Nat × Nat) × Nat) := []
  /-- Rows of a migration that have come to this new home, by table and row: VERSION_LO (R274). -/
  copied : List ((Nat × Nat) × Nat) := []
  migs   : List Mig := []
  deriving DecidableEq, Repr

/-- Integrity and spares (14 R394 to R407). -/
structure Safe where
  /-- Detections against physical cores: slice, core, time (R394). -/
  detects : List (Nat × Nat × Nat) := []
  /-- Failed cores: slice, core (R407). -/
  failed  : List (Nat × Nat) := []
  /-- The time of a block's last mismatch, by slice and check (R395). -/
  mismatch : List ((Nat × Nat) × Nat) := []
  /-- The next position to rotate, and the time of the last rotation, by slice (R406). -/
  rotate  : List (Nat × (Nat × Nat)) := []
  /-- The time of the last latent test (R401). -/
  latent  : Nat := 0
  /-- Slices that the engine takes offline once their tasks have completed, with the check that led to it (R408). -/
  autoOff : List (Nat × Nat) := []
  /-- Positions to be moved by a rotation at their next task boundary, by slice (R406). -/
  moving  : List (Nat × Nat) := []
  /-- Slices whose test spare has not passed its self-test since it left service (R406). -/
  testing : List Nat := []
  deriving DecidableEq, Repr

/-- Start-up, reset and power (15). -/
structure Power where
  /-- Periods of 10.667 ns since reset release, and their value when the running start-up step began (R428, R429). -/
  up     : Nat := 0
  stepAt : Nat := 0
  /-- Slices that have finished the running step; the step that ended with a failed slice (R429, R430). -/
  done   : List Nat := []
  failStep : Nat := 0
  /-- Slices that power up: step and its beginning (R436). -/
  ups    : List (Nat × (Nat × Nat)) := []
  /-- Slices whose gating has begun (R436). -/
  gating : List Nat := []
  /-- The last ten sums of rail power in 0.1 W, newest first (R441). -/
  sums   : List Nat := []
  /-- SHD_TIME from which the conditions of IDLE have held (R434). -/
  quiet  : Nat := 0
  deriving DecidableEq, Repr

/-! The near path (12). -/

/-- What the outcome of a near-path instruction holds (R351), with the thread and the instruction. -/
structure NearOut where
  thread : Nat
  id     : Nat
  status : Nat
  detail : Nat
  flags  : Nat
  items  : Nat
  xtrap  : Bool
  deriving DecidableEq, Repr

/-- The parts of SHD_XSTS of a thread (R353); status 0 while none but DONE was taken. -/
structure Xsts where
  status : Nat := 0
  detail : Nat := 0
  flags  : Nat := 0
  xtrap  : Bool := false
  index  : Nat := 0
  count  : Nat := 0
  deriving DecidableEq, Repr

/-- A near-path instruction whose outcome has not been sent (R344 to R357). Its task carries its descriptor in the form
of a ring task, its privilege and its domain. -/
structure NearIn where
  id     : Nat
  thread : Nat
  /-- 1 GPOOL, 2 GATHER, 3 SADD (R345). -/
  kind   : Nat
  cbAddr : Nat
  /-- The 64 bytes of the control block as read at issue. -/
  cb     : Nat := 0
  vs1    : List Word := []
  vs2    : List Word := []
  vals   : List Byte := []
  count  : Nat := 0
  /-- Issuing privilege (the record's own stands in the task). -/
  level  : Nat := 0
  precise : Bool := false
  /-- Elements accepted, and where the bag that holds the next one begins. -/
  pos    : Nat := 0
  bagStart : Nat := 0
  /-- SAVE_CRC of a resume record that names a save image (R357). -/
  saveCrc : Option Nat := none
  /-- GATHER: row halves outstanding and received. -/
  pend   : List (Nat × Nat) := []
  got    : List ((Nat × Nat) × List F32) := []
  /-- Time of the stop request; the window is over; no more elements are accepted; the tiles are to be saved (R354). -/
  stop   : Option Nat := none
  expired : Bool := false
  halt   : Bool := false
  save   : Bool := false
  retired : Bool := false
  deriving DecidableEq, Repr

/-- The near path: instructions in issue order, SHD_XSTS by thread, threads that wait in SHD.SYNC, and the model's own
output lists: outcomes, vd elements by instruction and first element, resume records by thread and privilege level, status
words that SHD.SYNC returned (with its trap), and the traps of precise instructions. -/
structure Near where
  ins   : List NearIn := []
  xsts  : List (Nat × Xsts) := []
  syncs : List Nat := []
  outs  : List NearOut := []
  vd    : List ((Nat × Nat) × List F32) := []
  recs  : List ((Nat × Nat) × List Byte) := []
  words : List (Nat × Word × Bool) := []
  traps : List (Nat × Word) := []
  deriving DecidableEq, Repr

/-- The whole engine but the queue of waiting commands. -/
structure Engine where
  regs    : List (Reg × Word) := []
  /-- Free values taken so far (the model's own field, notes/assumptions/2.md). -/
  freeCtr : Nat := 0
  /-- The shadow of SHD_TIME [63:32] latched by a read of [31:0] (R454). -/
  timeShadow : Option (BitVec 32) := none
  /-- Data of the last host read that completed (the model's own output). -/
  busData : Word := 0
  pinFault : Pin := .hiZ
  pinAlert : Pin := .hiZ
  pinAlive : Pin := .hiZ
  inReset : Option ResetKind := some .powerOn
  mem     : Mems := {}
  front   : Front := {}
  tasks   : List Task := []
  jobs    : List Job := []
  ctxs    : List (Nat × CtxSlot) := []
  shards  : List (Nat × ShardEnt) := []
  tiles   : List ((Nat × Nat × Nat) × Tile) := []
  homeRuns : List HomeRun := []
  rowReqs : List RowReq := []
  /-- The next number for a row request, transfer or home run. -/
  nextId  : Nat := 0
  /-- Lost configuration registers (R396). -/
  lostRegs : List Reg := []
  /-- Slice counters, by slice and index (R422). -/
  counters : List ((Nat × Nat) × Nat) := []
  logs    : List (Nat × LogSlice) := []
  net     : Net := {}
  grad    : Grad := {}
  cache   : Cache := {}
  upd     : Upd := {}
  hot     : Hot := {}
  safe    : Safe := {}
  power   : Power := {}
  near    : Near := {}
  deriving DecidableEq, Repr

/-- The state of the block: the engine, and the commands that wait, first in, first out. -/
structure State where
  pending : List Instr := []
  eng     : Engine := {}
  deriving DecidableEq, Repr

/-- The state at power-on: a power-on reset in progress, every register at its reset value, no command waiting (R426,
R427; the values the manual does not give: notes/assumptions/3.md). -/
def State.reset : State := {}

end Sys2Proof.Machine
end

