-- ==== Sys2Proof/Machine/Ops.lean ====
section
/-! DEFINITION. The named operations over registers, memories, the log, the alert and fault pins and free values
that every family of commands uses. -/

namespace Sys2Proof.Machine

/-! Registers. -/

/-- The value a register holds; its reset value where nothing was written. -/
def getReg (r : Reg) (e : Engine) : Word := tget r.spec.reset r e.regs

/-- The engine with a register holding a value. -/
def setReg (r : Reg) (v : Word) (e : Engine) : Engine := { e with regs := tput r v e.regs }

/-- A field of a register. -/
def getF (r : Reg) (f : Field) (e : Engine) : Nat := getFld (getReg r e) f

/-- A one-bit field of a register. -/
def getB (r : Reg) (f : Field) (e : Engine) : Bool := decide (getF r f e = 1)

/-- The engine with one field of a register replaced. -/
def setF (r : Reg) (f : Field) (x : Nat) (e : Engine) : Engine := setReg r (setFld (getReg r e) f x) e

/-- Advances a saturating counter field by `n`. -/
def incF (r : Reg) (f : Field) (n : Nat) (e : Engine) : Engine := setF r f (satAdd f.width (getF r f e) n) e

/-- SHD_TIME (R384). -/
def now (e : Engine) : Nat := (getReg .time e).toNat

/-- The ticks of CLK_TS in `n` units of a microsecond, rounded up (R8: 93.75 MHz, 375 ticks in 4 µs). -/
def usTicks (n : Nat) : Nat := ceilDiv (n * 375) 4

/-- The time since `t0` has reached `n` µs. -/
def elapsedUs (t0 n : Nat) (e : Engine) : Bool := decide (n * 375 ≤ (now e - t0) * 4)

/-- This device's number (R381). -/
def thisDev (e : Engine) : Nat := getF .podCfg Fld.POD_CFG_DEVICE e

/-- Devices of the pod (R381). -/
def podSize (e : Engine) : Nat := 16 * (getF .podCfg Fld.POD_CFG_POD_SIZE e + 1)

/-- The engine is in the fault state (R402). -/
def inFault (e : Engine) : Bool := getB .faultSts Fld.FAULT_STS_FAULT e

/-- SHD_CTL.ENABLE is 1 and the engine may work. -/
def enabled (e : Engine) : Bool := getB .ctl Fld.CTL_ENABLE e && !inFault e && e.inReset.isNone

/-- The engine runs: no reset in progress and not in the fault state. -/
def alive (e : Engine) : Bool := !inFault e && e.inReset.isNone

/-! Free values (notes/assumptions/2.md). -/

/-- Takes the next free value. -/
def takeFree (e : Engine) : Word × Engine :=
  (Config.freeValue e.freeCtr, { e with freeCtr := e.freeCtr + 1 })

/-- Takes `n` free bytes. -/
def takeFreeBytes : Nat → Engine → List Byte × Engine
  | 0, e => ([], e)
  | n + 1, e =>
    let r := takeFree e
    let t := takeFreeBytes n r.2
    (r.1.truncate 8 :: t.1, t.2)

/-- Takes `n` free lanes. -/
def takeFreeLanes : Nat → Engine → List Lane × Engine
  | 0, e => ([], e)
  | n + 1, e =>
    let r := takeFree e
    let t := takeFreeLanes n r.2
    (⟨r.1.truncate 32, (r.1 >>> 32).truncate 32⟩ :: t.1, t.2)

/-- Bytes as they are, or free values in their place. -/
def freeIf (b : Bool) (bs : List Byte) (e : Engine) : List Byte × Engine :=
  if b then takeFreeBytes bs.length e else (bs, e)

/-! Slice counters (R422). -/

/-- Adds to counter `i` of slice `n`; 64 bits, saturating. -/
def addCounter (n i k : Nat) (e : Engine) : Engine :=
  { e with counters := tput (n, i) (satAdd 64 (tget 0 (n, i) e.counters) k) e.counters }

/-! The alert flags and pin (R404, R413). -/

/-- Every enabled alert flag is clear, SYNCED was not lost: the pin SHD_ALERT_N follows SHD_FAULT_STS [31:24] (R404). -/
def alertActive (e : Engine) : Bool :=
  decide (Nat.land (bitsOf (getReg .faultSts e).toNat 24 8) (getF .safeCfg Fld.SAFE_CFG_ALERT_EN e) ≠ 0)

/-- Drives SHD_ALERT_N (R404, R444): hi-Z while a reset is in progress; by the flags in the fault state and from the first
ENABLE on; before it low in FAILED and high otherwise. -/
def driveAlert (e : Engine) : Engine :=
  if e.inReset.isSome then e
  else
    let low := if inFault e || decide (e.pinFault = .high) then alertActive e
      else decide (getF .initSts Fld.INIT_STS_STATE e = 15)
    { e with pinAlert := if low then .low else .high }

/-- Sets an alert flag of SHD_FAULT_STS. -/
def setAlert (f : Field) (e : Engine) : Engine := driveAlert (setF .faultSts f 1 e)

/-! The event log: a record enters its cluster's front FIFO (R414, R416, R417). -/

/-- The log of a slice. -/
def logOf (n : Nat) (e : Engine) : LogSlice := tget {} n e.logs

/-- The engine with the log of a slice replaced. -/
def setLog (n : Nat) (l : LogSlice) (e : Engine) : Engine := { e with logs := tput n l e.logs }

/-- Event words of a record: header, subject and details (R416). -/
def recWords (r : LogRec) : Nat := 2 + r.details.length

/-- Event words in a FIFO. -/
def fifoWords (q : List LogRec) : Nat := (q.map recWords).foldl (· + ·) 0

/-- Counts a lost record (R415, R418). -/
def logLost (n : Nat) (e : Engine) : Engine :=
  setAlert Fld.FAULT_STS_LOG_LOST (addCounter n 14 1 (incF (.logSts n) Fld.LOG_STS_LOST_COUNT 1 e))

/-- Forms a record of a cluster and enters it, or drops it whole when the FIFO has no room (R414). -/
def logEvent (r : LogRec) (e : Engine) : Engine :=
  let n := r.slice
  if getB .logCtl Fld.LOG_CTL_ENABLE e && decide (bitsOf (getF .logCtl Fld.LOG_CTL_CLUSTER_EN e) r.cluster 1 = 1) then
    let l := logOf n e
    let r := { r with seq := l.nextSeq % 2 ^ 32, time := now e }
    let l := { l with nextSeq := l.nextSeq + 1 }
    let e := addCounter n 13 1 e
    let q := tget [] r.cluster l.fifos
    if fifoWords q + recWords r ≤ 32 then
      setLog n { l with fifos := tput r.cluster (q ++ [r]) l.fifos } e
    else
      setAlert Fld.FAULT_STS_LOG_LOST
        (addCounter n 14 1 (incF (.logSts n) Fld.LOG_STS_FIFO_DROPS 1 (setLog n l e)))
  else e

/-! Messages (R375 to R379). -/

/-- TYPE of a payload (R376). -/
def bodyType : Body → Nat
  | .e2eAck .. => 0x01 | .e2eNack .. => 0x02 | .gateUp .. => 0x03 | .gateDown .. => 0x04 | .gateAsk .. => 0x05
  | .endAck .. => 0x06 | .replay .. => 0x07 | .drop .. => 0x08 | .dropAck .. => 0x09 | .rejoin .. => 0x0A
  | .rejoinAck .. => 0x0B | .shardMap .. => 0x0C | .shardMapAck .. => 0x0D | .timeSync .. => 0x0E
  | .timeReply .. => 0x0F | .mcastAck .. => 0x10 | .faultNotice .. => 0x11 | .ask .. => 0x12
  | .stateRead .. => 0x20 | .stateData .. => 0x21 | .stateWrite .. => 0x22 | .stateWriteAck .. => 0x23
  | .subList .. => 0x30 | .rowReq .. => 0x31 | .replicaFetch .. => 0x32 | .prefetchHint .. => 0x33
  | .replicaAction .. => 0x34 | .rowWriteReq .. => 0x35 | .partial_ .. => 0x40 | .row .. => 0x41
  | .reject .. => 0x42 | .writeDone .. => 0x43 | .chainRow .. => 0x50 | .chainEnd .. => 0x51
  | .mcastRow .. => 0x52 | .mcastRemove .. => 0x53 | .token .. => 0x54 | .importRow .. => 0x55
  | .migrateCopy .. => 0x56 | .regWrite .. => 0x60 | .regRead .. => 0x61 | .regData .. => 0x62
  | .dbLine .. => 0x63 | .hostRead .. => 0x64 | .hostData .. => 0x65 | .hostWrite .. => 0x66 | .msi .. => 0x67

/-- The class a TYPE travels in (R376): 0 CONTROL, 1 STATE, 2 REQUEST, 3 RESPONSE, 4 STREAM, 5 HOST. -/
def bodyClass (b : Body) : Nat :=
  let t := bodyType b
  if t < 0x20 then 0 else if t < 0x30 then 1 else if t < 0x40 then 2 else if t < 0x50 then 3
  else if t < 0x60 then 4 else 5

/-- The route entry of a device is valid (R379). -/
def routeValid (d : Nat) (e : Engine) : Bool := getB (.nlRoute d) Fld.NL_ROUTE_VALID e

/-- The member is held as lost (R410). -/
def memberIsLost (d : Nat) (e : Engine) : Bool := decide (bitsOf (getReg .podLost e).toNat d 1 = 1)

/-- A device can be reached: a valid route and not held as lost (R379, R410, R460). -/
def reachable (d : Nat) (e : Engine) : Bool := routeValid d e && !memberIsLost d e

/-- The engine with its links replaced. -/
def setNet (n : Net) (e : Engine) : Engine := { e with net := n }

/-- The item of a multicast (R378): row and VERSION_LO, as REF carries it. -/
def mcastItem (row ver : Nat) : Nat := row * 256 + ver % 256

/-- The CONTROL answer that a message awaits, and what is repeated until it comes (the table "Control repeats" of R378,
GATE_UP aside): TYPE of the answer, its table and item, the device asked, the message repeated. -/
def ctrlAwait (m : Msg) : Option (Nat × Nat × Nat × Nat × Body) :=
  match m.b with
  | .chainEnd step home slice _ _ => some (0x06, slice, step, home, .ask 0x06 slice step)
  | .mcastRow t row _ _ => some (0x10, t, mcastItem row m.h.ref, m.h.dstDev, .ask 0x10 t (mcastItem row m.h.ref))
  | .mcastRemove t row _ => some (0x10, t, mcastItem row m.h.ref, m.h.dstDev, .ask 0x10 t (mcastItem row m.h.ref))
  | .drop t => some (0x09, t, 0, m.h.dstDev, m.b)
  | .rejoin t => some (0x0B, t, 0, m.h.dstDev, m.b)
  | .shardMap t s x _ => some (0x0D, t, s * 256 + bitsOf x.toNat 16 8, m.h.dstDev, m.b)
  | .replay step _ _ _ _ slice chain _ => some (0x51, slice, step * 256 + chain, m.h.dstDev, m.b)
  | .faultNotice .. => some (0, 0, 0, m.h.dstDev, m.b)
  | _ => none

/-- Requests of a task that end with an answer naming the task (R144, R145, R263, R281, R172, R252). -/
def awaitsAnswer (b : Body) : Bool :=
  match b with
  | .subList _ _ _ fl _ _ => fl.last
  | .rowReq .. | .rowWriteReq .. | .token .. | .importRow .. | .replicaAction .. | .migrateCopy .. => true
  | _ => false

/-- Notes what a sent message waits for. -/
def noteSent (m : Msg) (e : Engine) : Engine :=
  let w : List CtrlWait := match ctrlAwait m with
    | some (answer, table, item, peer, b) =>
      [{ peer, answer, table, item, msg := ⟨{ m.h with dstDev := peer }, b⟩, t0 := now e, tLast := now e }]
    | none => []
  let a : List (Nat × Nat) := if awaitsAnswer m.b then [(m.h.ref, m.h.dstDev)] else []
  setNet { e.net with waits := e.net.waits ++ w, awaits := e.net.awaits ++ a } e

/-- The port toward a device: PORT, or ALT_PORT when PORT is down and ALT_EN is 1 (R379); 16 for this device itself, whose
messages cross the fabric and the die-to-die bundles (R366). -/
def portTo (d : Nat) (e : Engine) : Nat :=
  if d = thisDev e then 16
  else
    let p := getF (.nlRoute d) Fld.NL_ROUTE_PORT e
    if getB (.nlRoute d) Fld.NL_ROUTE_ALT_EN e && !getB (.nlPortSts p) Fld.NL_PORT_STS_UP e
    then getF (.nlRoute d) Fld.NL_ROUTE_ALT_PORT e else p

/-- Gives a message to a port. -/
def emit (port : Nat) (m : Msg) (e : Engine) : Engine := setNet { e.net with egress := e.net.egress ++ [(port, m)] } e

/-- Numbers a message and gives it to the ports; a class other than CONTROL holds it until it is acknowledged
(R377). In the fault state only FAULT_NOTICE leaves (R402); nothing is sent to a device that cannot be reached
(R379, R410). -/
def post (m : Msg) (e : Engine) : Engine :=
  let cls := bodyClass m.b
  if (inFault e && decide (bodyType m.b ≠ 0x11)) || (decide (m.h.dstDev ≠ thisDev e) && !reachable m.h.dstDev e) then e
  else if cls = 0 then
    emit (portTo m.h.dstDev e) m (noteSent m e)
  else
    let e := noteSent m e
    let k := (m.h.dstDev, cls)
    let q := tget 0 k e.net.seqOut
    let m := { m with h := { m.h with seq := q } }
    emit (portTo m.h.dstDev e) m (setNet { e.net with
      seqOut := tput k ((q + 1) % 2 ^ 32) e.net.seqOut
      unacked := e.net.unacked ++ [{ msg := m, cls := cls, t0 := now e }] } e)

/-- A header from this device. -/
def hdrTo (dev slice : Nat) (e : Engine) : Hdr :=
  { dstDev := dev, dstSlice := slice, srcDev := thisDev e, srcSlice := 0 }

/-- Sends a payload to a device. -/
def sendMsg (h : Hdr) (b : Body) (e : Engine) : Engine := post ⟨h, b⟩ e

/-- Sends an answer, or discards it with a LINK_LOST record where the requester cannot be reached (R460). -/
def sendAnswer (h : Hdr) (b : Body) (e : Engine) : Engine :=
  if reachable h.dstDev e then sendMsg h b e
  else logEvent { cluster := 6, slice := h.srcSlice, typ := 0x42, peer := h.dstDev, code := bodyClass b } e

/-! Memories. -/

/-- The engine with its memories replaced. -/
def setMem (m : Mems) (e : Engine) : Engine := { e with mem := m }

/-- Bytes of host memory. -/
def hostRead (a n : Nat) (e : Engine) : List Byte := memRead a n e.mem.host

/-- A number held in host memory (R5). -/
def hostNat (a n : Nat) (e : Engine) : Nat := memNat a n e.mem.host

/-- Bytes stored to host memory. A device behind the head stores them by HOST_WRITE through the head (R59); its own
view of host memory holds them at once (DESIGN CHOICE, notes/assumptions/4.md). -/
def hostWrite (a : Nat) (bs : List Byte) (e : Engine) : Engine :=
  let e := setMem { e.mem with host := memWrite a bs e.mem.host } e
  if thisDev e = 0 then e else sendMsg (hdrTo 0 0 e) (.hostWrite a bs) e

/-- The spaces of an engine address (R286). -/
def eaSpace (a : Nat) : Nat := bitsOf a 62 2

/-- An engine address that obeys R286. -/
def eaValid (a : Nat) : Bool :=
  match eaSpace a with
  | 0 => decide (bitsOf a 57 5 = 0)
  | 1 => decide (bitsOf a 39 23 = 0)
  | 2 => decide (bitsOf a 29 33 = 0)
  | _ => false

/-- The address inside its space. -/
def eaAddr (a : Nat) : Nat := bitsOf a 0 62

/-- Bytes at an engine address. -/
def eaRead (a n : Nat) (e : Engine) : List Byte :=
  match eaSpace a with
  | 0 => memRead (eaAddr a) n e.mem.host
  | 1 => memRead (eaAddr a) n e.mem.hbm
  | _ => memRead (eaAddr a) n e.mem.llm

/-- A number at an engine address. -/
def eaNat (a n : Nat) (e : Engine) : Nat := ofBytes (eaRead a n e)

/-- HBM sectors that a plain write touches get the check of their new data, VERSION_LO kept (R69, R70). -/
def resideSectors (first count : Nat) (m : Mems) : Mems :=
  (List.range count).foldl (fun m i =>
    let s := first + i
    let v : Byte := (tget 0 s m.hbmSide).extractLsb' 24 8
    { m with hbmSide := tput s (sideBits (memRead (32 * s) 32 m.hbm) v (32 * s)) m.hbmSide }) m

/-- Bytes stored at an engine address. -/
def eaWrite (a : Nat) (bs : List Byte) (e : Engine) : Engine :=
  match eaSpace a with
  | 0 => hostWrite (eaAddr a) bs e
  | 1 =>
    let m := { e.mem with hbm := memWrite (eaAddr a) bs e.mem.hbm }
    let first := eaAddr a / 32
    let last := (eaAddr a + bs.length + 31) / 32
    setMem (if bs.isEmpty then m else resideSectors first (last - first) m) e
  | _ => setMem { e.mem with llm := memWrite (eaAddr a) bs e.mem.llm } e

/-- The LLM address of an offset on a die as an engine address. -/
def llmAddr (die off : Nat) : Nat := 2 * 2 ^ 62 + die * 2 ^ 27 + off

/-! Numbers for requests. -/

/-- Takes the next number. -/
def takeId (e : Engine) : Nat × Engine := (e.nextId, { e with nextId := e.nextId + 1 })

/-- A left fold of an engine operation over a list. -/
def forEach {α : Type} (xs : List α) (f : α → Engine → Engine) (e : Engine) : Engine :=
  xs.foldl (fun e x => f x e) e

/-! Interrupt messages (R61). -/

/-- An MSI-X message: the head writes it; another device sends it to the head (R59, R61). -/
def writeMsix (v : Nat) (e : Engine) : Engine :=
  if thisDev e = 0 then { e with front := { e.front with msix := e.front.msix ++ [v] } }
  else sendMsg (hdrTo 0 0 e) (.msi v) e

/-! The fault state and lost members (R402, R410). -/

/-- Sends FAULT_NOTICE to every device whose route entry is valid (R402). -/
def faultNotices (cause slice : Nat) (e : Engine) : Engine :=
  forEach (List.range 64) (fun d e =>
    if routeValid d e && decide (d ≠ thisDev e) then
      sendMsg { hdrTo d 0 e with arg := cause + slice * 256 } (.faultNotice cause slice) e
    else e) e

/-- Bytes at an engine address end within their memory (R343). -/
def eaFits (a n : Nat) : Bool :=
  match eaSpace a with
  | 0 => decide (eaAddr a + n ≤ 2 ^ 57)
  | 1 => decide (eaAddr a + n ≤ 2 ^ 39)
  | _ => decide (a % 2 ^ 27 + n ≤ 2 ^ 27)

/-- What a block-list entry says. -/
inductive Entry where
  | data (addr len : Nat)
  | link (addr : Nat)
  | dep (addr target : Nat)
  | fin
  | bad
  deriving DecidableEq, Repr

/-- Reads one block-list entry (R287) with the checks of R286 and R288. -/
def readEntry (a : Nat) (e : Engine) : Entry :=
  let v := eaNat a 16 e
  let addr := bitsOf v 0 64
  let len := bitsOf v 64 32
  let typ := bitsOf v 96 4
  if bitsOf v 100 28 ≠ 0 then .bad
  else match typ with
    | 0 => if eaValid addr && decide (addr % 4 = 0) && decide (len % 4 = 0) && decide (4 ≤ len) then .data addr len else .bad
    | 1 => if eaValid addr && decide (addr % 64 = 0) && decide (len = 0) then .link addr else .bad
    | 2 => if eaValid addr && decide (addr % 4 = 0) then .dep addr len else .bad
    | 3 => if decide (addr = 0) && decide (len = 0) then .fin else .bad
    | _ => .bad

/-- The segments of `len` bytes from byte `off` of a block list, as far as its entries go. -/
def restSegs (e : Engine) : Nat → Nat → Nat → Nat → Nat → List (Nat × Nat)
  | 0, _, _, _, _ => []
  | fuel + 1, cur, links, off, len =>
    if len = 0 then []
    else match readEntry cur e with
      | .bad => []
      | .fin => []
      | .link a => if links + 1 ≥ 64 then [] else restSegs e fuel a (links + 1) off len
      | .dep _ _ => restSegs e fuel (cur + 16) 0 off len
      | .data a n =>
        if n ≤ off then restSegs e fuel (cur + 16) 0 (off - n) len
        else
          let k := min (n - off) len
          (a + off, k) :: restSegs e fuel (cur + 16) 0 0 (len - k)

/-- The output locations of a job from item `lead` up. A PAGE_GATHER has rows in place of units, and the number of all of
them is not known before its last session: its stream is taken to the end. -/
def outsFrom (lead : Nat) (j : Job) (e : Engine) : List (Nat × Nat) :=
  let page := decide (j.opcode = 0x03)
  let rows := j.aux.getD 1 0
  let first := if page then j.starts.getD lead rows else lead
  (j.outs.map (fun o =>
    if 2 ^ 64 ≤ o.1 then
      [(o.1 - 2 ^ 64 + o.2 * first, o.2 * ((if page then rows else j.total) - first))]
    else restSegs e 65536 o.1 0 (o.2 * first) (if page then 2 ^ 62 else o.2 * (j.total - first)))).flatten

/-- Free values in memory. -/
def spoil (s : Nat × Nat) (e : Engine) : Engine :=
  if eaFits s.1 s.2 then
    let w := takeFreeBytes s.2 e
    eaWrite s.1 w.1 w.2
  else e

/-- The outputs of the tasks in flight are undefined in the fault state (R402). -/
def spoilAll (e : Engine) : Engine := forEach e.jobs (fun j e => forEach (outsFrom 0 j e) spoil e) e

/-- Enters the fault state (R402, R403): the first cause is recorded, SHD_FAULT_N goes low, a FAULT record and the
notices leave; the tasks in flight do not complete. In the fault state already, nothing changes. -/
def enterFault (cause slice : Nat) (latent injected : Bool) (e : Engine) : Engine :=
  if inFault e then e
  else
    let e := setF .faultSts Fld.FAULT_STS_CAUSE cause e
    let e := setF .faultSts Fld.FAULT_STS_CAUSE_SLICE slice e
    let e := setF .faultSts Fld.FAULT_STS_LATENT (b2n latent) e
    let e := logEvent { cluster := 7, slice := slice, typ := 0x15, ref := slice, code := cause, arg := b2n latent, injected } e
    let e := faultNotices cause slice e
    let e := if getB .safeCfg Fld.SAFE_CFG_FAULT_INT_EN e
      then writeMsix (getF .safeCfg Fld.SAFE_CFG_FAULT_VECTOR e) e else e
    spoilAll (driveAlert { setF .faultSts Fld.FAULT_STS_FAULT 1 e with pinFault := .low, pinAlive := .low })

/-- Consumes an injected fault armed for a check and slice (R412): whether one was armed. -/
def takeInjection (code slice : Nat) (e : Engine) : Bool × Engine :=
  let global := decide (code = 0x0A) || decide (code = 0x13) || decide (code = 0x14)
  if getB .safeInject Fld.SAFE_INJECT_ARM e && decide (getF .safeInject Fld.SAFE_INJECT_TARGET e = code) &&
     (global || decide (getF .safeInject Fld.SAFE_INJECT_SLICE e = slice)) then
    (true, setF .safeInject Fld.SAFE_INJECT_ARM 0 e)
  else (false, e)

/-- The slice counter of a check (R422), if one counts it. -/
def checkCounter (code : Nat) : Option Nat :=
  match code with
  | 0x01 | 0x02 => some 5
  | 0x03 => some 6
  | 0x05 => some 7
  | 0x04 | 0x10 | 0x11 => some 8
  | 0x06 | 0x07 | 0x08 | 0x09 => some 9
  | 0x0B => some 12
  | _ => none

/-- A detection (R391, R417, R422): the counters of the slice advance, and an INTEGRITY record is formed with its one
detail word, whose layout the manual does not give: a free value. A moment reset (source 4) and source 7 have no source. -/
def logIntegrity (cluster slice code ref source : Nat) (injected : Bool) (e : Engine) : Engine :=
  let e := match checkCounter code with | some c => addCounter slice c 1 e | none => e
  let e := addCounter slice (if source = 4 ∨ source = 7 then 11 else 10) 1 e
  let f := takeFree e
  logEvent { cluster, slice, typ := 0x10, ref, code, arg := source, injected, details := [f.1.zeroExtend 128] } f.2

end Sys2Proof.Machine
end

