-- ==== Sys2Proof/Machine/Flags.lean ====
section
/-! DEFINITION. Status codes, DETAIL codes and completion flags (R51, R52 and the DETAIL tables of every chapter),
and the bits of a completion record (R46, R48). -/

namespace Sys2Proof.Machine

/-! STATUS (R51). -/
def stDone : Nat := 0x01
def stRecomputed : Nat := 0x02
def stSkipped : Nat := 0x04
def stCancelled : Nat := 0x10
def stBadDesc : Nat := 0x20
def stBadTable : Nat := 0x21
def stAddrFault : Nat := 0x30
def stDataLost : Nat := 0x40
def stWatchdog : Nat := 0x50
def stPrivilege : Nat := 0x60
def stAborted : Nat := 0x70

/-! Completion flags (R52), as bits. -/
def flClip : Nat := 1
def flTileSat : Nat := 2
def flDefault : Nat := 4
def flRecomputed : Nat := 8
def flBypass : Nat := 16
def flParked : Nat := 32

/-- The OR of completion flags. -/
def orFlags (a b : Nat) : Nat := Nat.lor a b

/-- A flag is set. -/
def hasFlag (fl bit : Nat) : Bool := decide (Nat.land fl bit ≠ 0)

/-- A failed status: 0x10 or above (R55, R61). -/
def statusFailed (st : Nat) : Bool := decide (0x10 ≤ st)

/-- The status of a task that completed all items (R53). -/
def doneStatus (flags : Nat) : Nat := if hasFlag flags flRecomputed then stRecomputed else stDone

/-- CLIP_EXCEEDED (R106): the threshold is not 0, something was quantised, and the ratio is above it. -/
def clipExceeded (thresh quantised clipped : Nat) : Bool :=
  decide (thresh ≠ 0) && decide (quantised > 0) && decide (clipped * 65536 > thresh * quantised)

/-- PHASE(n) (R48). -/
def phaseOf (log2Size : Nat) (pos : BitVec 32) : Nat := (bitsOf pos.toNat log2Size 1 + 1) % 2

/-- The 32 bytes of a completion record (R46). -/
def recordBytes (phase status detail flags : Nat) (seq : BitVec 32) (items clipped quantised tag : Nat) : List Byte :=
  toBytes 8 (phase + status % 256 * 2 ^ 8 + detail % 256 * 2 ^ 16 + flags % 256 * 2 ^ 24 + seq.toNat * 2 ^ 32)
  ++ toBytes 8 items ++ toBytes 8 (min clipped (2 ^ 32 - 1) + min quantised (2 ^ 32 - 1) * 2 ^ 32) ++ toBytes 8 tag

/-- Comparison of step numbers: a is above b (07, "Steps"). -/
def stepAbove (a b : Nat) : Bool :=
  let d := (a + 2 ^ 32 - b % 2 ^ 32) % 2 ^ 32
  decide (1 ≤ d) && decide (d < 2 ^ 31)

/-- a is below b. -/
def stepBelow (a b : Nat) : Bool := decide (2 ^ 31 ≤ (a + 2 ^ 32 - b % 2 ^ 32) % 2 ^ 32)

end Sys2Proof.Machine
end

