-- ==== Sys2Proof/Machine/Operands.lean ====
section
/-! DEFINITION. The operand forms of the commands: descriptor quadwords, table contexts, index mapping and
placement, ring contexts (02_rings_and_descriptors.md, 03_table_contexts.md). -/

namespace Sys2Proof.Machine

/-- Bits of a quadword of a descriptor (R38). -/
def dq (d : BitVec 512) (q lo w : Nat) : Nat := bitsOf d.toNat (64 * q + lo) w

def dOpcode (d : BitVec 512) : Nat := dq d 0 0 8
def dFenceBefore (d : BitVec 512) : Bool := decide (dq d 0 8 1 = 1)
def dCompleteInt (d : BitVec 512) : Bool := decide (dq d 0 9 1 = 1)
def dPersist (d : BitVec 512) : Bool := decide (dq d 0 10 1 = 1)
def dStepMember (d : BitVec 512) : Bool := decide (dq d 0 11 1 = 1)
def dPrecise (d : BitVec 512) : Bool := decide (dq d 0 12 1 = 1)
def dReadWide (d : BitVec 512) : Bool := decide (dq d 0 13 1 = 1)
def dTable (d : BitVec 512) : Nat := dq d 0 16 12
def dClass (d : BitVec 512) : Nat := dq d 0 28 4
def dSeq (d : BitVec 512) : Nat := dq d 0 32 32
def dTag (d : BitVec 512) : Nat := dq d 7 0 64
/-- A block-list field: bits [63:6] of an engine address. -/
def dBl (d : BitVec 512) (q : Nat) : Nat := dq d q 6 58 * 64
/-- A field that holds bits [63:3] of an engine address. -/
def dAddr3 (d : BitVec 512) (q : Nat) : Nat := dq d q 3 61 * 8

/-- The opcodes: code, uses TABLE_ID, minimum privilege (R39). -/
def opcodes : List (Nat × Bool × Nat) :=
  [(0x01, true, 0), (0x02, true, 0), (0x03, true, 0), (0x04, true, 0), (0x05, true, 0), (0x08, true, 0),
   (0x09, false, 0), (0x0A, false, 0), (0x10, true, 1), (0x11, true, 0), (0x12, true, 1)] ++
  [(0x13, true, 1), (0x14, true, 1), (0x15, true, 1), (0x18, true, 1), (0x19, false, 1), (0x1A, false, 1),
   (0x1C, false, 0), (0x1E, false, 0), (0x1F, false, 0), (0x20, false, 0)]

/-- The order of privilege: U 0b00, S 0b01, M 0b11 (R39); 0b10 is invalid. -/
def privRank (p : Nat) : Nat := if p = 3 then 2 else p

/-! Table contexts (R63). -/

/-- Bits of a quadword of a context image. -/
def cq (i : BitVec 1024) (q lo w : Nat) : Nat := bitsOf i.toNat (64 * q + lo) w

def cRows (i : BitVec 1024) : Nat := cq i 0 0 40
def cFormat (i : BitVec 1024) : Nat := cq i 0 40 8
def cHash (i : BitVec 1024) : Nat := cq i 0 48 3
def cInterleave (i : BitVec 1024) : Bool := decide (cq i 0 51 1 = 1)
def cDense (i : BitVec 1024) : Bool := decide (cq i 0 52 1 = 1)
def cDefKind (i : BitVec 1024) : Nat := cq i 0 53 1
def cExclDefault (i : BitVec 1024) : Bool := decide (cq i 0 54 1 = 1)
def cCyclic (i : BitVec 1024) : Bool := decide (cq i 0 55 1 = 1)
def cWidth (i : BitVec 1024) : Nat := cq i 1 0 13
def cSectors (i : BitVec 1024) : Nat := cq i 1 16 10
def cShards (i : BitVec 1024) : Nat := cq i 1 32 9
def cShardFirst (i : BitVec 1024) : Nat := cq i 1 48 14
def cShardRows (i : BitVec 1024) : Nat := cq i 2 0 40
def cGroup (i : BitVec 1024) : Nat := cq i 2 40 8
/-- OUTLIER_COUNT; it takes no part where FORMAT has no row scale (R109). -/
def cOutliers (i : BitVec 1024) : Nat := if fmtScaled (cFormat i) then cq i 2 48 5 else 0
def cLimit (i : BitVec 1024) : Nat := cq i 3 0 64
def cHashKey (i : BitVec 1024) : Nat := cq i 4 0 64
def cComposeM (i : BitVec 1024) : Nat := cq i 4 0 40
def cSubA (i : BitVec 1024) : Nat := cq i 4 40 12
def cSubB (i : BitVec 1024) : Nat := cq i 4 52 12
def cDefRow (i : BitVec 1024) : Nat := cq i 5 0 40
def cClipThresh (i : BitVec 1024) : Nat := cq i 5 40 16
def cRule (i : BitVec 1024) : Nat := cq i 6 0 4
def cClipMode (i : BitVec 1024) : Nat := cq i 6 4 2
def cOptSet (i : BitVec 1024) : Nat := cq i 6 8 8
def cTier (i : BitVec 1024) : Nat := cq i 7 0 2
def cStateBase (i : BitVec 1024) : Nat := cq i 7 12 52 * 4096
def cStateStride (i : BitVec 1024) : Nat := cq i 8 0 32
def cPraline (i : BitVec 1024) : Nat := cq i 9 0 37
def cOutlierOff (i : BitVec 1024) : Nat := cq i 10 0 37
def cRescale (i : BitVec 1024) : Nat := cq i 11 0 64
def cGen (i : BitVec 1024) : Nat := cq i 12 0 32
def cDomain (i : BitVec 1024) : Nat := cq i 12 32 8
def cPriv (i : BitVec 1024) : Nat := cq i 12 40 2
/-- A composed context (R76). -/
def cComposed (i : BitVec 1024) : Bool := decide (cHash i = 3) || decide (cHash i = 4)
/-- Tiles of a bag (R15). -/
def cTilesPerBag (w : Nat) : Nat := ceilDiv w 64

/-- The context slot of a number. -/
def slotOf (n : Nat) (e : Engine) : CtxSlot := tget {} n e.ctxs

/-- The engine with a context slot replaced. -/
def setSlot (n : Nat) (c : CtxSlot) (e : Engine) : Engine := { e with ctxs := tput n c e.ctxs }

/-- The image of a slot. -/
def imgOf (n : Nat) (e : Engine) : BitVec 1024 := (slotOf n e).img

/-! Shard-map entries (R81). -/

def seDevice (x : BitVec 64) : Nat := bitsOf x.toNat 0 6
def seAll (x : BitVec 64) : Bool := decide (bitsOf x.toNat 6 1 = 1)
def seSlice (x : BitVec 64) : Nat := bitsOf x.toNat 8 2
def seEpoch (x : BitVec 64) : Nat := bitsOf x.toNat 16 8
def seBase (x : BitVec 64) : Nat := bitsOf x.toNat 24 25 * 4096

/-- The shard-map entry at an index of the store; 0 where it is free. -/
def shardEntry (k : Nat) (e : Engine) : BitVec 64 := (tget ⟨4096, 0⟩ k e.shards).entry

/-- Where a row lies (R82). -/
structure Place where
  shard   : Nat
  device  : Nat
  slice   : Nat
  base    : Nat
  rLocal  : Nat
  inSlice : Nat
  epoch   : Nat
  all     : Bool
  deriving DecidableEq, Repr

/-- place(ctx, r) (R82) for a row of a slot's table. -/
def place (slot row : Nat) (e : Engine) : Place :=
  let i := imgOf slot e
  let s := if cCyclic i then row % cShards i else row / cShardRows i
  let rl := if cCyclic i then row / cShards i else row % cShardRows i
  let x := shardEntry (cShardFirst i + s) e
  { shard := s
    device := if seAll x then thisDev e else seDevice x
    slice := if cInterleave i then rl % 4 else seSlice x
    base := seBase x
    rLocal := rl
    inSlice := if cInterleave i then rl / 4 else rl
    epoch := seEpoch x
    all := seAll x }

/-- The device HBM address of a row (R82). -/
def rowAddr (slot : Nat) (p : Place) (e : Engine) : Nat :=
  p.slice * 2 ^ 37 + p.base + p.inSlice * cSectors (imgOf slot e) * 32

/-! From index to row (R74, R77, R79). -/

/-- What an index maps to. -/
inductive Mapped where
  | row (slot r : Nat) (dflt : Bool)  -- a physical row; `dflt`: it is a default hit on a learned row
  | zero                              -- a default hit on the zero row
  deriving DecidableEq, Repr

/-- The default row of a table (R79). -/
def defaultOf (slot : Nat) (e : Engine) : Mapped :=
  let i := imgOf slot e
  if cDefKind i = 1 then .row slot (cDefRow i) true else .zero

/-- The hash of a valid index in a table that is not composed (R74). -/
def hashRow (i : BitVec 1024) (x : Nat) : Nat :=
  match cHash i with
  | 0 => x
  | 1 => x % cRows i
  | _ =>
    let h1 := x * cHashKey i % 2 ^ 64
    let h2 := Nat.xor h1 (h1 / 2 ^ 31)
    h2 * cRows i / 2 ^ 64

/-- An index is invalid (R74). -/
def indexInvalid (i : BitVec 1024) (x : Nat) : Bool := decide (cLimit i ≤ x) || decide (x = 2 ^ 64 - 1)

/-- map_index for a table that is not composed (R74). -/
def mapIndex (slot x : Nat) (e : Engine) : Mapped :=
  let i := imgOf slot e
  if indexInvalid i x then defaultOf slot e else .row slot (hashRow i x) false

/-- map_index for a composed table: the two halves, or none for an index invalid in it (R77). -/
def mapPair (slot x : Nat) (e : Engine) : Option (Mapped × Mapped) :=
  let i := imgOf slot e
  if indexInvalid i x then none
  else some (mapIndex (cSubA i) (x / cComposeM i) e, mapIndex (cSubB i) (x % cComposeM i) e)

/-- The index was a default hit. -/
def Mapped.isDefault : Mapped → Bool
  | .row _ _ d => d
  | .zero => true

/-! Ring contexts (R26). -/

/-- A ring context read from its 64 bytes. -/
def parseRingCtx (v : Nat) : RingCtx :=
  { descBase := BitVec.ofNat 64 (bitsOf v 0 64), cplBase := BitVec.ofNat 64 (bitsOf v 64 64)
    log2Size := bitsOf v 128 5, dbLine := bitsOf v 136 6, dbSlot := bitsOf v 144 4
    priv := bitsOf v 148 2, domain := bitsOf v 152 8
    intVector := bitsOf v 192 11, intEnable := decide (bitsOf v 203 1 = 1)
    intCount := bitsOf v 208 16, intDelay := bitsOf v 224 16
    startPos := BitVec.ofNat 32 (bitsOf v 256 32), maxInflight := bitsOf v 288 7 }

/-- The reserved bits of QW0 to QW6 are zero (R6, R26). -/
def ringCtxReserved (v : Nat) : Bool :=
  decide (bitsOf v 133 3 = 0) && decide (bitsOf v 142 2 = 0) && decide (bitsOf v 150 2 = 0) &&
  decide (bitsOf v 160 32 = 0) && decide (bitsOf v 204 4 = 0) && decide (bitsOf v 240 16 = 0) &&
  decide (bitsOf v 295 25 = 0) && decide (bitsOf v 320 128 = 0)

/-- The checks of step 4 of R30. -/
def ringCtxOk (v : Nat) : Bool :=
  ringCtxReserved v && decide (6 ≤ bitsOf v 128 5) && decide (bitsOf v 128 5 ≤ 16) &&
  decide (bitsOf v 0 12 = 0) && decide (bitsOf v 64 12 = 0) && decide (bitsOf v 148 2 ≠ 2) &&
  decide (1 ≤ bitsOf v 288 7) && decide (bitsOf v 288 7 ≤ 64)

/-- The code of a ring state (02, table "Ring states"). -/
def RingState.code : RingState → Nat
  | .stopped => 0 | .running => 1 | .draining => 2 | .halted => 3 | .error => 4 | .aborting => 5

end Sys2Proof.Machine
end

