-- ==== Sys2Proof/Machine/Tasks.lean ====
section
/-! DEFINITION. Tasks in flight and the stream slots that serve them: how a task ends, and the bulk transfers of
its slot (02 R46 to R53; 10_streams_and_buffers.md R286 to R305). -/

namespace Sys2Proof.Machine

/-! Tasks. -/

/-- The reference of a task as a message carries it (TASK_REF). -/
def refNum : TaskRef → Nat
  | .sring => 0
  | .ring r p => 1 + 3 * (r * 2 ^ 32 + p.toNat)
  | .near i => 2 + 3 * i

/-- The task a TASK_REF names. -/
def refOf (n : Nat) : TaskRef :=
  if n = 0 then .sring
  else if n % 3 = 1 then .ring (n / 3 / 2 ^ 32) (BitVec.ofNat 32 (n / 3))
  else .near (n / 3)

/-- The task of a reference. -/
def findTask (r : TaskRef) (e : Engine) : Option Task := e.tasks.find? (fun t => decide (t.ref = r))

/-- The engine with one task changed. -/
def updTask (r : TaskRef) (f : Task → Task) (e : Engine) : Engine :=
  { e with tasks := e.tasks.map (fun t => if t.ref = r then f t else t) }

/-- The engine without a task. -/
def delTask (r : TaskRef) (e : Engine) : Engine :=
  { e with tasks := e.tasks.filter (fun t => decide (t.ref ≠ r)) }

/-- The job of a reference. -/
def findJob (r : TaskRef) (e : Engine) : Option Job := e.jobs.find? (fun j => decide (j.ref = r))

/-- The engine with one job changed. -/
def updJob (r : TaskRef) (f : Job → Job) (e : Engine) : Engine :=
  { e with jobs := e.jobs.map (fun j => if j.ref = r then f j else j) }

/-- The engine without a job. -/
def delJob (r : TaskRef) (e : Engine) : Engine :=
  { e with jobs := e.jobs.filter (fun j => decide (j.ref ≠ r)) }

/-- Raises step flags of step `k` (R203): of the open step or of the closing step. -/
def raiseStep (k bits : Nat) (e : Engine) : Engine :=
  let g := e.grad
  match g.closing with
  | some c =>
    if c.step = k then { e with grad := { g with flagsClosing := orFlags g.flagsClosing bits } }
    else { e with grad := { g with flagsOpen := orFlags g.flagsOpen bits } }
  | none => { e with grad := { g with flagsOpen := orFlags g.flagsOpen bits } }

def sfNonfinite : Nat := 1
def sfAbsurd : Nat := 2
def sfCapacity : Nat := 4
def sfLost : Nat := 8
def sfVeto : Nat := 16
def sfTimeout : Nat := 32
def sfConfig : Nat := 64

/-- DATA_LOST of a step member raises LOST (R187, R203). -/
def stepLoss (t : Task) (status : Nat) (e : Engine) : Engine :=
  let op := dOpcode t.desc
  let member := decide (op = 0x01) || decide (op = 0x02) || decide (op = 0x05) || decide (op = 0x08)
  if dStepMember t.desc && member && decide (status = stDataLost) then raiseStep t.step sfLost e else e

/-- A run-time fault of a GRAD_SCATTER raises LOST (R194). -/
def scatterLoss (t : Task) (e : Engine) : Engine :=
  if dOpcode t.desc = 0x08 then raiseStep t.step sfLost e else e

/-- CLIP_EXCEEDED of a task's counts, as a flag (R106). -/
def clipFlag (t : Task) (quantised clipped : Nat) (e : Engine) : Nat :=
  let thresh := match opcodes.lookup (dOpcode t.desc) with
    | some (true, _) => cClipThresh (imgOf (dTable t.desc) e)
    | _ => 0
  if clipExceeded thresh (min quantised (2 ^ 32 - 1)) (min clipped (2 ^ 32 - 1)) then flClip else 0

/-- A task's outcome stands and all of its outputs are visible (R46, R51, R52); the first outcome stays. -/
def finishTask (r : TaskRef) (status detail flags items clipped quantised : Nat) (e : Engine) : Engine :=
  match findTask r e with
  | none => e
  | some t =>
    if t.phase = .ended then e
    else
      stepLoss t status (updTask r (fun t => { t with
        phase := .ended, status, detail, flags := orFlags flags (clipFlag t quantised clipped e), items, clipped, quantised }) e)

/-! Buffers and transfers (R289, R292). -/

/-- Free buffers of a queue. -/
def freeBufs (n q : Nat) (e : Engine) : Nat := getF (.slcQueueSts n) (Fld.SLC_QUEUE_STS_FREE q) e

/-- Takes buffers of a queue. -/
def takeBufs (n q k : Nat) (e : Engine) : Engine :=
  setF (.slcQueueSts n) (Fld.SLC_QUEUE_STS_FREE q) (freeBufs n q e - k) e

/-- Returns buffers to a queue, never above its depth. -/
def giveBufs (n q k : Nat) (e : Engine) : Engine :=
  setF (.slcQueueSts n) (Fld.SLC_QUEUE_STS_FREE q)
    (min (getF (.slcStreamCfg n) (Fld.SLC_STREAM_CFG_DEPTH q) e) (freeBufs n q e + k)) e

/-- One bit of a mask field set or cleared. -/
def setBit (r : Reg) (f : Field) (n : Nat) (b : Bool) (e : Engine) : Engine :=
  let v := getF r f e
  let v' := if b then Nat.lor v (2 ^ n) else v - Nat.land v (2 ^ n)
  setF r f v' e

/-- The transfers of a job that are issued. -/
def issuedCount (j : Job) : Nat := (j.xfers.filter (·.issued)).length

/-- A transfer writes. -/
def isWrite (x : Xfer) : Bool := match x.kind with | .listRead _ => false | .residual _ => false | _ => true

/-- Issues waiting transfers of a job while fewer than six are in flight and buffers allow; the last two buffers of
a queue serve writes only (R289, R292). -/
def issueXfers (r : TaskRef) (e : Engine) : Engine :=
  match findJob r e with
  | none => e
  | some j =>
    forEach (j.xfers.filter (fun x => !x.issued)) (fun x e =>
      match findJob r e with
      | none => e
      | some j =>
        let free := freeBufs j.slice j.queue e
        let room := if isWrite x then decide (x.bufs ≤ free) else decide (x.bufs + 2 ≤ free)
        if issuedCount j < 6 && room then
          takeBufs j.slice j.queue x.bufs
            (updJob r (fun j => { j with
              xfers := j.xfers.map (fun y => if y.id = x.id then { y with issued := true } else y) }) e)
        else e) e

/-- A near-path instruction; it uses no buffer handles of a queue (DEDUCED, notes/assumptions/30.md). -/
def isNear : TaskRef → Bool
  | .near _ => true
  | _ => false

/-- Adds a transfer to a job; a near-path instruction takes no buffer of a queue. -/
def addXfer (r : TaskRef) (kind : XKind) (addr len : Nat) (bytes : List Byte) (e : Engine) : Engine :=
  let i := takeId e
  updJob r (fun j => { j with
    xfers := j.xfers ++ [{ id := i.1, kind, addr, len, bytes, bufs := if isNear r then 0 else ceilDiv len 4096 }] }) i.2

/-- Releases the slot and the buffers of a job (R304 step 3). -/
def releaseSlot (j : Job) (e : Engine) : Engine :=
  let held := ((j.xfers.filter (·.issued)).map (·.bufs)).foldl (· + ·) 0
  let e := giveBufs j.slice j.queue held e
  match j.slot with
  | none => e
  | some s =>
    -- a MIGRATE holds its slot on every slice of its shard (R272), which its `aux` lists
    forEach (if j.opcode = 0x12 then j.aux else [j.slice]) (fun n e =>
      let e := setBit (.slcStreamSts n) Fld.SLC_STREAM_STS_SLOT_BUSY s false e
      let e := setBit (.slcStreamSts n) Fld.SLC_STREAM_STS_SLOT_DEP s false e
      setBit (.slcStreamSts n) Fld.SLC_STREAM_STS_SLOT_PERSIST s false e) e

/-- Drops everything a job holds: its row requests are answered to no one (R304 steps 1 to 4). -/
def dropJob (j : Job) (e : Engine) : Engine :=
  let e := releaseSlot j e
  let mine (u : RowUse) : Bool := match u with
    | .bag r .. => decide (r = j.ref)
    | .pair r .. => decide (r = j.ref)
    | .item r _ => decide (r = j.ref)
    | .grad r .. => decide (r = j.ref)
    | .migrate r _ => decide (r = j.ref)
    | _ => false
  delJob j.ref { e with
    rowReqs := e.rowReqs.filter (fun q => !mine q.use)
    net := { e.net with awaits := e.net.awaits.filter (fun a => decide (a.1 ≠ refNum j.ref)) }
    hot := { e.hot with migs := e.hot.migs.filter (fun m => decide (m.ref ≠ j.ref) || decide (m.phase = .forward)) } }

/-- ITEMS of a job whose leading `k` units are visible (R46). -/
def itemsOf (j : Job) (k : Nat) : Nat :=
  if j.unit = 1 then k else min (k * j.unit) j.count

/-- Completes the REARM that started a round with the outcome of the round (R299, R300). -/
def finishRearm (j : Job) (status detail flags items : Nat) (e : Engine) : Engine :=
  match j.rearm with
  | none => e
  | some q => finishTask q status detail flags items j.clipped j.quantised e

/-- Every REARM that still waits on a task that ended is CANCELLED (R300). -/
def cancelRearms (r : TaskRef) (e : Engine) : Engine :=
  match findJob r e with
  | none => e
  | some j =>
    let waiting := e.tasks.filter (fun t =>
      decide (dOpcode t.desc = 0x1C) && decide (t.phase = .running) && decide (some t.ref ≠ j.rearm) &&
      decide (dq t.desc 1 4 2 = j.slice) && decide (some (dq t.desc 1 0 4) = j.slot) && (findJob t.ref e).isNone)
    forEach waiting (fun t e => finishTask t.ref stCancelled 0 0 0 0 0 e) e

/-! Block lists (R287, R288). -/

/-- The dependence word satisfies R294. -/
def depMet (addr target : Nat) (e : Engine) : Bool :=
  decide ((eaNat addr 4 e + 2 ^ 32 - target % 2 ^ 32) % 2 ^ 32 < 2 ^ 31)

/-! Undefined outputs. -/

/-- The outputs of an item of a job are undefined (R19, R116, R156, R161, R167, R293). -/
def undefOut (j : Job) (item : Nat) (e : Engine) : Bool :=
  j.undef.contains item || (match findTask j.ref e with | some t => t.undef | none => false)

/-- The output locations of the items that a job's ITEMS do not count (R46). -/
def restOuts (j : Job) (e : Engine) : List (Nat × Nat) := outsFrom j.lead j e

/-- The output locations of a job beyond its ITEMS hold undefined contents once it has ended in a fault (R46, R304). -/
def spoilRest (j : Job) (e : Engine) : Engine := forEach (restOuts j e) spoil e

/-- Ends a job whose fault stands once its transfers in flight are done (R304): slot and buffers return, and the
outcome stands with the leading items, the outputs beyond them undefined (R46). A persistent task's items are the sum over its rounds (R300). -/
def settleFault (r : TaskRef) (e : Engine) : Engine :=
  match findJob r e with
  | none => e
  | some j =>
    match j.fault with
    | none => e
    | some (st, dt) =>
      if issuedCount j ≠ 0 then e
      else
        let prior := match findTask r e with | some t => t | none => { ref := r }
        let e := cancelRearms r (scatterLoss prior e)
        let fl := orFlags (orFlags prior.flags j.flags)
          (clipFlag prior (prior.quantised + j.quantised) (prior.clipped + j.clipped) e)
        let e := dropJob j (finishRearm j st dt fl (itemsOf j j.lead) e)
        spoilRest j (finishTask r st dt (orFlags prior.flags j.flags) (j.sumItems + itemsOf j j.lead)
          (prior.clipped + j.clipped) (prior.quantised + j.quantised) e)

/-- A mid-stream fault of a task (R304): the first stands; its waiting transfers are dropped. -/
def failTask (r : TaskRef) (st dt : Nat) (e : Engine) : Engine :=
  match findJob r e with
  | none =>
    match findTask r e with
    | none => e
    | some t => if t.phase = .ended then e else finishTask r st dt t.flags t.items t.clipped t.quantised e
  | some j =>
    -- after its switch a migration cannot fail (R277); an ABORT ends the task all the same (R32)
    if j.fault.isSome || (decide (st ≠ stAborted) && e.hot.migs.any (fun m => decide (m.ref = r) && decide (m.phase = .forward)))
    then e
    else settleFault r (updJob r (fun j => { j with fault := some (st, dt), xfers := j.xfers.filter (·.issued) }) e)

/-- Notes progress of a job (R306). -/
def progress (r : TaskRef) (e : Engine) : Engine := updJob r (fun j => { j with prog := now e }) e

/-- Adds completion flags to a job. -/
def flagJob (r : TaskRef) (fl : Nat) (e : Engine) : Engine := updJob r (fun j => { j with flags := orFlags j.flags fl }) e

/-- Adds conversion counts to a job (R105). -/
def countJob (r : TaskRef) (quantised clipped : Nat) (e : Engine) : Engine :=
  updJob r (fun j => { j with quantised := j.quantised + quantised, clipped := j.clipped + clipped }) e

/-- The leading count after items up to `fuel` more of `ahead` join it. -/
def leadFrom (lead : Nat) (ahead : List Nat) : Nat → Nat
  | 0 => lead
  | fuel + 1 => if ahead.contains lead then leadFrom (lead + 1) ahead fuel else lead

/-- An item's outputs are all visible (R46). -/
def itemDone (r : TaskRef) (i : Nat) (e : Engine) : Engine :=
  updJob r (fun j =>
    let ahead := i :: j.ahead
    let lead := leadFrom j.lead ahead ahead.length
    { j with lead, ahead := ahead.filter (fun k => decide (lead ≤ k)), prog := now e }) e

/-- An item gets `k` more outputs; an item that has none is visible at once. -/
def openItem (r : TaskRef) (i k : Nat) (e : Engine) : Engine :=
  match (findJob r e).bind (fun j => tfind i j.open_) with
  | some n => updJob r (fun j => { j with open_ := tput i (n + k) j.open_ }) e
  | none => if k = 0 then itemDone r i e else updJob r (fun j => { j with open_ := tput i k j.open_ }) e

/-- One output of an item is visible. -/
def itemPart (r : TaskRef) (i : Nat) (e : Engine) : Engine :=
  match findJob r e with
  | none => e
  | some j =>
    match tfind i j.open_ with
    | none => e
    | some k =>
      if k ≤ 1 then itemDone r i (updJob r (fun j => { j with open_ := tdel i j.open_ }) e)
      else updJob r (fun j => { j with open_ := tput i (k - 1) j.open_ }) e

/-- A fault that the task reaches in item order at item `i`, which gets no more outputs: the items before it are finished
first, and the task then ends (R130, R281, R283, R304). -/
def failAt (r : TaskRef) (i st dt : Nat) (e : Engine) : Engine :=
  match findJob r e with
  | none => failTask r st dt e
  | some j =>
    let e := openItem r i 1 e
    if i ≤ j.lead then failTask r st dt e
    else match j.pend with
      | some (k, _, _) => if i < k then updJob r (fun j => { j with pend := some (i, st, dt) }) e else e
      | none => updJob r (fun j => { j with pend := some (i, st, dt) }) e

/-- A job takes up no more items: a fault stands, or one waits for the items before it. -/
def haltsItems (j : Job) : Bool := j.fault.isSome || j.pend.isSome

/-- The count vector of a DISPATCH, written once every other write of the task is visible (R173): slots filled per
expert, overflow routes, unrouted routes, as `aux` holds them behind the next token. -/
def countVector (j : Job) (e : Engine) : Engine :=
  match findTask j.ref e with
  | none => e
  | some t =>
    let a := getF (.slcMoeCount (dq t.desc 1 4 2) (dq t.desc 3 0 4)) Fld.SLC_MOE_COUNT_COUNT_ADDR e * 8
    if j.opcode ≠ 0x04 ∨ a = 0 ∨ j.total = 0 then e
    else
      let n := j.aux.drop 3
      let w := freeIf t.undef ((n ++ [j.aux.getD 1 0, j.aux.getD 2 0]).map (toBytes 4)).flatten e
      eaWrite a w.1 w.2

/-- Ends a job all of whose items are visible and whose body has been issued: a persistent task's round waits for
ROUND_END; any other task is done (R46, R53, R297). -/
def settleDone (r : TaskRef) (e : Engine) : Engine :=
  match findJob r e with
  | none => e
  | some j =>
    if j.fault.isSome then settleFault r e
    else match j.pend.filter (fun p => decide (p.1 ≤ j.lead)) with
    | some p => failTask r p.2.1 p.2.2 e
    | none =>
    if j.issued && j.open_.isEmpty && j.heldOut.isEmpty && j.xfers.isEmpty && decide (j.acks = 0) && decide (j.total ≤ j.lead)
        && j.rearm.isNone && !j.between then
      finishTask r (doneStatus j.flags) 0 j.flags (itemsOf j j.total) j.clipped j.quantised (dropJob j (countVector j e))
    else e

/-- Reads entries until the list has a DATA block, is held, ends or breaks a rule; the flag is a breach (R288). -/
def advanceList (e : Engine) : Nat → LStream → LStream × Bool
  | 0, l => (l, false)
  | fuel + 1, l =>
    if decide (0 < l.left) || l.ended then (l, false)
    else
      match readEntry l.cursor e with
      | .bad => (l, true)
      | .fin => ({ l with ended := true, dep := none }, false)
      | .data a n => ({ l with blk := a, start := a, left := n, cursor := l.cursor + 16, links := 0, dep := none }, false)
      | .link a =>
        if l.links + 1 ≥ 64 then (l, true) else advanceList e fuel { l with cursor := a, links := l.links + 1 }
      | .dep a t =>
        if depMet a t e then advanceList e fuel { l with cursor := l.cursor + 16, links := 0, dep := none }
        else ({ l with dep := match l.dep with | some d => some d | none => some (a, t, now e) }, false)

/-- Bytes a list still lacks, reads in flight counted. -/
def lacking (l : LStream) : Nat := l.need - (l.got.length + l.inflight)

/-- The rest of a block lies past the end of its memory (R343). -/
def pastEnd (a : Nat) : Bool := !eaValid a || (decide (eaSpace a = 2) && decide (a % 2 ^ 27 = 0))

/-- LIST_READ, or AUX_ACCESS for a bias vector or a rescale table, the lists 3 and 4 of a pooling job (R305). -/
def listDetail (j : Job) (k : Nat) : Nat := if j.pool.isSome ∧ 3 ≤ k then 0x12 else 0x10

/-- Issues one read of a list: up to the end of the block, the next 64 KiB boundary, the bytes lacking or the free
buffers, whichever comes first (R289). -/
def readOnce (r : TaskRef) (k : Nat) (e : Engine) : Engine :=
  match findJob r e with
  | none => e
  | some j =>
    match j.lists[k]? with
    | none => e
    | some l =>
      if lacking l = 0 || j.fault.isSome || l.inflight ≠ 0 || l.dep.isSome then e
      else if decide (0 < l.left) && decide (l.blk ≠ l.start) && pastEnd l.blk then failTask r stAddrFault (listDetail j k) e
      else
        let (l', bad) := advanceList e 4096 l
        let l' := if bad then { l' with ended := true, bad := true } else l'
        let e := updJob r (fun j => { j with lists := j.lists.set k l' }) e
        if bad then e
        else if l'.dep.isSome then
          match j.slot with
          | none => e
          | some s => setBit (.slcStreamSts j.slice) Fld.SLC_STREAM_STS_SLOT_DEP s true e
        else if l'.left = 0 then e
        else
          let free := freeBufs j.slice j.queue e - 2
          let n := min (min l'.left (65536 - l'.blk % 65536)) (min (lacking l') (4096 * free))
          if n = 0 || 6 ≤ issuedCount j then e
          else
            let e := updJob r (fun j => { j with lists := j.lists.set k { l' with
              blk := l'.blk + n, left := l'.left - n, inflight := l'.inflight + n } }) e
            issueXfers r (addXfer r (.listRead k) l'.blk n [] e)

/-- Issues reads of every list of a job that lacks bytes; a list that ended early is found by its consumer. -/
def pump (r : TaskRef) (e : Engine) : Engine :=
  match findJob r e with
  | none => e
  | some j => forEach (List.range j.lists.length) (readOnce r) (issueXfers r e)

/-- A list can give no more bytes and lacks some: LIST_SHORT is due (R288). -/
def listShort (l : LStream) : Bool := l.ended && decide (lacking l ≠ 0) && decide (l.inflight = 0) && decide (l.left = 0)

/-- The DETAIL of a list that is short: BAD_BLOCK or LIST_SHORT (R288). -/
def shortDetail (l : LStream) : Nat := if l.bad then 0x60 else 0x1A

/-- A list has all the bytes its task needs. -/
def listFull (l : LStream) : Bool := decide (l.need ≤ l.got.length)

/-- The 8-byte element `k` of a list. -/
def listNat (l : LStream) (k size : Nat) : Nat := ofBytes ((l.got.drop (k * size)).take size)

/-! Output streams. -/

/-- What locating bytes of an output stream gives. -/
inductive OutLoc where
  | segs (l : List (Nat × Nat))
  | short
  | held
  | bad
  deriving DecidableEq, Repr

/-- The segments of `len` bytes from byte `off` of an output block list (R288, R294). -/
def locateOut (e : Engine) : Nat → Nat → Nat → Nat → Nat → List (Nat × Nat) → OutLoc
  | 0, _, _, _, _, _ => .bad
  | fuel + 1, cur, links, off, len, acc =>
    if len = 0 then .segs acc.reverse
    else match readEntry cur e with
      | .bad => .bad
      | .fin => .short
      | .link a => if links + 1 ≥ 64 then .bad else locateOut e fuel a (links + 1) off len acc
      | .dep a t => if depMet a t e then locateOut e fuel (cur + 16) 0 off len acc else .held
      | .data a n =>
        if n ≤ off then locateOut e fuel (cur + 16) 0 (off - n) len acc
        else
          let k := min (n - off) len
          locateOut e fuel (cur + 16) 0 0 (len - k) ((a + off, k) :: acc)

/-- The segments of output bytes: of an output stream, or, from 2^64 up, of plain memory at an engine address, which the
near path names (R345). -/
def outLoc (e : Engine) (bl off len : Nat) : OutLoc :=
  if 2 ^ 64 ≤ bl then .segs [(bl - 2 ^ 64 + off, len)] else locateOut e 65536 bl 0 off len []

/-- Bytes cut into pieces of at most 4 KiB at an address, one buffer each. -/
def pieces (addr : Nat) : Nat → List Byte → List (Nat × List Byte)
  | 0, _ => []
  | fuel + 1, bs =>
    if bs.isEmpty then []
    else (addr, bs.take 4096) :: pieces (addr + 4096) fuel (bs.drop 4096)

/-- Bytes laid over segments, in pieces of at most 4 KiB. -/
def layOver : List (Nat × Nat) → List Byte → List (Nat × List Byte)
  | [], _ => []
  | (a, n) :: rest, bs => pieces a (n / 4096 + 1) (bs.take n) ++ layOver rest (bs.drop n)

/-- The writes of one item: pieces of the output stream and records at fixed addresses (R153). The item opens with
that many parts. A stream held at a DEP entry counts as room for now and is written when it is met. -/
def writeItem (r : TaskRef) (item : Nat) (bl off : Nat) (row : List Byte) (recs : List (Nat × List Byte))
    (e : Engine) : Engine :=
  match (if row.isEmpty then OutLoc.segs [] else outLoc e bl off row.length) with
  | .bad => failAt r item stBadDesc 0x60 e
  | .short => failAt r item stBadDesc 0x61 e
  | .held =>
    let e := match (findJob r e).bind (fun j => j.slot.map (fun s => (j.slice, s))) with
      | some (n, s) => setBit (.slcStreamSts n) Fld.SLC_STREAM_STS_SLOT_DEP s true e
      | none => e
    updJob r (fun j => { j with heldOut := j.heldOut ++ [⟨item, bl, off, row, recs, now e⟩] }) (openItem r item 1 e)
  | .segs sg =>
    if sg.any (fun s => !eaFits s.1 s.2) then failAt r item stAddrFault 0x11 e else
    let ps := layOver sg row
    let e := openItem r item (ps.length + recs.length) e
    let e := forEach ps (fun p e => addXfer r (.output item) p.1 p.2.length p.2 e) e
    let e := forEach recs (fun p e => addXfer r (.aux item) p.1 p.2.length p.2 e) e
    issueXfers r e

/-- Tries again the writes of a job that were held at a DEP entry of its output stream (R294). -/
def retryHeld (r : TaskRef) (e : Engine) : Engine :=
  match findJob r e with
  | none => e
  | some j =>
    let still (h : HeldOut) : Bool := decide (locateOut e 65536 h.bl 0 h.off h.row.length [] = .held)
    forEach (j.heldOut.filter (fun h => !still h)) (fun h e => itemPart r h.item (writeItem r h.item h.bl h.off h.row h.recs e))
      (updJob r (fun j => { j with heldOut := j.heldOut.filter still }) e)

/-- SLOT_DEP of a job's slot follows its lists and its held writes (R311). -/
def noteDep (r : TaskRef) (e : Engine) : Engine :=
  match findJob r e with
  | none => e
  | some j =>
    match j.slot with
    | none => e
    | some s => setBit (.slcStreamSts j.slice) Fld.SLC_STREAM_STS_SLOT_DEP s
        (j.lists.any (fun l => l.dep.isSome) || !j.heldOut.isEmpty) e

end Sys2Proof.Machine
end

