-- ==== Sys2Proof/Machine/Start.lean ====
section
/-! DEFINITION. When a task may start, and the start checks of every task in the order of R459. -/

namespace Sys2Proof.Machine

/-- The ring of a number; a ring never started is STOPPED with its fields at 0 (R427). -/
def ringOf (r : Nat) (e : Engine) : Ring := tget {} r e.front.rings

/-- The engine with a ring replaced. -/
def setRing (r : Nat) (x : Ring) (e : Engine) : Engine :=
  { e with front := { e.front with rings := tput r x e.front.rings } }

/-- The engine with one ring changed. -/
def updRing (r : Nat) (f : Ring → Ring) (e : Engine) : Engine := setRing r (f (ringOf r e)) e

/-- Position a comes before position b in a ring whose oldest record is at `base`. -/
def posBefore (base a b : BitVec 32) : Bool := decide ((a - base).toNat < (b - base).toNat)

/-- The table slots a task uses: its TABLE_ID and, where that is composed, the sub-tables (R91). -/
def slotsOf (t : Task) (e : Engine) : List Nat :=
  match opcodes.lookup (dOpcode t.desc) with
  | some (true, _) =>
    let s := dTable t.desc
    let i := imgOf s e
    if (slotOf s e).loaded && cComposed i then [s, cSubA i, cSubB i] else [s]
  | _ => []

/-- A CTX_LOAD that has started and not ended holds back the tasks of its slot (R91). -/
def heldByLoad (t : Task) (e : Engine) : Bool :=
  let mine := slotsOf t e
  e.tasks.any (fun u => decide (dOpcode u.desc = 0x18) && decide (u.phase = .running) &&
    decide (u.ref ≠ t.ref) && mine.contains (dTable u.desc))

/-- The turn of a position has come: every task from the start pointer to it has ended without a start (R43). -/
def startTurn (r : Nat) (x : Ring) (pos : BitVec 32) (e : Engine) : Bool :=
  e.tasks.all (fun u => match u.ref with
    | .ring r' p => decide (r' ≠ r) || decide (u.phase = .ended) || posBefore x.cplPos p x.startAt || !posBefore x.cplPos p pos
    | _ => true)

/-- A task may start now (R41, R43, R45, R55, R91): the engine is enabled, its turn has come in position order, no
fence holds it, and no CTX_LOAD of its slot waits. -/
def canStart (t : Task) (e : Engine) : Bool :=
  enabled e && decide (t.phase = .ready) &&
  (match t.ref with
   | .ring r pos =>
     let x := ringOf r e
     (decide (x.state = .running) || decide (x.state = .draining) || decide (x.state = .error)) &&
     startTurn r x pos e && x.broken.isNone &&
     (!dFenceBefore t.desc || decide (x.cplPos = pos)) &&
     !(e.tasks.any (fun u => match u.ref with
        | .ring r' p' => decide (r' = r) && decide (dOpcode u.desc = 0x1E) && posBefore x.cplPos p' pos
        | _ => false))
   | _ => true) &&
  !(decide (dOpcode t.desc ≠ 0x18) && heldByLoad t e)

/-- The task starts: it belongs to the step now open (R187), it is precise as DESC or PRECISE_DEFAULT now says (R352), and the next position of its ring may follow. -/
def beginTask (t : Task) (e : Engine) : Engine :=
  let e := updTask t.ref (fun t =>
    { t with
      phase := .running
      step := getF .stepSts Fld.STEP_STS_OPEN_STEP e
      precise := dPrecise t.desc || getB .ctl Fld.CTL_PRECISE_DEFAULT e }) e
  match t.ref with
  | .ring r pos => updRing r (fun x => { x with startAt := pos + 1 }) e
  | _ => e

/-! Start checks (R459). -/

/-- Any of the listed fields (quadword, lowest bit, width) is not zero. -/
def anySet (d : BitVec 512) (fs : List (Nat × Nat × Nat)) : Bool :=
  fs.any (fun f => decide (dq d f.1 f.2.1 f.2.2 ≠ 0))

/-- The reserved fields of an opcode's descriptor (the descriptor table of its chapter), QW0 aside. -/
def reservedFields (op : Nat) : List (Nat × Nat × Nat) :=
  match op with
  | 0x01 | 0x02 => [(3, 5, 1), (4, 5, 1), (5, 0, 3), (6, 46, 2)]
  | 0x03 => [(2, 0, 3), (3, 0, 6), (4, 0, 3), (5, 0, 3), (6, 53, 11)]
  | 0x04 => [(2, 0, 3), (3, 4, 2), (4, 0, 6), (5, 0, 3), (6, 39, 25)]
  | 0x05 => [(2, 10, 6), (2, 53, 11), (3, 5, 1), (4, 5, 1), (5, 0, 3), (6, 46, 2)]
  | 0x08 => [(3, 0, 6), (4, 0, 6), (5, 0, 3)]
  | 0x09 => [(1, 3, 5), (1, 28, 4), (2, 32, 32), (3, 0, 6), (4, 8, 56), (5, 0, 64), (6, 0, 64)]
  | 0x0A => [(4, 45, 19), (5, 32, 32), (6, 0, 64)]
  | 0x10 => [(2, 2, 1), (2, 6, 58), (3, 24, 40), (4, 0, 64), (5, 0, 64), (6, 0, 64)]
  | 0x11 => [(2, 0, 3), (3, 24, 40), (4, 0, 64), (5, 0, 64), (6, 0, 64)]
  | 0x12 => [(1, 4, 4), (1, 24, 40), (2, 25, 39), (3, 0, 64), (4, 0, 64), (5, 0, 64), (6, 0, 64)]
  | 0x13 => [(2, 6, 58), (3, 24, 40), (4, 0, 64), (5, 0, 64), (6, 0, 64)]
  | 0x14 => [(2, 11, 5), (2, 29, 3), (2, 48, 16), (3, 40, 24), (4, 40, 24), (5, 0, 64), (6, 0, 64)]
  | 0x15 => [(2, 0, 64), (3, 0, 64), (4, 0, 64), (5, 32, 32), (6, 0, 64)]
  | 0x18 => [(3, 1, 63), (4, 0, 64), (5, 0, 64), (6, 0, 64), (1, 0, 6), (2, 0, 3)]
  | 0x19 => [(1, 10, 54), (3, 32, 32), (4, 0, 64), (5, 0, 64), (6, 0, 64)]
  | 0x1A => [(1, 10, 54), (3, 0, 64), (4, 0, 64), (5, 0, 64), (6, 0, 64)]
  | 0x1C => [(1, 8, 56), (2, 0, 64), (3, 0, 64), (4, 0, 64), (5, 0, 64), (6, 0, 64)]
  | 0x1E => [(1, 2, 62), (2, 0, 64), (3, 0, 64), (4, 0, 64), (5, 0, 64), (6, 0, 64)]
  | 0x1F => [(1, 0, 64), (2, 0, 64), (3, 0, 64), (4, 0, 64), (5, 0, 64), (6, 0, 64)]
  | 0x20 => [(1, 2, 14), (1, 28, 36), (3, 0, 64), (4, 0, 64), (5, 0, 64), (6, 0, 64)]
  | _ => []

/-- Output format bytes of a descriptor that R117 checks at step 4. -/
def formatBytes (op : Nat) (d : BitVec 512) : List Nat :=
  match op with
  | 0x01 | 0x02 => [dq d 6 24 8]
  | 0x03 => [dq d 6 24 8, dq d 6 40 8] ++ (if dq d 6 52 1 = 1 then [dq d 6 32 8] else [])
  | 0x04 => [dq d 6 24 8]
  | 0x05 => [dq d 6 24 8, dq d 2 16 8]
  | 0x08 => [dq d 6 24 8]
  | _ => []

/-- The other breaches that step 4 of R459 reports as RESERVED_NONZERO: READ_WIDE (R125), the alignment and UNLOAD
rules of R89, fields of the other kind (R200), SCOPE 0b11 (R41). -/
def otherReserved (op : Nat) (d : BitVec 512) : Bool :=
  (dReadWide d && !(decide (op = 0x01) || decide (op = 0x02) || decide (op = 0x11))) ||
  (match op with
   | 0x09 =>
     (decide (dq d 1 0 2 = 0) && decide (dq d 1 16 12 ≠ 0)) ||
     (decide (dq d 1 0 2 = 1) && (decide (dq d 1 2 1 ≠ 0) || decide (dq d 1 8 8 ≠ 0) || decide (dq d 2 0 32 ≠ 0) ||
       decide (dq d 4 0 8 ≠ 0)))
   | 0x13 => decide (dq d 2 0 3 = 3) && (decide (dq d 1 6 58 ≠ 0) || decide (dq d 3 0 24 ≠ 0))
   | 0x18 => decide (dq d 3 0 1 = 1) && decide (dq d 1 0 64 ≠ 0)
   | 0x1E => decide (dq d 1 0 2 = 3)
   | _ => false)

/-- The engine addresses of a descriptor, for BAD_ADDRESS (R286, R312). -/
def addrFields (op : Nat) (d : BitVec 512) : List Nat :=
  match op with
  | 0x01 | 0x02 | 0x05 => [dBl d 1, (if op = 0x05 then 0 else dBl d 2), dBl d 3, dBl d 4, dAddr3 d 5]
  | 0x03 => [dBl d 1, dBl d 2, dBl d 3, dAddr3 d 4, dAddr3 d 5]
  | 0x04 => [dBl d 1, dBl d 2, dBl d 3, dBl d 4, dAddr3 d 5]
  | 0x08 => [dBl d 1, dBl d 2, dBl d 3, dBl d 4, dAddr3 d 5]
  | 0x09 => [dBl d 3]
  | 0x0A => [dBl d 1, dBl d 2, dq d 3 0 64]
  | 0x10 | 0x13 | 0x14 | 0x15 => [dBl d 1]
  | 0x11 => [dBl d 1, dBl d 2]
  | 0x20 => [dq d 2 0 64]
  -- IMAGE_ADDR is 64 B aligned (R360): a set bit below is a bit that must be zero
  | 0x19 | 0x1A => [if dq d 2 0 6 = 0 then dq d 2 0 64 else 2 ^ 64 - 1]
  | _ => []

/-- The opcode uses a stream slot, with STREAM_SLOT and SLICE in QW1 [5:0] and QUEUE in QW2 [5:3]. -/
def usesStream (op : Nat) : Bool :=
  [0x01, 0x02, 0x03, 0x04, 0x05, 0x08, 0x0A, 0x10, 0x11, 0x13, 0x14, 0x15].contains op

/-- The buffer-handle queue of a task: QW2 [5:3], or queue 0 where the descriptor names none (STATE_EXPORT and
STATE_IMPORT; DESIGN CHOICE, notes/assumptions/19.md). -/
def queueOf (d : BitVec 512) : Nat := if dOpcode d = 0x14 ∨ dOpcode d = 0x15 then 0 else dq d 2 3 3

/-- The opcodes that allow PERSIST (R297). -/
def allowsPersist (op : Nat) : Bool := [0x01, 0x02, 0x03, 0x04, 0x05].contains op

/-- The check of R96 on one slot, after R94: none where the task may use it. -/
def slotCheck (t : Task) (s : Nat) (e : Engine) : Option (Nat × Nat) :=
  let c := slotOf s e
  if !c.loaded then some (stBadTable, 0x10)
  else if cDomain c.img ≠ t.domain ∧ t.priv ≠ 3 then some (stPrivilege, 0x02)
  else if privRank (cPriv c.img) > privRank t.priv then some (stPrivilege, 0x03)
  else none

/-- The sub-table checks of R77 with R96 on the sub-tables, in the order A, B. -/
def composeCheck (t : Task) (s : Nat) (e : Engine) : Option (Nat × Nat) :=
  let i := imgOf s e
  if !cComposed i then none
  else
    let a := cSubA i
    let b := cSubB i
    let ca := slotOf a e
    let cb := slotOf b e
    if !ca.loaded || !cb.loaded then some (stBadTable, 0x10)
    else if cComposed ca.img || cComposed cb.img || cWidth ca.img ≠ cWidth i || cWidth cb.img ≠ cWidth i
      then some (stBadTable, 0x15)
    else if decide (cHash i = 4) && !seAll (shardEntry (cShardFirst cb.img) e) then some (stBadTable, 0x15)
    else (slotCheck t a e).or (slotCheck t b e)

/-- A table with STATE_TIER NONE where a master is asked for (R125). -/
def noMaster (s : Nat) (e : Engine) : Bool :=
  let i := imgOf s e
  if cComposed i then decide (cTier (imgOf (cSubA i) e) = 0) || decide (cTier (imgOf (cSubB i) e) = 0)
  else decide (cTier i = 0)

/-- A task on the start-up ring that R310 refuses. -/
def sringRefused (op : Nat) (d : BitVec 512) : Bool :=
  decide (op = 0x08) || decide (op = 0x09) || decide (op = 0x1C) || dPersist d

/-- The first failure of steps 1 to 7 of R459, if any. -/
def commonCheck (t : Task) (e : Engine) : Option (Nat × Nat) :=
  let d := t.desc
  let op := dOpcode d
  match opcodes.lookup op with
  | none => some (stBadDesc, 0x01)
  | some (tbl, minPriv) =>
    if !tbl && decide (dTable d ≠ 0) then some (stBadDesc, 0x04)
    else if privRank t.priv < minPriv then some (stPrivilege, 0x01)
    else
      let s := dTable d
      let uses := tbl && decide (op ≠ 0x18)
      match (if uses then slotCheck t s e else none) with
      | some x => some x
      | none =>
        if decide (t.ref = .sring) && sringRefused op d then some (stBadDesc, 0x67)
        else if decide (dq d 0 14 2 ≠ 0) || anySet d (reservedFields op) || otherReserved op d ||
            (formatBytes op d).any (fun b => !outFmtValid b) then some (stBadDesc, 0x02)
        else match (if uses then composeCheck t s e else none) with
          | some x => some x
          | none =>
            if dReadWide d && noMaster s e then some (stBadDesc, 0x10)
            else if (addrFields op d).any (fun a => !eaValid a) then some (stBadDesc, 0x65)
            else if usesStream op &&
                decide (getF (.slcStreamCfg (dq d 1 4 2)) (Fld.SLC_STREAM_CFG_DEPTH (queueOf d)) e < 4)
              then some (stBadDesc, 0x62)
            else if dPersist d && !allowsPersist op then some (stBadDesc, 0x64)
            else none

/-- The task uses a lost configuration item (R396): one of its slots, or a profile register of its slice. -/
def usesLost (t : Task) (e : Engine) : Bool :=
  (decide (dOpcode t.desc ≠ 0x18) && (slotsOf t e).any (fun s => (slotOf s e).lost)) ||
  (let op := dOpcode t.desc
   let n := dq t.desc 1 4 2
   let p := dq t.desc 4 0 5
   ([0x01, 0x02, 0x05].contains op && e.lostRegs.any (fun r =>
      decide (r = .slcProfCtl n p) || decide (r = .slcProfHome n p) || decide (r = .slcProfScratch n p) ||
      decide (r = .slcProfBias n p))) ||
   (decide (op = 0x09) && decide (dq t.desc 1 0 2 = 0) && e.lostRegs.any (fun r => match r with | .chainEnt .. => true | _ => false)) ||
   (decide (op = 0x04) && e.lostRegs.any (fun r =>
      let p := dq t.desc 3 0 4
      decide (r = .slcMoeCtl n p) || decide (r = .slcMoeSlots n p) || decide (r = .slcMoeCount n p))))

/-- An injected CONFIG detection in the configuration item that a task uses first (R396, R412): its slot, or the copy of
the chain entries of a CLOSE, is lost; in any other register the engine enters the fault state. The kind of item has no
numbering in the manual: a free value. -/
def configDetect (op : Nat) (t : Task) (e : Engine) : Engine :=
  let n := if usesStream op then dq t.desc 1 4 2 else 0
  let e := logIntegrity 7 n 0x10 0 7 true e
  let lose (item : Nat) (e : Engine) : Engine :=
    let f := takeFree e
    let e := logEvent { cluster := 7, slice := n, typ := 0x16, ref := item, code := f.1.toNat % 256, injected := true } f.2
    finishTask t.ref stDataLost 0xB1 0 0 0 0 (setAlert Fld.FAULT_STS_CFG_LOST e)
  match opcodes.lookup op with
  | some (true, _) =>
    let s := dTable t.desc
    lose s { e with ctxs := tput s { slotOf s e with lost := true } e.ctxs }
  | _ =>
    if op = 0x09 ∧ dq t.desc 1 0 2 = 0 then lose 0 { e with lostRegs := .chainEnt 0 0 :: e.lostRegs.erase (.chainEnt 0 0) }
    else enterFault 0x10 n false true e

/-- The slice is offline or power-gated as a poolers' slice (R157, R408, R413: STATE 2 OFFLINE or 3 POWER_OFF). -/
def sliceOut (n : Nat) (e : Engine) : Bool := decide (2 ≤ getF (.slcSts n) Fld.SLC_STS_STATE e)

/-- SLICE_OFFLINE (R408) for the opcodes whose chapter does not place it: before their own checks. -/
def sliceOffCheck (op : Nat) (t : Task) (e : Engine) : Option (Nat × Nat) :=
  if [0x0A, 0x10, 0x11, 0x13, 0x14, 0x15, 0x1C].contains op && sliceOut (dq t.desc 1 4 2) e then some (stBadDesc, 0x13)
  else none

/-- A new job of a task. -/
def newJob (t : Task) (e : Engine) : Job :=
  { ref := t.ref, opcode := dOpcode t.desc, slice := dq t.desc 1 4 2, queue := queueOf t.desc, prog := now e }

/-- A stream slot is held (R20). -/
def slotBusy (n s : Nat) (e : Engine) : Bool :=
  decide (bitsOf (getF (.slcStreamSts n) Fld.SLC_STREAM_STS_SLOT_BUSY e) s 1 = 1)

/-- Adds a job to the engine. -/
def addJob (j : Job) (e : Engine) : Engine := { e with jobs := e.jobs ++ [j] }

/-- Takes the stream slot of a task for its job. -/
def takeSlot (t : Task) (e : Engine) : Engine :=
  let n := dq t.desc 1 4 2
  let s := dq t.desc 1 0 4
  setBit (.slcStreamSts n) Fld.SLC_STREAM_STS_SLOT_BUSY s true
    (updJob t.ref (fun j => { j with slot := some s, waitSlot := false }) e)

/-- The start of a task of opcode `op`: its turn, its checks (steps 1 to 7, then the opcode's own), its stream slot,
and its body. Given again for a task that waits for its slot (R20), it goes on once the slot is free; in every other
case nothing changes. A persistent task takes its slot and waits between rounds (R297). -/
def startTask (op : Nat) (r : TaskRef) (own : Task → Engine → Option (Nat × Nat))
    (body : Task → Engine → Engine) (e : Engine) : Engine :=
  match findTask r e with
  | none => e
  | some t =>
    if dOpcode t.desc ≠ op then e
    else
      let enter (e : Engine) : Engine :=
        if slotBusy (dq t.desc 1 4 2) (dq t.desc 1 0 4) e then e
        else
          let e := takeSlot t e
          if dPersist t.desc then
            setBit (.slcStreamSts (dq t.desc 1 4 2)) Fld.SLC_STREAM_STS_SLOT_PERSIST (dq t.desc 1 0 4) true
              (updJob r (fun j => { j with between := true }) e)
          else settleDone r (body t e)
      match findJob r e with
      | some j => if j.waitSlot && enabled e then enter e else e
      | none =>
        if canStart t e then
          let e := beginTask t e
          match (commonCheck t e).or ((sliceOffCheck op t e).or (own t e)) with
          | some (st, dt) => finishTask r st dt 0 0 0 0 e
          | none =>
            let i := if [0x18, 0x1C, 0x1E, 0x1F].contains op then (false, e) else takeInjection 0x10 (dq t.desc 1 4 2) e
            if i.1 then configDetect op t i.2
            else if usesLost t e then finishTask r stDataLost 0xB1 0 0 0 0 e
            else if usesStream op then enter (addJob { newJob t e with waitSlot := true } e)
            else body t e
        else e

end Sys2Proof.Machine
end

