-- ==== Sys2Proof/Machine/Rings.lean ====
section
/-! DEFINITION. Ring commands, producer indices, doorbell lines, descriptor fetch, completion records and interrupts
(02_rings_and_descriptors.md R25 to R62). -/

namespace Sys2Proof.Machine

/-- Rings that exist (R25, R28). -/
def ringCount (e : Engine) : Nat := min (getF .ringtabSize Fld.RINGTAB_SIZE_ENTRIES e) 1024

/-- Host address of a ring context (R25). -/
def ringCtxAddr (r : Nat) (e : Engine) : Nat := getF .ringtabBase Fld.RINGTAB_BASE_BASE e * 4096 + 64 * r

/-- QW7 of a ring context (R26). -/
def qw7Of (x : Ring) : List Byte := toBytes 8 (x.state.code + x.err % 256 * 2 ^ 8 + x.nextPos.toNat * 2 ^ 32)

/-- Writes QW7 of a ring's context (R27), keeping what host memory held for CTX_WRITE_FAULT. -/
def writeQw7 (r : Nat) (e : Engine) : Engine :=
  let a := ringCtxAddr r e + 56
  let old := hostRead a 8 e
  hostWrite a (qw7Of (ringOf r e)) (updRing r (fun x => { x with qw7Old := some old }) e)

/-- Sends the ring's interrupt (R61). -/
def sendInt (r : Nat) (e : Engine) : Engine :=
  writeMsix (ringOf r e).ctx.intVector (updRing r (fun x => { x with intPending := 0 }) e)

/-- An interrupt request (R61); `now_` says that it is sent without moderation. -/
def interruptRequest (r : Nat) (atOnce : Bool) (e : Engine) : Engine :=
  let x := ringOf r e
  if !x.ctx.intEnable then e
  else
    let first := if x.intPending = 0 then now e else x.intFirst
    let e := updRing r (fun x => { x with intPending := x.intPending + 1, intFirst := first }) e
    if decide (max x.ctx.intCount 1 ≤ x.intPending + 1) || atOnce then sendInt r e else e

/-- A ring enters a state: QW7 is written, and HALTED or ERROR is an interrupt request sent at once (R27, R61). -/
def enterState (r : Nat) (st : RingState) (e : Engine) : Engine :=
  let e := writeQw7 r (updRing r (fun x => { x with state := st }) e)
  if st = .halted ∨ st = .error then interruptRequest r true e else e

/-- SHD_STS and the log for a ring error (R27, R54). -/
def noteRingError (r code : Nat) (e : Engine) : Engine :=
  let e := setF .sts Fld.STS_RING_ERROR 1 e
  let e := incF .sts Fld.STS_RING_ERRORS 1 e
  let e := setF .sts Fld.STS_LAST_ERROR_RING r e
  logEvent { cluster := 0, slice := 0, typ := 0x01, ref := r, code, arg := bitsOf (ringOf r e).nextPos.toNat 0 24 } e

/-- A ring takes a fault (R54). -/
def ringFault (r code : Nat) (e : Engine) : Engine :=
  let e := updRing r (fun x => { x with err := if x.err = 0 then code else x.err }) e
  let x := ringOf r e
  let e := match x.state with
    | .running | .draining | .halted => enterState r .error e
    | _ => writeQw7 r e
  noteRingError r code e

/-- A producer index is judged (R36). -/
def judgePi (r : Nat) (p : BitVec 32) (e : Engine) : Engine :=
  let x := ringOf r e
  let size := 2 ^ x.ctx.log2Size
  if size < (p - x.nextPos).toNat ∨ size < (p - x.pLast).toNat then ringFault r 0x01 e
  else updRing r (fun x => { x with pLast := p }) e

/-- The rings that name a doorbell slot and are RUNNING. -/
def runningAt (line slot : Nat) (e : Engine) : List Nat :=
  (e.front.rings.filter (fun q => decide (q.2.state = .running) && decide (q.2.ctx.dbLine = line) &&
    decide (q.2.ctx.dbSlot = slot))).map (·.1)

/-- A new producer index of a slot of this device: judged for its RUNNING ring, and recorded where there is none, while
ENABLE is 0, and after a fence of the ring broke (R36, R55, R453). -/
def observePi (line slot : Nat) (p : BitVec 32) (e : Engine) : Engine :=
  match (runningAt line slot e).filter (fun r => enabled e && (ringOf r e).broken.isNone) with
  | [] => { e with front := { e.front with piSeen := tput (line, slot) p e.front.piSeen } }
  | rs => forEach rs (fun r e => judgePi r p e) e

/-- Host memory after the contents of a ring context are read: the engine reads its copy (R25). -/
def readRingCtx (r : Nat) (e : Engine) : Nat := hostNat (ringCtxAddr r e) 64 e

/-- Sets RESULT and clears GO (R33). -/
def ringResult (res : Nat) (e : Engine) : Engine :=
  setF .ringCmd Fld.RING_CMD_GO 0 (setF .ringCmd Fld.RING_CMD_RESULT res e)

/-- The register as the command's write leaves it: RING, CMD and GO = 1 (R28). -/
def latchCmd (r cmd : Nat) (e : Engine) : Engine :=
  setF .ringCmd Fld.RING_CMD_GO 1 (setF .ringCmd Fld.RING_CMD_CMD cmd (setF .ringCmd Fld.RING_CMD_RING r e))

/-- A command may be taken: GO reads 0 (R29) and the engine is alive. -/
def cmdFree (e : Engine) : Bool := !getB .ringCmd Fld.RING_CMD_GO e && alive e

/-- Another ring that is not STOPPED names the same doorbell slot (R30 step 5). -/
def dbConflict (r : Nat) (c : RingCtx) (e : Engine) : Bool :=
  e.front.rings.any (fun q => decide (q.1 ≠ r) && decide (q.2.state ≠ .stopped) &&
    decide (q.2.ctx.dbLine = c.dbLine) && decide (q.2.ctx.dbSlot = c.dbSlot))

/-- The RESULT of a START, in the order of R30; 0 where it is carried out. -/
def startResult (r : Nat) (readOk : Bool) (e : Engine) : Nat :=
  if (ringOf r e).state ≠ .stopped then 2
  else if ringCount e ≤ r then 4
  else if !readOk then 5
  else if !ringCtxOk (readRingCtx r e) then 1
  else if dbConflict r (parseRingCtx (readRingCtx r e)) e then 3
  else 0

/-- The ring that a START makes (R30, R36, R50). -/
def startedRing (c : RingCtx) (old : Ring) : Ring :=
  { ctx := c, state := .running, err := 0, nextPos := c.startPos, pLast := c.startPos, cplPos := c.startPos
    startAt := c.startPos, intPending := old.intPending, intFirst := old.intFirst }

/-- The recorded producer index of a ring's slot is judged once it is RUNNING and the engine fetches (R36, R453). -/
def judgeRecorded (r : Nat) (e : Engine) : Engine :=
  let c := (ringOf r e).ctx
  match tfind (c.dbLine, c.dbSlot) e.front.piSeen with
  | none => e
  | some p => judgePi r p { e with front := { e.front with piSeen := tdel (c.dbLine, c.dbSlot) e.front.piSeen } }

/-- START (R30). `readOk`: the read of the ring context succeeds. -/
def doStart (r : Nat) (readOk : Bool) (e : Engine) : Engine :=
  if cmdFree e then
    let e := latchCmd r 1 e
    let res := startResult r readOk e
    if res = 0 then
      let c := parseRingCtx (readRingCtx r e)
      let e := writeQw7 r (setRing r (startedRing c (ringOf r e)) e)
      judgeRecorded r (ringResult 0 e)
    else ringResult res e
  else e

/-- STOP (R31, R33). -/
def doStop (r : Nat) (e : Engine) : Engine :=
  if cmdFree e then
    let e := latchCmd r 2 e
    match (ringOf r e).state with
    | .running => enterState r .draining (updRing r (fun x => { x with cmdWait := true }) e)
    | .halted | .error => updRing r (fun x => { x with cmdWait := true }) e
    | .stopped => ringResult 0 e
    | _ => ringResult 2 e
  else e

/-- Ends a task that an ABORT meets: work that has not finished completes with ABORTED_BY_HOST (R32). -/
def abortTask (t : Task) (e : Engine) : Engine :=
  match t.phase with
  | .ended => e
  | .running => failTask t.ref stAborted 0 e
  | _ => finishTask t.ref stAborted 0 0 0 0 0 e

/-- The tasks of a ring in flight. -/
def tasksOfRing (r : Nat) (e : Engine) : List Task :=
  e.tasks.filter (fun t => match t.ref with | .ring r' _ => decide (r' = r) | _ => false)

/-- ABORT (R32, R33). -/
def doAbort (r : Nat) (e : Engine) : Engine :=
  if cmdFree e then
    let e := latchCmd r 3 e
    match (ringOf r e).state with
    | .stopped => ringResult 0 e
    | .aborting => updRing r (fun x => { x with cmdWait := true }) e
    | _ =>
      let e := enterState r .aborting (updRing r (fun x => { x with cmdWait := true }) e)
      forEach (tasksOfRing r e) abortTask e
  else e

/-- A command code that is not START, STOP or ABORT does nothing and gives RESULT 2 (R28). -/
def doRingCmdOther (r cmd : Nat) (e : Engine) : Engine :=
  if cmdFree e && !decide (1 ≤ cmd ∧ cmd ≤ 3) then ringResult 2 (latchCmd r cmd e) else e

/-- No task of a ring is in flight and no read of its descriptors. -/
def ringQuiet (r : Nat) (e : Engine) : Bool :=
  (tasksOfRing r e).isEmpty && !(e.front.fetches.any (fun f => decide (f.ring = r)))

/-- The ring is on its way to STOPPED (R31, R32). -/
def stopping (x : Ring) : Bool :=
  match x.state with
  | .draining | .aborting => true
  | .halted | .error => x.cmdWait
  | _ => false

/-- RING_STOPPED: the last task has completed (R31 to R33). -/
def doRingStopped (r : Nat) (e : Engine) : Engine :=
  let x := ringOf r e
  if alive e && stopping x && ringQuiet r e then
    let e := enterState r .stopped (updRing r (fun x => { x with cmdWait := false }) e)
    if x.cmdWait then ringResult 0 e else e
  else e

/-- CTX_WRITE_FAULT: the host port answered the last write of QW7 with an error (R27). -/
def doCtxWriteFault (r : Nat) (e : Engine) : Engine :=
  match (ringOf r e).qw7Old with
  | none => e
  | some old =>
    if !alive e then e
    else
      let a := ringCtxAddr r e + 56
      let e := setMem { e.mem with host := memWrite a old e.mem.host } e
      noteRingError r 0x05 (updRing r (fun x => { x with qw7Old := none }) e)

/-! Doorbell lines (R56 to R60). A line is (device, line). -/

/-- The 16 slots of a line in host memory; the lines of this device lie at SHD_DBELL_BASE. -/
def readLine (l : Nat × Nat) (e : Engine) : List (BitVec 32) :=
  (List.range 16).map (fun s =>
    BitVec.ofNat 32 (hostNat (getF .dbellBase Fld.DBELL_BASE_BASE e * 4096 + 64 * l.2 + 4 * s) 4 e))

/-- The held contents of a line (zero where none was held yet: DESIGN CHOICE, notes/assumptions/3.md). -/
def heldLine (l : Nat × Nat) (e : Engine) : List (BitVec 32) := tget (List.replicate 16 0) l e.front.dbLines

/-- New contents of a line of this device: each changed slot is a new producer index (R57). -/
def newLine (l : Nat × Nat) (slots : List (BitVec 32)) (e : Engine) : Engine :=
  let old := heldLine l e
  let e := { e with front := { e.front with dbLines := tput l slots e.front.dbLines } }
  forEach (List.range 16) (fun s e =>
    if slots.getD s 0 ≠ old.getD s 0 then observePi l.2 s (slots.getD s 0) e else e) e

/-- The head uses doorbell polling (R58) or observes invalidations (R57). -/
def polling (e : Engine) : Bool := getB .ctl Fld.CTL_DOORBELL_POLL e

/-- The engine with a doorbell line read in flight. -/
def startLineRead (l : Nat × Nat) (e : Engine) : Engine :=
  if e.front.dbReads.contains l then e else { e with front := { e.front with dbReads := e.front.dbReads ++ [l] } }

/-- DOORBELL_INVALIDATION: the held copy is gone and the head re-reads the line (R57); only at the head, with
CXL.cache and without polling. -/
def doDoorbellInvalidation (dev line : Nat) (e : Engine) : Engine :=
  if alive e && decide (thisDev e = 0) && !polling e then startLineRead (dev, line) e else e

/-- The lines of this device that hold the slot of a RUNNING ring (R58). -/
def polledLines (e : Engine) : List (Nat × Nat) :=
  ((e.front.rings.filter (fun q => decide (q.2.state = .running))).map (fun q => (thisDev e, q.2.ctx.dbLine))).eraseDups

/-- DOORBELL_POLL_TICK (R58). `noCxl`: the host link does not run CXL.cache, so the engine polls whatever the
register says. -/
def doDoorbellPollTick (noCxl : Bool) (e : Engine) : Engine :=
  if alive e && (polling e || noCxl) then forEach (polledLines e) startLineRead e else e

/-- DOORBELL_LINE_READ: a read in flight completes (R57, R59). The contents of another device's line are `slots`,
which the head forwards; a line of this device is read from host memory. -/
def doDoorbellLineRead (dev line : Nat) (slots : List (BitVec 32)) (e : Engine) : Engine :=
  let l := (dev, line)
  if alive e && e.front.dbReads.contains l then
    let e := { e with front := { e.front with dbReads := e.front.dbReads.erase l, dbRetry := e.front.dbRetry.erase l } }
    if dev = thisDev e then newLine l (readLine l e) e
    else
      let changed := decide (heldLine l e ≠ slots)
      let e := { e with front := { e.front with dbLines := tput l slots e.front.dbLines } }
      if changed then sendMsg (hdrTo dev 0 e) (.dbLine line slots) e else e
  else e

/-- DOORBELL_READ_FAULT: a read in flight failed; it is retried once (R60). -/
def doDoorbellReadFault (dev line : Nat) (e : Engine) : Engine :=
  let l := (dev, line)
  if alive e && e.front.dbReads.contains l then
    { e with front := { e.front with dbReads := e.front.dbReads.erase l, dbRetry := e.front.dbRetry ++ [l] } }
  else e

/-- DOORBELL_RETRY: the retry of a failed line read; a second failure faults every RUNNING ring on the line (R60). -/
def doDoorbellRetry (dev line : Nat) (ok : Bool) (slots : List (BitVec 32)) (e : Engine) : Engine :=
  let l := (dev, line)
  if alive e && e.front.dbRetry.contains l then
    if ok then doDoorbellLineRead dev line slots (startLineRead l e)
    else
      let e := { e with front := { e.front with dbRetry := e.front.dbRetry.erase l } }
      let rs := (e.front.rings.filter (fun q => decide (q.2.state = .running) && decide (q.2.ctx.dbLine = line))).map (·.1)
      if dev = thisDev e then forEach rs (fun r e => ringFault r 0x04 e) e else e
  else e

/-! Fetch (R43, R44). -/

/-- Fetched tasks of a ring whose record is not written, reads in flight counted (R44). -/
def inflightOf (r : Nat) (e : Engine) : Nat :=
  (tasksOfRing r e).length +
    (((e.front.fetches.filter (fun f => decide (f.ring = r))).map (·.count)).foldl (· + ·) 0)

/-- Tasks of all rings in flight (R44). -/
def inflightAll (e : Engine) : Nat :=
  (e.tasks.filter (fun t => match t.ref with | .ring .. => true | _ => false)).length + ((e.front.fetches.map (·.count)).foldl (· + ·) 0)

/-- Descriptor slots one visit reads: at most 8, not across the end of the ring, not past P_last, within the limits
of R44. -/
def fetchable (r : Nat) (e : Engine) : Nat :=
  let x := ringOf r e
  if x.state ≠ .running ∨ x.broken.isSome then 0
  else
    let size := 2 ^ x.ctx.log2Size
    let avail := (x.pLast - x.nextPos).toNat
    let toEnd := size - x.nextPos.toNat % size
    min (min (min 8 avail) toEnd) (min (x.ctx.maxInflight - inflightOf r e) (8192 - inflightAll e))

/-- A number put into an ascending list. -/
def insertAsc (k : Nat) : List Nat → List Nat
  | [] => [k]
  | x :: xs => if k ≤ x then k :: x :: xs else x :: insertAsc k xs

/-- The rings in ascending cyclic order after the last one visited (R44). -/
def visitOrder (e : Engine) : List Nat :=
  let rs := (e.front.rings.map (·.1)).foldr insertAsc []
  rs.filter (fun r => decide (e.front.fetchPtr ≤ r)) ++ rs.filter (fun r => decide (r < e.front.fetchPtr))

/-- DESC_FETCH: the next ring with unfetched positions gets one host read (R43, R44). -/
def doDescFetch (e : Engine) : Engine :=
  if !enabled e then e
  else match (visitOrder e).find? (fun r => decide (0 < fetchable r e)) with
    | none => e
    | some r =>
      let n := fetchable r e
      let x := ringOf r e
      let e := { e with front := { e.front with
        fetches := e.front.fetches ++ [⟨r, x.nextPos, n⟩], fetchPtr := r + 1 } }
      updRing r (fun x => { x with nextPos := x.nextPos + BitVec.ofNat 32 n }) e

/-- Host address of the descriptor of a position (R34). -/
def descAddr (c : RingCtx) (pos : BitVec 32) : Nat := c.descBase.toNat + 64 * (pos.toNat % 2 ^ c.log2Size)

/-- Host address of the completion record of a position (R34). -/
def cplAddr (c : RingCtx) (pos : BitVec 32) : Nat := c.cplBase.toNat + 32 * (pos.toNat % 2 ^ c.log2Size)

/-- Reads the descriptor of a position. -/
def readDesc (c : RingCtx) (pos : BitVec 32) (e : Engine) : BitVec 512 := BitVec.ofNat 512 (hostNat (descAddr c pos) 64 e)

/-- Adds a task at the end of the list, with its order of fetch. -/
def addTask (t : Task) (e : Engine) : Engine :=
  { e with tasks := e.tasks ++ [{ t with order := e.front.order }]
           front := { e.front with order := e.front.order + 1 } }

/-- A FENCE that passes the start checks of R459. One that does not completes with the check's own code (R41; DEDUCED,
notes/assumptions/10.md). -/
def fenceGood (d : BitVec 512) : Bool :=
  decide (dTable d = 0) && decide (dq d 0 14 2 = 0) && !anySet d (reservedFields 0x1E) && !otherReserved 0x1E d && !dPersist d

/-- A task that carries a fence: FENCE_BEFORE = 1, or a FENCE (R55). -/
def isFence (t : Task) : Bool :=
  (match t.ref with | .ring _ pos => decide (dSeq t.desc = pos.toNat) | _ => false) &&
  (dFenceBefore t.desc || (decide (dOpcode t.desc = 0x1E) && fenceGood t.desc))

/-- A fence whose earlier positions include a failed one breaks (R55): the ring fetches nothing more, and the
positions from the fence up are CANCELLED as their turn comes. An ABORT ends them as R32 says. -/
def breakFence (r : Nat) (e : Engine) : Engine :=
  let x := ringOf r e
  if !x.failed || x.broken.isSome || decide (x.state = .aborting) then e
  else
    let fences := (tasksOfRing r e).filter isFence
    match fences with
    | t :: _ =>
      match t.ref with
      | .ring _ pos => updRing r (fun x => { x with broken := some pos }) e
      | _ => e
    | [] => e

/-- A fetched descriptor arrives (R37): its SEQ is checked. In ABORTING it ends with ABORTED_BY_HOST (R32). -/
def arriveDesc (r : Nat) (pos : BitVec 32) (e : Engine) : Engine :=
  let x := ringOf r e
  let d := readDesc x.ctx pos e
  let t : Task := { ref := .ring r pos, desc := d, priv := x.ctx.priv, domain := x.ctx.domain }
  if x.state = .aborting then addTask { t with phase := .ended, status := stAborted } e
  else if dSeq d = pos.toNat then addTask { t with phase := .ready } e
  else addTask { t with phase := .seqWait 0 (now e) } e

/-- The oldest read in flight of a ring. -/
def firstFetch (r : Nat) (e : Engine) : Option Fetch := e.front.fetches.find? (fun f => decide (f.ring = r))

/-- Removes the oldest read in flight of a ring. -/
def dropFetch (f : Fetch) (e : Engine) : Engine := { e with front := { e.front with fetches := e.front.fetches.erase f } }

/-- DESC_ARRIVAL: the oldest descriptor read of a ring completes (R37, R43). -/
def doDescArrival (r : Nat) (e : Engine) : Engine :=
  if !alive e then e
  else match firstFetch r e with
    | none => e
    | some f =>
      let e := forEach (List.range f.count) (fun i e => arriveDesc r (f.pos + BitVec.ofNat 32 i) e) (dropFetch f e)
      breakFence r e

/-- SEQ_REREAD: 1 µs after a mismatch the descriptor is read again, at most three times (R37). -/
def doSeqReread (r : Nat) (pos : BitVec 32) (e : Engine) : Engine :=
  match findTask (.ring r pos) e with
  | none => e
  | some t =>
    match t.phase with
    | .seqWait tries t0 =>
      if !alive e || !elapsedUs t0 1 e then e
      else
        let d := readDesc (ringOf r e).ctx pos e
        if dSeq d = pos.toNat then
          breakFence r (updTask t.ref (fun t => { t with desc := d, phase := .ready }) e)
        else if tries + 1 < 3 then updTask t.ref (fun t => { t with desc := d, phase := .seqWait (tries + 1) (now e) }) e
        else finishTask t.ref stBadDesc 0x03 0 0 0 0 (updTask t.ref (fun t => { t with desc := d }) e)
    | _ => e

/-- DESC_READ_FAULT: slot `k` of the oldest read of a ring could not be read. The slots before it arrive, its own
position completes with DESC_FETCH, and the ring faults; NEXT_POS is left one past it (R54; notes/assumptions/8.md). -/
def doDescReadFault (r k : Nat) (e : Engine) : Engine :=
  if !alive e then e
  else match firstFetch r e with
    | none => e
    | some f =>
      if f.count ≤ k then e
      else
        let pos := f.pos + BitVec.ofNat 32 k
        let x := ringOf r e
        let e := forEach (List.range k) (fun i e => arriveDesc r (f.pos + BitVec.ofNat 32 i) e) (dropFetch f e)
        let e := addTask { ref := .ring r pos, read := false, phase := .ended, status := stAddrFault, detail := 0x01
                           priv := x.ctx.priv, domain := x.ctx.domain } e
        let e := updRing r (fun x => { x with nextPos := pos + 1 }) e
        breakFence r (ringFault r 0x02 e)

/-! Completion records (R46 to R55). -/

/-- The positions whose end without a start lets the next position start: the start pointer passes ended tasks. -/
def passEnded (r : Nat) : Nat → Engine → Engine
  | 0, e => e
  | fuel + 1, e =>
    let x := ringOf r e
    match findTask (.ring r x.startAt) e with
    | some t => if t.phase = .ended then passEnded r fuel (updRing r (fun x => { x with startAt := x.startAt + 1 }) e) else e
    | none => e

/-- What the record of a position says; none while its task is not done. -/
def recordOf (r : Nat) (pos : BitVec 32) (e : Engine) : Option Task :=
  let x := ringOf r e
  let cancelled := match x.broken with
    | some f => decide ((pos - f).toNat < 2 ^ 31) && decide ((pos - x.cplPos).toNat < (x.pLast - x.cplPos).toNat)
    | none => false
  match findTask (.ring r pos) e with
  | some t =>
    if cancelled && (decide (t.phase ≠ .running) || decide (dOpcode t.desc = 0x1E)) then
      some { t with phase := .ended, status := stCancelled, detail := 0x01, flags := 0, items := 0, clipped := 0, quantised := 0 }
    else if t.phase = .ended then some t else none
  | none =>
    if cancelled then some { ref := .ring r pos, read := false, phase := .ended, status := stCancelled, detail := 0x01 }
    else none

/-- The record of a task for a position (R46, R48). -/
def taskRecord (c : RingCtx) (pos : BitVec 32) (t : Task) : List Byte :=
  recordBytes (phaseOf c.log2Size pos) t.status t.detail t.flags pos t.items t.clipped t.quantised
    (if t.read then dTag t.desc else 0)

/-- A task leaves flight at its record: later fences see its outcome, and its ring goes on or halts (R50, R55). -/
def retire (r : Nat) (pos : BitVec 32) (t : Task) (e : Engine) : Engine :=
  let e := delTask t.ref e
  let e := updRing r (fun x => { x with
    cplPos := pos + 1
    startAt := if x.startAt = pos then pos + 1 else x.startAt
    failed := x.failed || (statusFailed t.status && decide (t.status ≠ stCancelled)) }) e
  let e := passEnded r 64 e
  let e := breakFence r e
  let x := ringOf r e
  -- the last cancelled position has completed: HALTED (R55 step 4)
  match x.broken with
  | some _ =>
    if decide (x.cplPos = x.pLast) && (decide (x.state = .running) || decide (x.state = .draining)) then
      enterState r .halted (updRing r (fun x => { x with nextPos := x.cplPos }) e)
    else e
  | none => e

/-- A RING_SAVE of the ring is running: its tasks write no record (R362). -/
def ringSaving (r : Nat) (e : Engine) : Bool :=
  e.jobs.any (fun j => decide (j.opcode = 0x19) && decide (j.aux.headD 0 = r))

/-- The work on other slices and tables that a completion ends is settled by the families; here the record is
written, or discarded where the ring's record writes have stopped (R54), and the interrupt is requested (R61). -/
def writeRecord (r : Nat) (e : Engine) : Engine :=
  let x := ringOf r e
  let pos := x.cplPos
  if !alive e || decide (x.state = .stopped) || ringSaving r e then e
  else match recordOf r pos e with
    | none => e
    | some t =>
      let e := if x.cplStopped then e else hostWrite (cplAddr x.ctx pos) (taskRecord x.ctx pos t) e
      -- a precise task that saturated or exceeded its clip threshold (R352)
      let precise := t.precise && hasFlag t.flags (flTileSat + flClip)
      let atOnce := statusFailed t.status || precise
      let req := (t.read && dCompleteInt t.desc) || atOnce
      let e := retire r pos t e
      if req && !x.cplStopped then interruptRequest r atOnce e else e

/-- CPL_WRITE_FAULT: the host port answers the write of the next record with an error (R54): the record is discarded,
its task leaves flight, and the ring writes no record until its next START. -/
def doCplWriteFault (r : Nat) (e : Engine) : Engine :=
  let x := ringOf r e
  if !alive e || x.cplStopped || decide (x.state = .stopped) || ringSaving r e then e
  else match recordOf r x.cplPos e with
    | none => e
    | some t =>
      let e := updRing r (fun x => { x with cplStopped := true }) e
      ringFault r 0x03 (retire r x.cplPos t e)

/-- INT_DELAY_EXPIRY: a pending request is INT_DELAY µs old (R61). -/
def doIntDelayExpiry (r : Nat) (e : Engine) : Engine :=
  let x := ringOf r e
  if alive e && decide (0 < x.intPending) && x.ctx.intEnable && decide (usTicks x.ctx.intDelay ≤ now e - x.intFirst)
  then sendInt r e else e

/-- DOORBELL_POLL_CLEAR: the head reads every doorbell line once (R453, R57). -/
def allLineReads (e : Engine) : Engine :=
  if thisDev e = 0 then
    forEach (List.range (podSize e)) (fun d e => forEach (List.range 64) (fun l e => startLineRead (d, l) e) e) e
  else e

end Sys2Proof.Machine
end

