-- ==== Sys2Proof/Machine/Cache.lean ====
section
/-! DEFINITION. The row cache and the Crumb buffer: lines, probes, fills, replacement and write-back
(11_row_cache_and_memory.md R313 to R329). -/

namespace Sys2Proof.Machine

/-! Sets and kinds of way. -/

/-- The set of a line key (R314). -/
def keySet (k : Nat) : Nat := k * 0xC2B2AE3D27D4EB4F % 2 ^ 64 / 2 ^ 52

/-- The set of an address line: memory `src`, A / 512 = `base` (R314). -/
def addrSet (src base : Nat) : Nat := keySet (2 ^ 63 + src * 2 ^ 40 + base)

/-- The set of a key line (R314). -/
def rowSet (table row : Nat) : Nat := keySet (table * 2 ^ 40 + row)

/-- The kind of a way: 0 NORMAL, 1 COALESCE, 2 SCALE, 3 TRUFFLE (R325). -/
def wayKind (n w : Nat) (e : Engine) : Nat := getF (.slcWayCfg n) (Fld.SLC_WAY_CFG_KIND w) e

/-- A way is disabled (R329). -/
def wayDisabled (n w : Nat) (e : Engine) : Bool :=
  decide (bitsOf (getF (.slcWaySts n) Fld.SLC_WAY_STS_DISABLED e) w 1 = 1)

/-- A way whose kind is being changed takes no allocation (R326). -/
def wayChanging (n w : Nat) (e : Engine) : Bool :=
  match tfind n e.cache.reconf with
  | none => false
  | some v => decide (getFld v (Fld.SLC_WAY_CFG_KIND w) ≠ wayKind n w e)

/-- A way may take allocations of its kind. -/
def wayOpen (n w : Nat) (e : Engine) : Bool := !wayDisabled n w e && !wayChanging n w e

/-- The kind of way a line lives in (R316). -/
def kindFor (n : Nat) (k : LineKind) (e : Engine) : Nat :=
  match k with
  | .praline => if (List.range 24).any (fun w => decide (wayKind n w e = 2)) then 2 else 0
  | _ => 0

/-! Lines. -/

/-- The engine with its cache replaced. -/
def setCache (c : Cache) (e : Engine) : Engine := { e with cache := c }

/-- The line of an address in a slice's ways. -/
def findLine (n src base : Nat) (e : Engine) : Option Line :=
  e.cache.lines.find? (fun l => decide (l.slice = n) && decide (l.src = src) && decide (l.base = base) &&
    !wayDisabled n l.way e)

/-- The entry of an address in a slice's Crumb buffer. -/
def findCrumb (n src base : Nat) (e : Engine) : Option CrumbEnt :=
  e.cache.crumb.find? (fun c => decide (c.line.slice = n) && decide (c.line.src = src) && decide (c.line.base = base))

/-- The same line. -/
def Line.same (a b : Line) : Bool :=
  decide (a.slice = b.slice) && decide (a.way = b.way) && decide (a.set = b.set)

/-- Replaces a line, or adds it. -/
def putLine (l : Line) (e : Engine) : Engine :=
  let c := e.cache
  let ls := if c.lines.any l.same then c.lines.map (fun m => if l.same m then l else m) else c.lines ++ [l]
  setCache { c with lines := ls } e

/-- Removes a line. -/
def dropLine (l : Line) (e : Engine) : Engine :=
  setCache { e.cache with lines := e.cache.lines.filter (fun m => !l.same m) } e

/-- SHD_SLC_WAY_STS.CRUMB_USED follows the buffer (R323). -/
def noteCrumb (n : Nat) (e : Engine) : Engine :=
  setF (.slcWaySts n) Fld.SLC_WAY_STS_CRUMB_USED
    ((e.cache.crumb.filter (fun c => decide (c.line.slice = n))).length) e

/-- A half of a line: its bytes and VERSION_LO, whether its check passes, whether it came from the cache. -/
structure Half where
  bytes  : List Byte
  ver    : Nat
  ok     : Bool
  cached : Bool
  deriving DecidableEq, Repr

/-- Half `h` of a line, if it is valid. -/
def Line.half (l : Line) (h : Nat) : Option Half :=
  if bitsOf l.valid h 1 = 1 then
    some ⟨(l.data.drop (32 * h)).take 32, l.vers.getD h 0, true, true⟩
  else none

/-- CRC-16 of a cache sector (R328): invalid halves count as zero. -/
def sectorCrc (l : Line) (k : Nat) : Nat :=
  let part (h : Nat) : List Byte :=
    if bitsOf l.valid h 1 = 1 then (l.data.drop (32 * h)).take 32 else List.replicate 32 0
  let ver (h : Nat) : Byte := if bitsOf l.valid h 1 = 1 then BitVec.ofNat 8 (l.vers.getD h 0) else 0
  crc16 (part (2 * k) ++ part (2 * k + 1) ++ [ver (2 * k), ver (2 * k + 1)])

/-- The line with half `h` written: its bytes, VERSION_LO, valid bit and sector CRC; dirty where it is a write. -/
def Line.put (l : Line) (h : Nat) (bytes : List Byte) (ver : Nat) (dirty : Bool) : Line :=
  let l := { l with
    data := l.data.take (32 * h) ++ bytes ++ l.data.drop (32 * h + 32)
    vers := l.vers.set h ver
    valid := Nat.lor l.valid (2 ^ h)
    dirty := if dirty then Nat.lor l.dirty (2 ^ (h / 2)) else l.dirty
    age := if dirty then 0 else l.age }
  { l with crc := l.crc.set (h / 2) (sectorCrc l (h / 2)) }

/-- A new line with nothing valid. -/
def newLineOf (n way src base table : Nat) (kind : LineKind) : Line :=
  { slice := n, way, set := addrSet src base, src, base, table, kind
    vers := List.replicate 16 0, data := List.replicate 512 0, crc := List.replicate 8 0 }

/-- One more access to a way (R329). -/
def wayAccess (n w : Nat) (e : Engine) : Engine :=
  let x := tget (0, 0) (n, w) e.cache.ways
  setCache { e.cache with ways := tput (n, w) (x.1, min (x.2 + 1) (2 ^ 20)) e.cache.ways } e

/-! Memory below the cache. -/

/-- An expansion die is admitted (R371). -/
def dieAdmitted (e : Engine) : Bool := getB .ucieSts Fld.UCIE_STS_ADMITTED e

/-- The memory of `src` can be read by this device: its own HBM, or the expansion die while it is admitted (R371,
R372). -/
def ownSrc (src : Nat) (e : Engine) : Bool := decide (src = thisDev e) || (decide (src = 64) && dieAdmitted e)

/-- Bytes of the memory `src`. -/
def srcRead (src a n : Nat) (e : Engine) : List Byte := memRead a n (if src = 64 then e.mem.exp else e.mem.hbm)

/-- The side bits of a sector that nothing has written: those of zero data with VERSION_LO 0
(DESIGN CHOICE, notes/assumptions/1.md). -/
def blankSide (sector : Nat) : BitVec 32 := sideBits (List.replicate 32 0) 0 (32 * sector)

/-- The side bits of a sector of the memory `src`. -/
def srcSide (src sector : Nat) (e : Engine) : BitVec 32 :=
  tget (blankSide sector) sector (if src = 64 then e.mem.expSide else e.mem.hbmSide)

/-- A sector as memory holds it, with its check (R70); a memory of another device cannot be read here. -/
def memHalf (src a : Nat) (e : Engine) : Half :=
  if !ownSrc src e then ⟨List.replicate 32 0, 0, false, false⟩ else
  let bs := srcRead src a 32 e
  let sd := srcSide src (a / 32) e
  let v : Byte := sd.extractLsb' 24 8
  ⟨bs, v.toNat, decide (sideBits bs v a = sd), false⟩

/-- The sector as the newest write in flight leaves it: accesses to one sector never pass each other (R332). -/
def flightHalf (src a : Nat) (e : Engine) : Option Half :=
  let hit (w : RowW) : Option Half :=
    (w.parts.find? (fun p => decide (p.src = src) && decide (p.addr ≤ a) && decide (a + 32 ≤ p.addr + p.bytes.length))).map
      (fun p => ⟨(p.bytes.drop (a - p.addr)).take 32, p.ver, !p.poison, false⟩)
  (e.cache.writes.reverse.filterMap hit).head?

/-- A sector as a tracker read of slice `n` sees it (R317, R324): the cache, the Crumb buffer, memory. -/
def seeHalf (n src a : Nat) (e : Engine) : Half :=
  let h := a % 512 / 32
  let inLine := (findLine n src (a / 512) e).bind (fun l => l.half h)
  let inCrumb := (findCrumb n src (a / 512) e).bind (fun c => c.line.half h)
  match inLine.or (inCrumb.or (flightHalf src a e)) with
  | some x => x
  | none => memHalf src a e

/-- `k` sectors from address `a`. -/
def seeHalves (n src a k : Nat) (e : Engine) : List Half :=
  (List.range k).map (fun i => seeHalf n src (a + 32 * i) e)

/-- A tracker read of `n`'s cache finds every sector there. -/
def allCached (n src a k : Nat) (e : Engine) : Bool := (seeHalves n src a k e).all (·.cached)

/-- Writes bytes with their side bits into the memory `src`; poisoned sectors get CHECK xor 0xFF_FFFF (R69, R398). -/
def storePart (p : WPart) (e : Engine) : Engine :=
  let m := e.mem
  let k := ceilDiv p.bytes.length 32
  let side (i : Nat) : Nat × BitVec 32 :=
    let sd := sideBits ((p.bytes.drop (32 * i)).take 32) (BitVec.ofNat 8 p.ver) (p.addr + 32 * i)
    (p.addr / 32 + i, if p.poison then sd ^^^ 0xFFFFFF else sd)
  let sides := (List.range k).map side
  if p.src = 64 then
    setMem { m with exp := memWrite p.addr p.bytes m.exp
                    expSide := sides.foldl (fun t s => tput s.1 s.2 t) m.expSide } e
  else if p.src = thisDev e then
    setMem { m with hbm := memWrite p.addr p.bytes m.hbm
                    hbmSide := sides.foldl (fun t s => tput s.1 s.2 t) m.hbmSide } e
  else e

/-! State rows (R88, R225). -/

/-- The moment count K of a rule (R225). -/
def momentCount (rule : Nat) : Nat :=
  if rule = 2 ∨ rule = 3 then 1 else if rule = 5 ∨ rule = 6 then 2 else 0

/-- The state row stride (R225). -/
def stateRowStride (i : BitVec 1024) : Nat := 32 * ceilDiv (32 + 4 * cWidth i * (1 + momentCount (cRule i))) 32

/-- A PARTNER_MAP entry names its partner. -/
def partnerEntry (d : Nat) (e : Engine) : Option Nat :=
  if getB (.partnerMap (d / 8)) (Fld.PARTNER_MAP_VALID (d % 8)) e
  then some (getF (.partnerMap (d / 8)) (Fld.PARTNER_MAP_PARTNER (d % 8)) e) else none

/-- The partner assigned to a device (R388). -/
def partnerOf (d : Nat) (e : Engine) : Option Nat :=
  match partnerEntry d e with
  | none => none
  | some p =>
    if p = d ∨ podSize e ≤ p ∨ (partnerEntry p e).isSome ∨
       3 < ((List.range 64).filter (fun x => decide (partnerEntry x e = some p))).length then none
    else some p

/-- The state device of rows of a slot held here: a device number, 64 for the expansion die, 65 for none (R88). -/
def stateSrc (slot : Nat) (e : Engine) : Nat :=
  match cTier (imgOf slot e) with
  | 1 => thisDev e
  | 2 => (partnerOf (thisDev e) e).getD 65
  | 3 => 64
  | _ => 65

/-- The address of a row's state row on its state device (R88). -/
def stateAddr (slot : Nat) (p : Place) (e : Engine) : Nat :=
  let i := imgOf slot e
  let a := cStateBase i + p.shard * cStateStride i * 4096 + p.rLocal * stateRowStride i
  if cTier i = 3 then a else p.slice * 2 ^ 37 + a

/-- The row whose state row covers an address of the state region of a slot. -/
def stateRowAt (slot a : Nat) (e : Engine) : Nat :=
  let i := imgOf slot e
  let off := (if cTier i = 3 then a else a % 2 ^ 37) - cStateBase i
  let s := off / (cStateStride i * 4096)
  let rl := off % (cStateStride i * 4096) / stateRowStride i
  if cCyclic i then rl * cShards i + s else s * cShardRows i + rl

/-- The state row of a row as the slice sees it; its sectors. -/
def stateHalves (n slot row : Nat) (e : Engine) : List Half :=
  let p := place slot row e
  seeHalves n (stateSrc slot e) (stateAddr slot p e) (stateRowStride (imgOf slot e) / 32) e

/-- Clears the dirty bits of sectors whose valid halves lie in `[lo, hi)` of a memory (R320). -/
def cleanRange (n src lo hi : Nat) (e : Engine) : Engine :=
  let clean (l : Line) : Line :=
    if l.slice ≠ n ∨ l.src ≠ src then l
    else
      let inside (h : Nat) : Bool :=
        bitsOf l.valid h 1 = 0 || (decide (lo ≤ l.base * 512 + 32 * h) && decide (l.base * 512 + 32 * h + 32 ≤ hi))
      { l with dirty := (List.range 8).foldl (fun d k =>
          if bitsOf d k 1 = 1 && inside (2 * k) && inside (2 * k + 1) then d - 2 ^ k else d) l.dirty }
  setCache { e.cache with
    lines := e.cache.lines.map clean
    crumb := e.cache.crumb.map (fun c => { c with line := clean c.line }) } e

/-- Issues the write-back of one dirty state row (R320, R239): one write to its memory, or a state write message to
the partner. -/
def writeBackState (n slot row : Nat) (e : Engine) : Engine :=
  let p := place slot row e
  let src := stateSrc slot e
  let a := stateAddr slot p e
  let hs := stateHalves n slot row e
  let bytes := (hs.map (·.bytes)).flatten
  -- a die that is not admitted takes no write (R372)
  if decide (64 ≤ src) && !ownSrc src e then cleanRange n src a (a + stateRowStride (imgOf slot e)) e else
  let i := takeId e
  let e := i.2
  let w : RowW := { id := i.1, slice := n, slot, row, evict := true
                    parts := if ownSrc src e then [{ src, addr := a, bytes, ver := (hs.map (·.ver)).headD 0 }] else [] }
  let e := setCache { e.cache with writes := e.cache.writes ++ [w] } e
  let e := if ownSrc src e then e
    else sendMsg { hdrTo src p.slice e with srcSlice := n, tableId := slot, gen := cGen (imgOf slot e) }
      (.stateWrite slot row bytes) e
  cleanRange n src a (a + stateRowStride (imgOf slot e)) e

/-- The state rows with a dirty sector in a line (R320). -/
def dirtyRows (l : Line) (e : Engine) : List Nat :=
  if l.kind ≠ .state then []
  else
    ((List.range 16).filterMap (fun h =>
      if bitsOf l.valid h 1 = 1 && bitsOf l.dirty (h / 2) 1 = 1 then some (stateRowAt l.table (l.base * 512 + 32 * h) e)
      else none)).eraseDups

/-- Writes back every dirty state row of a line (R320). -/
def writeBackLine (l : Line) (e : Engine) : Engine :=
  forEach (dirtyRows l e) (fun r e => writeBackState l.slice l.table r e) e

/-! Replacement (R318) and eviction (R323). -/

/-- A line is busy: a tracker read of it is in progress, or an HBM write of it is outstanding (R318). -/
def lineBusy (l : Line) (e : Engine) : Bool :=
  (decide (l.kind ≠ .state) && decide (l.dirty ≠ 0)) ||
  e.rowReqs.any (fun q => decide (q.slice = l.slice) && q.bases.contains (l.src, l.base))

/-- The Crumb buffer of a slice has room, or holds a clean entry that may be reused. -/
def crumbRoom (n : Nat) (e : Engine) : Bool :=
  let es := e.cache.crumb.filter (fun c => decide (c.line.slice = n))
  decide (es.length < 256) || es.any (fun c => c.wb.isNone && decide (c.line.dirty = 0))

/-- Removes the oldest clean entry of a full Crumb buffer. -/
def crumbReuse (n : Nat) (e : Engine) : Engine :=
  let es := e.cache.crumb.filter (fun c => decide (c.line.slice = n))
  if es.length < 256 then e
  else match es.find? (fun c => c.wb.isNone && decide (c.line.dirty = 0)) with
    | none => e
    | some c => setCache { e.cache with crumb := e.cache.crumb.erase c } e

/-- Evicts a line into the Crumb buffer and issues its write-back (R320, R323). -/
def evictLine (l : Line) (e : Engine) : Engine :=
  let e := dropLine l (crumbReuse l.slice e)
  if l.valid = 0 then e
  else
    let first := e.nextId
    let dirty := decide (l.dirty ≠ 0)
    let e := setCache { e.cache with crumb := e.cache.crumb ++ [{ line := l }] } e
    let e := if dirty then writeBackLine l e else e
    let same (c : CrumbEnt) : Bool := decide (c.line.slice = l.slice) && decide (c.line.src = l.src) && decide (c.line.base = l.base)
    let last := e.nextId
    let e := setCache { e.cache with crumb := e.cache.crumb.map (fun c =>
      if same c && decide (first < last) then { c with wb := some (last - 1) } else c) } e
    noteCrumb l.slice e

/-- The way that a new address line takes (R318): none where no line is eligible. -/
def victim (n src base : Nat) (kind : LineKind) (e : Engine) : Option (Nat × Option Line × Nat) :=
  let set := addrSet src base
  let ws := (List.range 24).filter (fun w => wayOpen n w e && decide (wayKind n w e = kindFor n kind e))
  let lineIn (w : Nat) : Option Line :=
    e.cache.lines.find? (fun l => decide (l.slice = n) && decide (l.way = w) && decide (l.set = set))
  let cand := ws.map (fun w => (w, lineIn w))
  match cand.find? (fun c => match c.2 with | none => true | some l => decide (l.valid = 0)) with
  | some c => some (c.1, c.2, 0)
  | none =>
    let ok := cand.filterMap (fun c => match c.2 with
      | some l => if lineBusy l e then none else some (c.1, l)
      | none => none)
    let top := (ok.map (fun c => c.2.age)).foldl max 0
    match ok.find? (fun c => decide (c.2.age = top)) with
    | some c => some (c.1, some c.2, 3 - top)
    | none => none

/-- Ages of the eligible lines of a set rise by `k` (R318 step 3). -/
def ageSet (n set k : Nat) (ws : List Nat) (e : Engine) : Engine :=
  if k = 0 then e
  else setCache { e.cache with lines := e.cache.lines.map (fun l =>
    if l.slice = n && decide (l.set = set) && ws.contains l.way && !lineBusy l e then { l with age := min 3 (l.age + k) } else l) } e

/-- The line of an address, allocated if it is absent; false where none is eligible (R317, R318). A clean Crumb line
moves back into the cache (R324). -/
def ensureLine (n src base table : Nat) (kind : LineKind) (e : Engine) : Bool × Engine :=
  match findLine n src base e with
  | some _ => (true, e)
  | none =>
    match victim n src base kind e with
    | none => (false, e)
    | some (w, old, rise) =>
      if (match old with | some l => decide (l.valid ≠ 0) && !crumbRoom n e | none => false) then (false, e)
      else
        let ws := (List.range 24).filter (fun v => wayOpen n v e && decide (wayKind n v e = kindFor n kind e))
        let e := ageSet n (addrSet src base) rise ws e
        let e := match old with | some l => evictLine { l with age := 3 } e | none => e
        match findCrumb n src base e with
        | some c =>
          if c.wb.isNone then
            let e := setCache { e.cache with crumb := e.cache.crumb.erase c } e
            (true, noteCrumb n (putLine { c.line with way := w } e))
          else (true, putLine (newLineOf n w src base table kind) e)
        | none => (true, putLine (newLineOf n w src base table kind) e)

/-- The sectors of `[a, a + 32 k)` grouped by line: A / 512 and the (half, index) pairs. -/
def byLine (a k : Nat) : List (Nat × List (Nat × Nat)) :=
  let xs := (List.range k).map (fun i => ((a + 32 * i) / 512, (a + 32 * i) % 512 / 32, i))
  ((xs.map (·.1)).eraseDups).map (fun b => (b, (xs.filter (fun x => decide (x.1 = b))).map (fun x => x.2)))

/-- Puts sectors into the cache of slice `n`, by fill or by write (R317, R319); a line that cannot be allocated
counts in NO_ALLOC. -/
def putHalves (n src a table : Nat) (kind : LineKind) (dirty : Bool) (hs : List (List Byte × Nat)) (e : Engine) : Engine :=
  forEach (byLine a hs.length) (fun g e =>
    let r := ensureLine n src g.1 table kind e
    if !r.1 then incF (.slcCacheCnt n) Fld.SLC_CACHE_CNT_NO_ALLOC 1 r.2
    else
      match findLine n src g.1 r.2 with
      | none => r.2
      | some l =>
        let l := g.2.foldl (fun l hi =>
          match hs[hi.2]? with
          | some (bs, v) =>
            if !dirty && (l.half hi.1).isSome then l else l.put hi.1 bs v dirty
          | none => l) l
        wayAccess n l.way (putLine { l with table, kind } r.2)) e

/-- A hit sets the age of each line it reads to 0 and advances its way's access count (R318, R329). -/
def touchLines (n src a k : Nat) (e : Engine) : Engine :=
  forEach (byLine a k) (fun g e =>
    match findLine n src g.1 e with
    | some l => wayAccess n l.way (putLine { l with age := 0 } e)
    | none => e) e

/-- Marks the sectors that a row write covers clean once its HBM write is done (R319). -/
def cleanPart (n : Nat) (p : WPart) (e : Engine) : Engine := cleanRange n p.src p.addr (p.addr + p.bytes.length) e

/-- Drops every line of a slice that satisfies a test, writing back dirty state rows first (R321, R326, R329). -/
def flushLines (f : Line → Bool) (e : Engine) : Engine :=
  let e := forEach (e.cache.lines.filter f) writeBackLine e
  setCache { e.cache with lines := e.cache.lines.filter (fun l => !f l)
                          crumb := e.cache.crumb.filter (fun c => !(f c.line && c.wb.isNone)) } e

end Sys2Proof.Machine
end

