-- ==== Sys2Proof/Machine/Rows.lean ====
section
/-! DEFINITION. Rows as a whole: the working copy with its scale code and outlier side-row, the state row, reads and
writes of one version at the home, regeneration, multicast (03 R69 to R73, 04 R107 to R115, 08 R223 to R246,
09 R259 to R267). -/

namespace Sys2Proof.Machine

/-! Formation of rows. -/

/-- The outlier channels a working copy is formed with: their codes are 0 in the main row and their values stand in
the side-row (R115, R235). The result is the main bytes, the side-row, elements quantised and clipped. -/
structure Regen where
  data : List Byte
  side : List Byte
  quantised : Nat
  clipped   : Nat
  deriving DecidableEq, Repr

/-- The code of one FP32 element of a row against its scale (R235). -/
def rowCode (f ls : Nat) (x : F32) : Nat × Bool :=
  if fmtScaled f then
    if f32IsFin x then encodeTz f (f32Neg x) ((f32Q x).div (lsScale ls)) else encodeNonFinite f x
  else narrow f x

/-- The working copy and side-row of FP32 values (R235). -/
def regen (img : BitVec 1024) (chans : List Nat) (ls : Nat) (vals : List F32) : Regen :=
  let f := cFormat img
  let codes := (List.range (cWidth img)).map (fun c =>
    if chans.contains c then (0, false) else rowCode f ls (vals.getD c 0))
  let sides := chans.map (fun c => narrow 1 (vals.getD c 0))
  { data := packCodes f (codes.map (·.1)) (cSectors img * 32)
    side := if cOutliers img = 0 then [] else packCodes 1 (sides.map (·.1)) 32
    quantised := if f = 0 then 0 else cWidth img
    clipped := (codes.filter (·.2)).length + (sides.filter (·.2)).length }

/-- The FP32 values of a working copy as pooling reads them, every outlier channel from the side-row (R113, R115). -/
def rowValues (img : BitVec 1024) (chans : List Nat) (v : RowVal) : List F32 :=
  if v.wide then (List.range (cWidth img)).map (fun e => BitVec.ofNat 32 (ofBytes ((v.data.drop (4 * e)).take 4)))
  else
    let f := cFormat img
    let codes := unpackCodes f (cWidth img) v.data
    let side := unpackCodes 1 16 v.side
    (List.range (cWidth img)).map (fun e =>
      match chans.findIdx? (fun c => decide (c = e)) with
      | some k => bf16ToF32 (side.getD k 0)
      | none => widen f v.ls (codes.getD e 0))

/-- The INT8 codes of a working copy (R142). -/
def rowInts (img : BitVec 1024) (v : RowVal) : List Int :=
  (unpackCodes 5 (cWidth img) v.data).map (fun (c : Nat) => if 128 ≤ c then Int.ofNat c - 256 else Int.ofNat c)

/-- The exact product grid × scale rounded away from zero (R236). -/
def widenAway (f ls code : Nat) : F32 :=
  let g := fmtDecode f code
  if fmtScaled f && f32IsFin g then
    let q := (f32Q g).mul (lsScale ls)
    let t := f32Round .zero (f32Neg g) q
    if (f32Q t).eqv q then t else t + 1
  else g

/-- The master widened from a working copy (R236). -/
def widenMaster (img : BitVec 1024) (chans : List Nat) (v : RowVal) : List F32 :=
  let f := cFormat img
  let codes := unpackCodes f (cWidth img) v.data
  let side := unpackCodes 1 16 v.side
  (List.range (cWidth img)).map (fun e =>
    match chans.findIdx? (fun c => decide (c = e)) with
    | some k => bf16ToF32 (side.getD k 0)
    | none => widenAway f v.ls (codes.getD e 0))

/-! State rows (R224, R225). -/

/-- A state row. -/
structure StRow where
  ver    : Nat := 0
  tLast  : Nat := 0
  nUpd   : Nat := 0
  ls     : Nat := 0
  touched : Bool := false
  mreset : Bool := false
  acc    : F32 := 0
  master : List F32 := []
  m      : List F32 := []
  v      : List F32 := []
  deriving DecidableEq, Repr

/-- FP32 values at a byte offset. -/
def f32sAt (bs : List Byte) (off n : Nat) : List F32 :=
  (List.range n).map (fun e => BitVec.ofNat 32 (ofBytes ((bs.drop (off + 4 * e)).take 4)))

/-- The bytes of FP32 values. -/
def f32Bytes (xs : List F32) : List Byte := (xs.map (fun x => toBytes 4 x.toNat)).flatten

/-- Bytes padded with zeros to `n`. -/
def padTo (n : Nat) (bs : List Byte) : List Byte := bs ++ List.replicate (n - bs.length) 0

/-- The row header of a state row (R224). -/
def parseHeader (bs : List Byte) : StRow :=
  let h := ofBytes (bs.take 32)
  { ver := bitsOf h 0 32, tLast := bitsOf h 32 32, nUpd := bitsOf h 64 32, ls := bitsOf h 96 8
    touched := decide (bitsOf h 104 1 = 1), mreset := decide (bitsOf h 105 1 = 1)
    acc := BitVec.ofNat 32 (bitsOf h 128 32) }

/-- A state row read from its bytes (R225). -/
def parseSt (img : BitVec 1024) (bs : List Byte) : StRow :=
  let w := cWidth img
  let k := momentCount (cRule img)
  { parseHeader bs with
    master := f32sAt bs 32 w
    m := if 1 ≤ k then f32sAt bs (32 + 4 * w) w else []
    v := if 2 ≤ k then f32sAt bs (32 + 8 * w) w else [] }

/-- The 32 bytes of a row header (R224). -/
def headerBytes (r : StRow) : List Byte :=
  toBytes 8 (r.ver % 2 ^ 32 + r.tLast % 2 ^ 32 * 2 ^ 32)
  ++ toBytes 8 (r.nUpd % 2 ^ 32 + r.ls % 256 * 2 ^ 32 + b2n r.touched * 2 ^ 40 + b2n r.mreset * 2 ^ 41)
  ++ toBytes 8 r.acc.toNat ++ toBytes 8 0

/-- The bytes of a state row, padded with zeros to its stride (R225). -/
def stBytes (img : BitVec 1024) (r : StRow) : List Byte :=
  padTo (stateRowStride img) (headerBytes r ++ f32Bytes r.master ++ f32Bytes r.m ++ f32Bytes r.v)

/-- Zero moments of a table's rule. -/
def zeroMoments (img : BitVec 1024) : List F32 × List F32 :=
  let k := momentCount (cRule img)
  (if 1 ≤ k then List.replicate (cWidth img) 0 else [], if 2 ≤ k then List.replicate (cWidth img) 0 else [])

/-- The moments of a row started again from zero (R246). -/
def resetMoments (img : BitVec 1024) (r : StRow) : StRow :=
  { r with m := (zeroMoments img).1, v := (zeroMoments img).2, nUpd := 0, mreset := true }

/-! Where a row's parts lie (R82, R114). -/

/-- The address of the row's scale code. -/
def pralineAddr (slot : Nat) (p : Place) (e : Engine) : Nat :=
  p.slice * 2 ^ 37 + p.base + cPraline (imgOf slot e) + p.inSlice

/-- The address of the header of the outlier region. -/
def outlierHdr (slot : Nat) (p : Place) (e : Engine) : Nat :=
  p.slice * 2 ^ 37 + p.base + cOutlierOff (imgOf slot e)

/-- The address of the row's outlier side-row. -/
def sideAddr (slot : Nat) (p : Place) (e : Engine) : Nat := outlierHdr slot p e + 32 * (1 + p.inSlice)

/-- The sector ranges of a row's working copy, scale code and side-row: address, sectors, kind (R112). -/
def rowParts (slot : Nat) (p : Place) (e : Engine) : List (Nat × Nat × LineKind) :=
  let i := imgOf slot e
  [(rowAddr slot p e, cSectors i, .working)]
  ++ (if fmtScaled (cFormat i) then [(pralineAddr slot p e / 32 * 32, 1, .praline)] else [])
  ++ (if cOutliers i = 0 then [] else [(sideAddr slot p e, 1, .outlier)])

/-- The outlier channels of a row's shard and slice, read from the region's header once and kept (R115); none where
the header fails its check. -/
def outlierChannels (slot : Nat) (p : Place) (e : Engine) : Option (List Nat) × Engine :=
  let i := imgOf slot e
  if cOutliers i = 0 then (some [], e)
  else
    let c := slotOf slot e
    match tfind (p.shard, p.slice) c.outl with
    | some l => (some l, e)
    | none =>
      let h := seeHalf p.slice (thisDev e) (outlierHdr slot p e) e
      if h.ok then
        let v := ofBytes h.bytes
        let l := (List.range (cOutliers i)).map (fun k => bitsOf v (16 * k) 12)
        (some l, setSlot slot { c with outl := tput (p.shard, p.slice) l c.outl } e)
      else (none, e)

/-- The channel list as kept, or as the header in memory gives it. -/
def chansOf (slot : Nat) (p : Place) (e : Engine) : List Nat := (outlierChannels slot p e).1.getD []

/-! Reading (R17, R72). -/

/-- The row as slice `n` sees it, and whether every sector passes its check and agrees in version (R72, R110). -/
def seeRow (n slot : Nat) (p : Place) (e : Engine) : RowVal × Bool :=
  let i := imgOf slot e
  let dev := thisDev e
  let main := seeHalves n dev (rowAddr slot p e) (cSectors i) e
  let pra := seeHalf n dev (pralineAddr slot p e / 32 * 32) e
  let side := seeHalf n dev (sideAddr slot p e) e
  let ver := (main.map (·.ver)).headD 0
  let sc := fmtScaled (cFormat i)
  let ou := decide (cOutliers i ≠ 0)
  ({ ver
     data := (main.map (·.bytes)).flatten
     ls := if sc then ((pra.bytes.getD (pralineAddr slot p e % 32) 0)).toNat else 0
     side := if ou then side.bytes else [] },
   main.all (fun h => h.ok && decide (h.ver = ver)) && (!sc || pra.ok) && (!ou || (side.ok && decide (side.ver = ver))))

/-- Every sector of the row is in the cache or the Crumb buffer of slice `n` (R317). -/
def rowCached (n slot : Nat) (p : Place) (e : Engine) : Bool :=
  (rowParts slot p e).all (fun r => allCached n (thisDev e) r.1 r.2.1 e)

/-- The state row's bytes as slice `n` sees them, and whether it is in the cache. -/
def seeState (n slot row : Nat) (e : Engine) : List Byte × Bool :=
  let hs := stateHalves n slot row e
  ((hs.map (·.bytes)).flatten, hs.all (·.cached))

/-- The state row can be read without another device: LOCAL, EXPANSION, or present as state lines (R239). -/
def stateHere (n slot row : Nat) (e : Engine) : Bool :=
  ownSrc (stateSrc slot e) e || (seeState n slot row e).2

/-- Fills the cache with a state row that has arrived (R240). -/
def fillState (n slot row : Nat) (bs : List Byte) (e : Engine) : Engine :=
  let p := place slot row e
  let ver := (parseHeader bs).ver % 256
  putHalves n (stateSrc slot e) (stateAddr slot p e) slot .state false
    ((List.range (bs.length / 32)).map (fun k => ((bs.drop (32 * k)).take 32, ver))) e

/-- Fills the cache of slice `n` with a row that has been read (R316, R317). -/
def fillRow (n slot : Nat) (p : Place) (e : Engine) : Engine :=
  let e0 := e
  forEach (rowParts slot p e) (fun r e =>
    let kind := if n = p.slice then r.2.2 else .copy
    putHalves n (thisDev e) r.1 slot kind false
      ((seeHalves p.slice (thisDev e0) r.1 r.2.1 e0).map (fun h => (h.bytes, h.ver))) e) e

/-! Groups and multicast (R266, R267). -/

/-- The members of a table's REPLICA_GROUP. -/
def groupMembers (slot : Nat) (e : Engine) : List Nat :=
  let g := cGroup (imgOf slot e)
  if g = 0 then []
  else (List.range 64).filter (fun d => decide (bitsOf (getReg (.nlMcast g) e).toNat d 1 = 1))

/-- The members a multicast of this home goes to: not itself, not dropped for the table, not lost (R266, R268). -/
def mcastTo (slot : Nat) (e : Engine) : List Nat :=
  (groupMembers slot e).filter (fun d => decide (d ≠ thisDev e) && reachable d e &&
    !(e.hot.dropped.any (fun x => decide (x.table = slot) && decide (x.member = d))))

/-- The engine with its hot-row part replaced. -/
def setHot (h : Hot) (e : Engine) : Engine := { e with hot := h }

/-- A header for the table of a slot. -/
def tableHdr (dev slice slot : Nat) (p : Place) (e : Engine) : Hdr :=
  { hdrTo dev slice e with srcSlice := p.slice, tableId := slot, epoch := p.epoch, gen := cGen (imgOf slot e) }

/-- Sends a payload to every member and awaits their acknowledgements (R263, R266, R267). -/
def multicast (slot row ver : Nat) (b : Body) (arg : Nat) (step : Option Nat) (acts : List VisAct) (e : Engine) : Engine :=
  let ms := mcastTo slot e
  let p := place slot row e
  if ms.isEmpty then e
  else
    let e := forEach ms (fun d e => sendMsg { tableHdr d p.slice slot p e with arg, ref := ver % 256 } b e) e
    setHot { e.hot with mcasts := e.hot.mcasts ++ [⟨slot, row, ver % 256, ms, now e, step, acts⟩] } e

/-- Writes of a row whose multicasts some member has not acknowledged (R259). -/
def openMcasts (slot row : Nat) (e : Engine) : Nat :=
  (e.hot.mcasts.filter (fun m => decide (m.table = slot) && decide (m.row = row))).length

/-! Visibility (R47, R267, R319). -/

/-- What a visible write does. -/
def fireAct (a : VisAct) (e : Engine) : Engine :=
  match a with
  | .item r i => itemPart r i e
  | .done dev slice ref item bits =>
    sendAnswer { hdrTo dev slice e with ref } (.writeDone item bits) e

/-- The write of a row is visible: its HBM write is done, its invalidations are acknowledged, and every member has
acknowledged its multicast or the drop (R86, R267, R319). -/
def writeVisible (w : RowW) (e : Engine) : Bool :=
  !w.hbm && w.inv.isEmpty && w.invAck.isEmpty &&
  !(e.hot.mcasts.any (fun m => decide (m.table = w.slot) && decide (m.row = w.row) && decide (m.ver = w.ver % 256)))

/-- Takes every visible write off the list and does what waits on it. -/
def settleWrites (e : Engine) : Engine :=
  let vis := e.cache.writes.filter (fun w => writeVisible w e)
  let e := setCache { e.cache with writes := e.cache.writes.filter (fun w => !writeVisible w e) } e
  forEach vis (fun w e => forEach w.acts fireAct e) e

/-! Writing (R72, R111, R223 step 5). -/

/-- Dirty state lines, or a direct write where no line can be allocated (R319). -/
def writeState (n slot row : Nat) (bs : List Byte) (e : Engine) : Engine :=
  let p := place slot row e
  let src := stateSrc slot e
  let a := stateAddr slot p e
  let ver := (parseHeader bs).ver % 256
  let e := putHalves n src a slot .state true
    ((List.range (bs.length / 32)).map (fun k => ((bs.drop (32 * k)).take 32, ver))) e
  if (stateHalves n slot row e).all (·.cached) || (decide (64 ≤ src) && !ownSrc src e) then e
  else
    let i := takeId e
    let e := i.2
    let w : RowW := { id := i.1, slice := n, slot, row, evict := true
                      parts := if ownSrc src e then [{ src, addr := a, bytes := bs, ver }] else [] }
    let e := setCache { e.cache with writes := e.cache.writes ++ [w] } e
    if ownSrc src e then e else sendMsg { tableHdr src p.slice slot p e with srcSlice := n } (.stateWrite slot row bs) e

/-- The parts of a row write: main row, the Praline sector with the row's code in place, side-row (R111). -/
def writeParts (slot : Nat) (p : Place) (v : RowVal) (e : Engine) : List WPart :=
  let i := imgOf slot e
  let dev := thisDev e
  let sec := pralineAddr slot p e / 32 * 32
  let pra := (seeHalf p.slice dev sec e).bytes.set (pralineAddr slot p e % 32) (BitVec.ofNat 8 v.ls)
  [{ src := dev, addr := rowAddr slot p e, bytes := padTo (cSectors i * 32) (v.data.take (cSectors i * 32)), ver := v.ver % 256 }]
  ++ (if fmtScaled (cFormat i) then [{ src := dev, addr := sec, bytes := pra, ver := 0 }] else [])
  ++ (if cOutliers i = 0 then [] else [{ src := dev, addr := sideAddr slot p e, bytes := padTo 32 v.side, ver := v.ver % 256 }])

/-- Sends a copy of a row to the new home of its shard (R274): `item` names it in the answer. -/
def sendCopy (m : Mig) (item row : Nat) (v : RowVal) (st : Option (List Byte)) (e : Engine) : Engine :=
  let p := place m.slot row e
  let i := imgOf m.slot e
  let slice := if cInterleave i then p.slice else m.newSlice
  let keep := match cTier i with | 0 => false | 2 => decide (partnerOf m.newDev e ≠ partnerOf (thisDev e) e) | _ => true
  let e := setHot { e.hot with migs := e.hot.migs.map (fun x =>
    if x.ref = m.ref then { x with open_ := x.open_ + 1 } else x) } e
  sendMsg { tableHdr m.newDev slice m.slot p e with ref := refNum m.ref }
    (.migrateCopy item row m.newBase v (if keep then st else none)) e

/-- The copy of a written row that a MIGRATE in its copy phase sends to the new home (R274). -/
def migrateAlso (slot row : Nat) (v : RowVal) (st : Option (List Byte)) (e : Engine) : Engine :=
  let p := place slot row e
  match e.hot.migs.find? (fun m => decide (m.slot = slot) && decide (m.shard = p.shard) && decide (m.phase = .copy) &&
      decide (p.rLocal < m.next)) with
  | none => e
  | some m =>
    sendCopy m (2 ^ 40 + p.rLocal) row v st e

/-- The write of one version of a row in one piece: working copy, scale code, side-row and state row, the HBM write issued,
copies under R86 to be invalidated (R72, R86, R111, R223, R319). -/
def storeRow (slot row : Nat) (v : RowVal) (st : Option (List Byte)) (acts : List VisAct) (e : Engine) : Engine :=
  let p := place slot row e
  let n := p.slice
  let i := imgOf slot e
  let parts := writeParts slot p v e
  let kinds := (rowParts slot p e).map (fun r => r.2.2)
  let e := forEach (parts.zip kinds) (fun q e =>
    putHalves n q.1.src q.1.addr slot q.2 true
      ((List.range (q.1.bytes.length / 32)).map (fun k => ((q.1.bytes.drop (32 * k)).take 32, q.1.ver))) e) e
  let e := match st with | some bs => writeState n slot row bs e | none => e
  let t := takeId e
  let e := t.2
  let others := if cInterleave i then [] else (List.range 4).filter (fun k => decide (k ≠ n))
  let w : RowW := { id := t.1, slice := n, slot, row, ver := v.ver, parts, inv := others, acts }
  setCache { e.cache with writes := e.cache.writes ++ [w] } e

/-- One tracker-ordered write of a row that advances its version: it is stored, sent to the new home of a migrating shard,
and multicast (R223, R266, R274). -/
def acceptRow (slot row : Nat) (v : RowVal) (st : Option (List Byte)) (step : Option Nat) (acts : List VisAct)
    (e : Engine) : Engine :=
  let p := place slot row e
  let e := migrateAlso slot row v st (storeRow slot row v st acts e)
  if cGroup (imgOf slot e) = 0 then e
  else multicast slot row v.ver (.mcastRow slot row 0 { v with chans := chansOf slot p e }) 0 step [] e

/-- Poisons the sectors of a row's working copy (R398), and with `praline` writes its scale code as 128. -/
def poisonRow (slot row ref detail : Nat) (praline : Bool) (e : Engine) : Engine :=
  let p := place slot row e
  let i := imgOf slot e
  let h := seeHalves p.slice (thisDev e) (rowAddr slot p e) (cSectors i) e
  let main : WPart := { src := thisDev e, addr := rowAddr slot p e, poison := true
                        bytes := (h.map (·.bytes)).flatten, ver := (h.map (·.ver)).headD 0 }
  let sec := pralineAddr slot p e / 32 * 32
  let pra := (seeHalf p.slice (thisDev e) sec e).bytes.set (pralineAddr slot p e % 32) 128
  let first : WPart := { main with bytes := main.bytes.take 32 }
  let parts := if praline then [{ src := thisDev e, addr := sec, bytes := pra, ver := 0 }, first] else [main]
  let drop (l : Line) : Bool := decide (l.src = thisDev e) && decide (l.table = slot) && decide (l.kind ≠ .state) &&
    parts.any (fun q => decide (q.addr / 512 ≤ l.base) && decide (l.base ≤ (q.addr + q.bytes.length - 1) / 512))
  let e := setCache { e.cache with lines := e.cache.lines.filter (fun l => !drop l)
                                   crumb := e.cache.crumb.filter (fun c => !drop c.line) } e
  let e := forEach parts storePart e
  logEvent { cluster := 2, slice := p.slice, typ := 0x12, tableId := slot, row, ref, code := detail
             arg := if praline then 1 else cSectors i } e

/-! Versions (R71, R458). -/

/-- The version of a row as its rules report it: the header's, or VERSION_LO where the table has no state tier. -/
def fullVersion (slot : Nat) (lo : Nat) (st : Option (List Byte)) (e : Engine) : Nat :=
  if cTier (imgOf slot e) = 0 then lo % 256
  else match st with
    | some bs => (parseHeader bs).ver
    | none => lo % 256

/-- The version after `v` (R71, R458). -/
def nextVersion (slot v : Nat) (e : Engine) : Nat :=
  if cTier (imgOf slot e) = 0 then (v + 1) % 256 else (v + 1) % 2 ^ 32

/-- Adds to a slot's regeneration counters; both saturate (R107). -/
def countRegen (slot quantised clipped : Nat) (e : Engine) : Engine :=
  let c := slotOf slot e
  setSlot slot { c with regenQ := satAdd 64 c.regenQ quantised, regenC := satAdd 64 c.regenC clipped } e

/-- The working copy regenerated from a master and written with VERSION advanced (R235, R246, R458): the new row. -/
def regenerateFrom (slot row : Nat) (st : StRow) (e : Engine) : RowVal × Engine :=
  let p := place slot row e
  let i := imgOf slot e
  let chans := chansOf slot p e
  let ls := if fmtScaled (cFormat i) then st.ls else 0
  let g := regen i chans ls st.master
  let ver := (st.ver + 1) % 2 ^ 32
  let v : RowVal := { ver, data := g.data, ls, side := g.side }
  (v, acceptRow slot row v (some (stBytes i { st with ver })) none [] (countRegen slot g.quantised g.clipped e))

/-- A record of the update unit's cluster that names a row. -/
def logRow (cluster typ slot row ref : Nat) (e : Engine) : Engine :=
  logEvent { cluster, slice := (place slot row e).slice, typ, tableId := slot, row, ref } e

/-! Replicas (R258). -/

/-- A replica of a row on this device. -/
def findReplica (table row : Nat) (e : Engine) : Option Replica :=
  e.hot.replicas.find? (fun r => decide (r.table = table) && decide (r.row = row))

/-- Lines held by explicit and automatic replicas of a slice are counted in SHD_SLC_REPL_STS. -/
def noteReplicas (n : Nat) (e : Engine) : Engine :=
  let lines (a : Bool) := ((e.hot.replicas.filter (fun r => decide (r.slice = n) && decide (r.auto = a))).map (·.lines)).foldl (· + ·) 0
  setF (.slcReplSts n) Fld.SLC_REPL_STS_LINES_EXPLICIT (lines false)
    (setF (.slcReplSts n) Fld.SLC_REPL_STS_LINES_AUTO (lines true) e)

/-- The engine with a replica changed. -/
def updReplica (table row : Nat) (f : Replica → Replica) (e : Engine) : Engine :=
  setHot { e.hot with replicas := e.hot.replicas.map (fun r => if r.table = table ∧ r.row = row then f r else r) } e

/-- Frees every replica that satisfies a test. -/
def freeReplicas (f : Replica → Bool) (e : Engine) : Engine :=
  let e := setHot { e.hot with replicas := e.hot.replicas.filter (fun r => !f r) } e
  forEach (List.range 4) noteReplicas e

/-- Lines of a replica of a slot's table (R258). -/
def replicaLines (slot : Nat) (e : Engine) : Nat := ceilDiv (cSectors (imgOf slot e) * 32 + 64) 512

/-- The first Truffle way whose lines are free in all the sets a row needs (R258). -/
def truffleWay (n table row : Nat) (e : Engine) : Option Nat :=
  let l := replicaLines table e
  let h := rowSet table row
  let uses (r : Replica) (s : Nat) : Bool := decide ((s + 4096 - r.set) % 4096 < r.lines)
  (List.range 24).find? (fun w => decide (wayKind n w e = 3) && wayOpen n w e &&
    (List.range l).all (fun k => !(e.hot.replicas.any (fun r =>
      decide (r.slice = n) && decide (r.way = w) && uses r ((h + k) % 4096)))))

/-- Sends the replica fetch of a row to its current home (R261). -/
def sendFetch (table row : Nat) (e : Engine) : Engine :=
  let p := place table row e
  sendMsg (tableHdr p.device p.slice table p e) (.replicaFetch table row) e

/-- Sets a replica to PENDING and fetches the row (R261). -/
def refetch (table row : Nat) (e : Engine) : Engine :=
  sendFetch table row (updReplica table row (fun r =>
    { r with st := .pending, tries := 0, t0 := now e, dropped := r.dropped || decide (r.st = .invalid) }) e)

end Sys2Proof.Machine
end

