-- ==== Sys2Proof/Machine/Cores.lean ====
section
/-! DEFINITION. Cores, positions and slices in and out of service: detections, failures, block replay, offline slices
(14_integrity_recovery_log.md R394 to R408). -/

namespace Sys2Proof.Machine

/-- The physical core that fills a service position (R14, R413). -/
def coreAt (n pos : Nat) (e : Engine) : Nat :=
  getF (.slcCoreMap n (pos / 8)) (Fld.SLC_CORE_MAP_CORE (pos % 8)) e

/-- A position is filled. -/
def posFilled (n pos : Nat) (e : Engine) : Bool :=
  getB (.slcCoreMap n (pos / 8)) (Fld.SLC_CORE_MAP_FILLED (pos % 8)) e

/-- Fills a position with a core. -/
def setCore (n pos core : Nat) (e : Engine) : Engine :=
  setF (.slcCoreMap n (pos / 8)) (Fld.SLC_CORE_MAP_CORE (pos % 8)) core
    (setF (.slcCoreMap n (pos / 8)) (Fld.SLC_CORE_MAP_FILLED (pos % 8)) 1 e)

/-- The slice has a standby spare. -/
def hasStandby (n : Nat) (e : Engine) : Bool := getB (.slcSpareSts n) Fld.SLC_SPARE_STS_STANDBY_VALID e

/-- The slice whose memory side stands but whose cores do not: its stand-in, the first in-service slice among s xor 1,
s xor 2 and s xor 3 (R408). -/
def standInOf (n : Nat) (e : Engine) : Option Nat :=
  ([1, 2, 3].map (Nat.xor n)).find? (fun k => decide (getF (.slcSts k) Fld.SLC_STS_STATE e < 2))

/-- The slice that pools what is addressed to slice `n` (R408). -/
def poolSlice (n : Nat) (e : Engine) : Nat :=
  if getF (.slcSts n) Fld.SLC_STS_STATE e = 2 then (standInOf n e).getD n else n

/-- A slice in POWER_OFF (R437). -/
def slicePoweredOff (n : Nat) (e : Engine) : Bool := decide (getF (.slcSts n) Fld.SLC_STS_STATE e = 3)

/-- A slice enters a state, with its log record and, for OFFLINE, the alert (R408, R413). -/
def enterSliceState (n st code : Nat) (auto : Bool) (e : Engine) : Engine :=
  let e := setF (.slcSts n) Fld.SLC_STS_STATE st e
  let e := setF (.slcSts n) Fld.SLC_STS_AUTO (b2n auto) e
  let si := if st = 2 then (standInOf n e).getD 0 else 0
  let e := setF (.slcSts n) Fld.SLC_STS_STAND_IN si e
  let e := if st = 2 then setAlert Fld.FAULT_STS_SLICE_OFFLINE e else e
  logEvent { cluster := 7, slice := n, typ := 0x06, ref := st, code, arg := si } e

/-- The engine takes a slice offline: it is offline once its tasks in flight have completed (R408). -/
def sliceOutAuto (n code : Nat) (e : Engine) : Engine :=
  if 2 ≤ getF (.slcSts n) Fld.SLC_STS_STATE e then e
  else
    let e := { e with safe := { e.safe with autoOff := tput n code e.safe.autoOff } }
    enterSliceState n 1 code true e

/-- A slice without a standby spare takes its test spare once that has passed its test (R406, R456). -/
def promoteTest (n : Nat) (e : Engine) : Engine :=
  let sp := Reg.slcSpareSts n
  if hasStandby n e || !getB sp Fld.SLC_SPARE_STS_TEST_VALID e || e.safe.testing.contains n then e
  else
    setF sp Fld.SLC_SPARE_STS_STANDBY (getF sp Fld.SLC_SPARE_STS_TEST e)
      (setF sp Fld.SLC_SPARE_STS_STANDBY_VALID 1 (setF sp Fld.SLC_SPARE_STS_TEST_VALID 0 e))

/-- A core is failed (R407). A third failure of a slice leaves a position without a core, and the slice goes
offline. -/
def failCore (n core code : Nat) (e : Engine) : Engine :=
  if e.safe.failed.contains (n, core) then e
  else
    let sp := Reg.slcSpareSts n
    let k := (e.safe.failed.filter (fun f => decide (f.1 = n))).length + 1
    let e := { e with safe := { e.safe with failed := (n, core) :: e.safe.failed } }
    let e := setF sp Fld.SLC_SPARE_STS_FAILED (min k 3) e
    let e := setF sp Fld.SLC_SPARE_STS_LAST_FAILED core e
    let isTest := getB sp Fld.SLC_SPARE_STS_TEST_VALID e && decide (getF sp Fld.SLC_SPARE_STS_TEST e = core)
    let isStandby := hasStandby n e && decide (getF sp Fld.SLC_SPARE_STS_STANDBY e = core)
    let e := if isTest then setF sp Fld.SLC_SPARE_STS_TEST_VALID 0 e
      else if isStandby then promoteTest n (setF sp Fld.SLC_SPARE_STS_STANDBY_VALID 0 e) else e
    let e := logEvent { cluster := 7, slice := n, typ := 0x05, ref := core, code, arg := min k 3 } e
    let e := setAlert Fld.FAULT_STS_SPARE_USED e
    if 3 ≤ k then sliceOutAuto n code e else e

/-- A detection against a physical core: two within 1 s fail it (R394, R407). -/
def coreDetection (n core code : Nat) (e : Engine) : Engine :=
  let old := e.safe.detects.any (fun d => decide (d.1 = n) && decide (d.2.1 = core) &&
    decide (now e - d.2.2 ≤ usTicks 1000000))
  let e := { e with safe := { e.safe with detects :=
    (n, core, now e) :: e.safe.detects.filter (fun d => decide (d.1 ≠ n) || decide (d.2.1 ≠ core)) } }
  let again := decide (code = 0x07) && (match tfind (n, 0x700 + core) e.safe.mismatch with
    | some t => decide (now e - t ≤ usTicks 1000)
    | none => false)
  let e := if code = 0x07 then
      { e with safe := { e.safe with mismatch := tput (n, 0x700 + core) (now e) e.safe.mismatch } } else e
  if old || again then failCore n core code e else e

/-- The blocks of R395 whose second mismatch takes the slice offline; the others belong to the memory side. -/
inductive Block where
  | glaze | stream | core | tracker | cache | update | sorter | sketch | adapter
  deriving DecidableEq, Repr

/-- A mismatch of a duplicated block: it is replayed; a second one within 1 ms makes the block faulty (R395, R402). -/
def blockMismatch (n code : Nat) (b : Block) (e : Engine) : Engine :=
  let key : Nat := match b with
    | .glaze => 1 | .stream => 2 | .core => 3 | .tracker => 4 | .cache => 5 | .update => 6 | .sorter => 7
    | .sketch => 8 | .adapter => 9
  let k := code * 16 + key
  let again := match tfind (n, k) e.safe.mismatch with
    | some t => decide (now e - t ≤ usTicks 1000)
    | none => false
  let e := { e with safe := { e.safe with mismatch := tput (n, k) (now e) e.safe.mismatch } }
  if !again then e
  else match b with
    | .glaze | .stream | .core => sliceOutAuto n code e
    | _ => enterFault code n false false e

end Sys2Proof.Machine
end

