-- ==== Sys2Proof/Machine/Bags.lean ====
section
/-! DEFINITION. Tiles, contributions, the checker lane, bags at the owner and sub-lists at the home
(05_lookup_and_pooling.md R131 to R149, 04 R113 to R115, 14 R392). -/

namespace Sys2Proof.Machine

/-! Tiles (R15). -/

/-- 64 lanes at +0. -/
def zeroLanes : List Lane := List.replicate 64 ⟨0, 0⟩

/-- The lanes of a tile; a tile nothing wrote holds +0 (R427). -/
def tileOf (k : Nat × Nat × Nat) (e : Engine) : Tile :=
  let t := tget {} k e.tiles
  { t with lanes := if t.lanes.isEmpty then zeroLanes else t.lanes
           outl := if t.outl.isEmpty then List.replicate 16 ⟨0, 0⟩ else t.outl }

/-- The engine with a tile replaced. -/
def setTile (k : Nat × Nat × Nat) (t : Tile) (e : Engine) : Engine := { e with tiles := tput k t e.tiles }

/-- A tile group: slice, service position, first tile, tiles. -/
structure Group where
  slice : Nat
  pos   : Nat
  first : Nat
  tiles : Nat
  deriving DecidableEq, Repr

/-- The lanes of a group, in channel order. -/
def groupLanes (g : Group) (e : Engine) : List Lane :=
  ((List.range g.tiles).map (fun k => (tileOf (g.slice, g.pos, g.first + k) e).lanes)).flatten

/-- The outlier lanes of a group, held with its first tile. -/
def groupOutl (g : Group) (e : Engine) : List Lane := (tileOf (g.slice, g.pos, g.first) e).outl

/-- A tile of the group is saturated (R141). -/
def groupSat (g : Group) (e : Engine) : Bool :=
  (List.range g.tiles).any (fun k => (tileOf (g.slice, g.pos, g.first + k) e).sat)

/-- Replaces the lanes and outlier lanes of a group; `sat` adds to its TILE_SAT. -/
def setGroup (g : Group) (lanes outl : List Lane) (sat : Bool) (e : Engine) : Engine :=
  forEach (List.range g.tiles) (fun k e =>
    let key := (g.slice, g.pos, g.first + k)
    let t := tileOf key e
    setTile key { t with lanes := (lanes.drop (64 * k)).take 64
                         outl := if k = 0 then outl else t.outl
                         sat := t.sat || sat } e) e

/-- The bytes of lanes in a scratch slot or a save image: 8 B per lane, s first (R149, R356). -/
def laneBytes (ls : List Lane) : List Byte := (ls.map (fun l => toBytes 4 l.s.toNat ++ toBytes 4 l.c.toNat)).flatten

/-- Lanes read from such bytes. -/
def lanesOf (n : Nat) (bs : List Byte) : List Lane :=
  (List.range n).map (fun k =>
    ⟨BitVec.ofNat 32 (ofBytes ((bs.drop (8 * k)).take 4)), BitVec.ofNat 32 (ofBytes ((bs.drop (8 * k + 4)).take 4))⟩)

/-- Starts a group for a bag: the given sums, compensation terms +0, TILE_SAT clear (R136, R141). -/
def startGroup (g : Group) (sums : List F32) (e : Engine) : Engine :=
  forEach (List.range g.tiles) (fun k e =>
    setTile (g.slice, g.pos, g.first + k)
      { lanes := (List.range 64).map (fun l => ⟨sums.getD (64 * k + l) 0, 0⟩)
        outl := List.replicate 16 ⟨0, 0⟩, sat := false } e) e

/-! Contributions (R138, R142, R392). -/

/-- A contribution: a value per channel, none where an outlier lane takes it; the outlier values; every value for the
checker; INT8 codes under ACC_INT. -/
structure Contrib where
  main : List (Option F32)
  outl : List F32 := []
  all  : List F32
  ints : List Int := []
  deriving DecidableEq, Repr

/-- Adds main values lane by lane. -/
def lanesAdd (w : F32) : List Lane → List (Option F32) → List Lane × Bool
  | l :: ls, x :: xs =>
    let r := match x with
      | some v => laneAdd l w v
      | none => (l, false)
    let t := lanesAdd w ls xs
    (r.1 :: t.1, r.2 || t.2)
  | ls, _ => (ls, false)

/-- The exact sum of finite values, none where a value is not finite. -/
def exactSum (xs : List F32) : Option Q :=
  if xs.all f32IsFin then some ((xs.map f32Q).foldl Q.add (Q.ofInt 0)) else none

/-- The checker lane after a contribution (R392); not finite once a value was not. -/
def checkAdd (chk : Lane) (w : F32) (all : List F32) : Lane :=
  match exactSum all with
  | none => ⟨f32NaN, 0⟩
  | some q =>
    let hi := rn false q
    if !f32IsFin hi || !f32IsFin w || !f32IsFin chk.s then ⟨f32NaN, 0⟩
    else
      let lo := rn false (q.sub (f32Q hi))
      let eq := (f32Q chk.s).add (((f32Q w).mul (f32Q hi)).add ((f32Q w).mul (f32Q lo)))
      (addExact chk false eq f32Zero).1

/-- Adds a contribution to a group: its lanes, outlier lanes and TILE_SAT. -/
def groupAdd (g : Group) (accInt : Bool) (w : F32) (c : Contrib) (e : Engine) : Engine :=
  if accInt then
    let r := lanesZip (fun l v => let t := intAdd l.s v; (⟨t.1, 0⟩, t.2)) (groupLanes g e) c.ints
    setGroup g r.1 (groupOutl g e) r.2 e
  else
    let m := lanesAdd w (groupLanes g e) c.main
    let o := lanesAdd w (groupOutl g e) (c.outl.map some)
    setGroup g m.1 o.1 (m.2 || o.2) e

/-- A contribution of one row: outlier channels go to the outlier lanes (R115), and under `flat` (a half of a composed
pair) to the main lanes. -/
def contribOf (img : BitVec 1024) (chans : List Nat) (v : RowVal) (flat accInt : Bool) : Contrib :=
  let all := rowValues img chans v
  let ch := if v.wide || flat then [] else chans
  { main := (List.range (cWidth img)).map (fun c => if ch.contains c then none else some (all.getD c 0))
    outl := ch.map (fun c => all.getD c 0)
    all
    ints := if accInt then rowInts img v else [] }

/-- The contribution of plain values. -/
def contribVals (vals : List F32) : Contrib := { main := vals.map some, all := vals }

/-- The contribution of an activation row (R176): widened under R120 with the record's scale and zero point. -/
def activationVals (width fmt : Nat) (v : RowVal) : List F32 :=
  let scale : F32 := BitVec.ofNat 32 (ofBytes (v.side.take 4))
  let zp : F32 := BitVec.ofNat 32 (ofBytes ((v.side.drop 4).take 4))
  (unpackCodes (ofFmt fmt) width v.data).map (streamWiden fmt scale zp)

/-! Jobs and bags. -/

/-- The pooling run of a job. -/
def poolOf (r : TaskRef) (e : Engine) : Option PoolRun := (findJob r e).bind (·.pool)

/-- The engine with a pooling run changed. -/
def updPool (r : TaskRef) (f : PoolRun → PoolRun) (e : Engine) : Engine :=
  updJob r (fun j => { j with pool := j.pool.map f }) e

/-- A bag of a pooling run. -/
def findBag (r : TaskRef) (b : Nat) (e : Engine) : Option Bag :=
  (poolOf r e).bind (fun p => p.bags.find? (fun x => decide (x.idx = b)))

/-- The engine with a bag changed. -/
def updBag (r : TaskRef) (b : Nat) (f : Bag → Bag) (e : Engine) : Engine :=
  updPool r (fun p => { p with bags := p.bags.map (fun x => if x.idx = b then f x else x) }) e

/-- The engine with one participant of a bag changed. -/
def updPart (r : TaskRef) (b k : Nat) (f : Part → Part) (e : Engine) : Engine :=
  updBag r b (fun x => { x with parts := (x.parts.zipIdx).map (fun q => if q.2 = k then f q.1 else q.1) }) e

/-- The slice whose cores pool the bags of a job. -/
def poolAt (j : Job) (e : Engine) : Nat := poolSlice j.slice e

/-- Tiles of one bag of a run. -/
def runTiles (c : PoolCfg) : Nat := cTilesPerBag c.width

/-- The tile group of participant `k` of a bag. -/
def partGroup (slice : Nat) (c : PoolCfg) (b : Bag) (k : Nat) : Group :=
  let p := b.parts.getD k ⟨0, 0, 0, ⟨0, 0⟩, false⟩
  { slice, pos := p.pos, first := p.tile, tiles := runTiles c }

/-- A contribution reaches participant `k` of a bag. -/
def bagContrib (r : TaskRef) (b k : Nat) (w : F32) (c : Contrib) (e : Engine) : Engine :=
  match findJob r e, findBag r b e with
  | some j, some x =>
    match j.pool with
    | none => e
    | some p =>
      let e := groupAdd (partGroup (poolAt j e) p.cfg x k) p.cfg.accInt w c e
      let e := updPart r b k (fun q => { q with chk := if p.cfg.accInt then q.chk else checkAdd q.chk w c.all }) e
      progress r (updBag r b (fun x => { x with chkInt := x.chkInt + c.ints.foldl (· + ·) 0 }) e)
  | _, _ => e

/-- One awaited row of a participant has come. -/
def bagGot (r : TaskRef) (b k : Nat) (e : Engine) : Engine := updPart r b k (fun q => { q with waiting := q.waiting - 1 }) e

/-- Half of a composed pair has come; with the other half, the product is pooled (R78, R113). -/
def bagPair (r : TaskRef) (b k : Nat) (w : F32) (key : Nat) (vals : List F32) (e : Engine) : Engine :=
  match findBag r b e with
  | none => e
  | some x =>
    match tfind key x.halves with
    | none => updBag r b (fun x => { x with halves := tput key vals x.halves }) e
    | some other =>
      let e := updBag r b (fun x => { x with halves := tdel key x.halves }) e
      bagContrib r b k w (contribVals (List.zipWith f32Mul other vals)) e

/-! Home runs (R144, R146). -/

/-- The home run of a number. -/
def findHome (id : Nat) (e : Engine) : Option HomeRun := e.homeRuns.find? (fun h => decide (h.id = id))

/-- The engine with a home run changed. -/
def updHome (id : Nat) (f : HomeRun → HomeRun) (e : Engine) : Engine :=
  { e with homeRuns := e.homeRuns.map (fun h => if h.id = id then f h else h) }

/-- The tile group of a home run. -/
def homeGroup (h : HomeRun) : Group := { slice := h.at_.1, pos := h.at_.2.1, first := h.at_.2.2, tiles := h.tiles }

/-- A contribution reaches a home run. -/
def homeContrib (id : Nat) (w : F32) (c : Contrib) (e : Engine) : Engine :=
  match findHome id e with
  | none => e
  | some h =>
    let e := groupAdd (homeGroup h) h.accInt w c e
    updHome id (fun h => { h with chk := if h.accInt then h.chk else checkAdd h.chk w c.all
                                  chkInt := h.chkInt + c.ints.foldl (· + ·) 0 }) e

/-- One awaited row of a home run has come, or has no source. -/
def homeGot (id : Nat) (lost recomp : Bool) (e : Engine) : Engine :=
  updHome id (fun h => { h with waiting := h.waiting - 1, lost := h.lost || lost, recomp := h.recomp || recomp }) e

/-- The outlier lanes merged into the lanes of their channels (R115, R140). -/
def mergeOutl (lanes outl : List Lane) (chans : List Nat) : List Lane × Bool :=
  (chans.zipIdx).foldl (fun a c =>
    let r := laneMerge (a.1.getD c.1 ⟨0, 0⟩) (outl.getD c.2 ⟨0, 0⟩)
    (a.1.set c.1 r.1, a.2 || r.2)) (lanes, false)

/-- The channels of a slot's outlier lanes: the same in every shard and slice, as kept for any of them (R115). -/
def anyChans (slot : Nat) (e : Engine) : List Nat :=
  match (slotOf slot e).outl with
  | (_, l) :: _ => l
  | [] => []

/-! Tiles that two tasks name (R19, R161). -/

/-- Tiles that a task names on a slice: a range of positions and a range of tiles. -/
structure Area where
  slice : Nat
  pos   : Nat
  count : Nat
  tile  : Nat
  tiles : Nat

/-- A tile group meets an area. -/
def meets (g : Group) (a : Area) : Bool :=
  decide (g.slice = a.slice) && decide (a.pos ≤ g.pos) && decide (g.pos < a.pos + a.count) &&
  decide (g.first < a.tile + a.tiles) && decide (a.tile < g.first + g.tiles)

/-- The tiles that a running pooling task names: its own, and under SPLIT_EN the split tile group (R135, R148). -/
def jobAreas (j : Job) (e : Engine) : List Area :=
  match j.pool with
  | none => []
  | some p =>
    let c := p.cfg
    let r := Reg.slcProfCtl j.slice c.profile
    { slice := poolAt j e, pos := c.pos, count := c.posCount, tile := c.tile, tiles := c.span } ::
    (if c.gather || isNear j.ref || getF r Fld.SLC_PROF_CTL_SPLIT_EN e = 0 then []
     else [{ slice := poolAt j e, pos := c.pos, count := c.posCount, tile := getF r Fld.SLC_PROF_CTL_SPLIT_TILE e, tiles := runTiles c }])

/-- The tile groups of a bag. -/
def bagGroups (j : Job) (x : Bag) (e : Engine) : List Group :=
  match j.pool with
  | none => []
  | some p => (List.range x.parts.length).map (partGroup (poolAt j e) p.cfg x)

/-- The group meets tiles that a running task, other than `r` where one is given, names. -/
def namedBy (r : Option TaskRef) (g : Group) (e : Engine) : Bool :=
  e.jobs.any (fun k => decide (some k.ref ≠ r) && (jobAreas k e).any (meets g))

/-- A group as an area. -/
def Group.area (g : Group) : Area := { slice := g.slice, pos := g.pos, count := 1, tile := g.first, tiles := g.tiles }

/-- A bag opens. Its outputs are undefined where its tiles meet those of another task, or of a sub-list pooled here, and
so are those of the bags of other tasks in tiles that its own task names (R19, R161). -/
def noteOverlap (r : TaskRef) (b : Nat) (e : Engine) : Engine :=
  match findJob r e, findBag r b e with
  | some j, some x =>
    let gs := bagGroups j x e
    let home := e.homeRuns.any (fun h => !h.held && gs.any (fun g => meets g (homeGroup h).area))
    let e' := if home || gs.any (fun g => namedBy (some r) g e) then updJob r (fun j => { j with undef := b :: j.undef }) e else e
    { e' with jobs := e'.jobs.map (fun k =>
        let hit := match k.pool with
          | some p => if k.ref = r then [] else p.bags.filter (fun y => (bagGroups k y e).any (fun g => (jobAreas j e).any (meets g)))
          | none => []
        if hit.isEmpty then k else { k with undef := hit.map (·.idx) ++ k.undef }) }
  | _, _ => e

/-- A home tile group is taken for a sub-list: the bags of tasks here that are open in its tiles become undefined (R161). -/
def noteHome (g : Group) (e : Engine) : Engine :=
  { e with jobs := e.jobs.map (fun k =>
      let hit := match k.pool with
        | some p => p.bags.filter (fun y => (bagGroups k y e).any (fun x => meets x g.area))
        | none => []
      if hit.isEmpty then k else { k with undef := hit.map (·.idx) ++ k.undef }) }

/-! The ABFT check (R393). -/

/-- Two sums agree: |S - C| ≤ 2^-20 × max(|S|, |C|). -/
def sumsAgree (a b : F32) : Bool :=
  f32IsFin a && f32IsFin b &&
  (((f32Q a).sub (f32Q b)).abs).le ((Q.max (f32Q a).abs (f32Q b).abs).mul ⟨1, 2 ^ 20⟩)

/-- S: the exact sum of s + c over lanes, rounded once. -/
def lanesSum (lanes : List Lane) : F32 :=
  match exactSum (lanes.map (·.s)), exactSum (lanes.map (·.c)) with
  | some a, some b => rn false (a.add b)
  | _, _ => f32NaN

/-- The sum of integer lanes (R142). -/
def lanesInt (lanes : List Lane) : Int := (lanes.map (fun l => l.s.toInt)).foldl (· + ·) 0

/-- The check passes or is skipped: a lane or the checker pair is not finite, or TILE_SAT is set. -/
def abftPasses (accInt sat : Bool) (lanes : List Lane) (chk : Lane) (chkInt : Int) : Bool :=
  sat ||
  if accInt then decide (lanesInt lanes = chkInt)
  else
    let s := lanesSum lanes
    !f32IsFin s || !f32IsFin chk.s || !f32IsFin chk.c || sumsAgree s (rn false ((f32Q chk.s).add (f32Q chk.c)))

/-- A failed check of a bag: the detection is counted and logged against the core of its position (R394). -/
def bagDetection (n pos code : Nat) (injected : Bool) (e : Engine) : Engine :=
  let core := coreAt n pos e
  coreDetection n core code (logIntegrity 1 n code core 6 injected e)

/-- A home run that has all rows of its last message returns its partial and frees its tile group (R144, R146). A
check that fails is a recomputation whose sum agrees with the first (R394 step 4; notes/assumptions/18.md). -/
def homeClose (id : Nat) (e : Engine) : Engine :=
  match findHome id e with
  | none => e
  | some h =>
    if h.held || !h.last || h.waiting ≠ 0 || !h.rows.isEmpty then e
    else
      let g := homeGroup h
      let m := mergeOutl (groupLanes g e) (groupOutl g e) (if h.wide then [] else anyChans h.slot e)
      let sat := groupSat g e || m.2
      let inj := takeInjection 0x05 g.slice e
      -- tiles that a task here names too leave the partial undefined, and no check tells (R161)
      let clash := namedBy none g e
      let bad := inj.1 || !clash && !abftPasses h.accInt sat (m.1.take (cWidth (imgOf h.slot e))) h.chk h.chkInt
      let e := if bad then bagDetection g.slice g.pos 0x05 inj.1 inj.2 else inj.2
      let bits : StatusBits := { sat, recomp := h.recomp || bad, lost := h.lost }
      let e := { e with homeRuns := e.homeRuns.filter (fun x => decide (x.id ≠ id)) }
      let l := if clash then takeFreeLanes m.1.length e else (m.1, e)
      let chk : Lane := if clash then ⟨f32NaN, 0⟩ else h.chk
      let chkInt := if clash then lanesInt l.1 else h.chkInt
      sendAnswer { hdrTo h.dev h.slice e with
          srcSlice := h.home, tableId := h.slot, gen := cGen (imgOf h.slot e), ref := h.ref, arg := h.bag }
        (.partial_ h.bag l.1 chk chkInt bits h.part h.extra) l.2

end Sys2Proof.Machine
end

