-- ==== Sys2Proof/Machine/Coalesce.lean ====
section
/-! DEFINITION. Coalescing of gradient contributions in the coalescing ways and the spill region
(07_gradient_return.md R191 to R199). -/

namespace Sys2Proof.Machine

/-- The engine with the gradient return replaced. -/
def setGrad (g : Grad) (e : Engine) : Engine := { e with grad := g }

/-- Bytes of a region in 4 KiB units; 0 where it extends past the LLM (R199). -/
def regionBytes (base size : Nat) : Nat := if 2 ^ 27 < base * 4096 + size * 4096 then 0 else size * 4096

/-- Bytes of the spill region of a slice. -/
def spillBytes (n : Nat) (e : Engine) : Nat :=
  regionBytes (getF (.slcGradSpill n) Fld.SLC_GRAD_SPILL_BASE e) (getF (.slcGradSpill n) Fld.SLC_GRAD_SPILL_SIZE e)

/-- Bytes of the sort buffer of a slice. -/
def sortBytes (n : Nat) (e : Engine) : Nat :=
  regionBytes (getF (.slcGradSort n) Fld.SLC_GRAD_SORT_BASE e) (getF (.slcGradSort n) Fld.SLC_GRAD_SORT_SIZE e)

/-- Bytes of a spill record or run record of a table (R197, R202). -/
def gradRecBytes (slot : Nat) (e : Engine) : Nat := 64 + cTilesPerBag (cWidth (imgOf slot e)) * 512

/-- HELD and SPILLED of a slice follow the rows of the open step (R198). -/
def noteHeld (n : Nat) (e : Engine) : Engine :=
  let k := getF .stepSts Fld.STEP_STS_OPEN_STEP e
  let mine := e.grad.coal.filter (fun c => decide (c.slice = n) && decide (c.step = k))
  let cap (x : Nat) : Nat := min x (2 ^ 32 - 1)
  setF (.slcGradSts n) Fld.SLC_GRAD_STS_HELD (cap (mine.filter (fun c => c.way.isSome)).length)
    (setF (.slcGradSts n) Fld.SLC_GRAD_STS_SPILLED (cap (mine.filter (fun c => c.way.isNone)).length) e)

/-- The first coalescing way whose lines are free in all the sets a row needs (R197). -/
def coalWay (n slot row : Nat) (e : Engine) : Option Nat :=
  let t := cTilesPerBag (cWidth (imgOf slot e))
  let h := rowSet slot row
  let uses (c : Coal) (w s : Nat) : Bool := match c.way with
    | some (w', f) => decide (w' = w) && decide ((s + 4096 - f) % 4096 < cTilesPerBag (cWidth (imgOf c.table e)))
    | none => false
  (List.range 24).find? (fun w => decide (wayKind n w e = 1) && wayOpen n w e &&
    (List.range t).all (fun k => !(e.grad.coal.any (fun c => decide (c.slice = n) && uses c w ((h + k) % 4096)))))

/-- The pair list with a contribution added by lane_add (R196). -/
def coalAdd (pairs : List Lane) (g : List F32) : List Lane := List.zipWith (fun l x => (laneAdd l f32One x).1) pairs g

/-- A contribution of a step reaches its coalescing slice (R193, R195 to R197). -/
def coalesce (slot row step : Nat) (g : List F32) (e : Engine) : Engine :=
  if cRule (imgOf slot e) = 0 then e
  else
    let n := (place slot row e).slice
    let e := if g.any (fun x => !f32IsFin x) then raiseStep step sfNonfinite e else e
    let mine (c : Coal) : Bool := decide (c.slice = n) && decide (c.table = slot) && decide (c.row = row) &&
      decide (c.step = step) && c.way.isSome
    if e.grad.coal.any mine then
      setGrad { e.grad with coal := e.grad.coal.map (fun c =>
        if mine c then { c with pairs := coalAdd c.pairs g, count := min (c.count + 1) (2 ^ 32 - 1) } else c) } e
    else
      let new : Coal := { slice := n, table := slot, row, step, count := 1, pairs := coalAdd (List.replicate g.length ⟨0, 0⟩) g }
      match coalWay n slot row e with
      | some w => noteHeld n (setGrad { e.grad with coal := e.grad.coal ++ [{ new with way := some (w, rowSet slot row) }] } e)
      | none =>
        let used := ((e.grad.coal.filter (fun c => decide (c.slice = n) && c.way.isNone)).map
          (fun c => gradRecBytes c.table e)).foldl (· + ·) 0
        if used + gradRecBytes slot e ≤ spillBytes n e then
          noteHeld n (setGrad { e.grad with coal := e.grad.coal ++ [new] } e)
        else
          raiseStep step sfCapacity (logEvent { cluster := 3, slice := n, typ := 0x21, tableId := slot, row, ref := step } e)

/-- An element with its overflow and non-finite rules (R191, R192). -/
def gradElem (x : Ex) : F32 :=
  if x.ok then
    let v := x.rn
    if f32IsInf v then f32Mk x.neg 0x7F7FFFFF else v
  else f32NaN

/-- A pair of a GRAD_SCATTER whose rows are both in contributes to its sub-tables (R192). -/
def gradPairDone (r : TaskRef) (q : GradPair) (e : Engine) : Engine :=
  match q.va, q.vb, findTask r e with
  | some va, some vb, some t =>
    let prod (v : List F32) : List F32 := List.zipWith (fun g x => gradElem (.mul (.val g) (.val x))) q.g v
    let e := updJob r (fun j => { j with prods := j.prods.filter (fun p => decide (p.key ≠ q.key)) }) e
    let e := match q.a with | some (s, row) => coalesce s row t.step (prod vb) e | none => e
    let e := match q.b with | some (s, row) => coalesce s row t.step (prod va) e | none => e
    itemPart r q.bag e
  | _, _, _ => e

/-- One half of a pair has come. -/
def gradHalf (r : TaskRef) (key : Nat) (isA : Bool) (v : List F32) (e : Engine) : Engine :=
  let set (p : GradPair) : GradPair := if isA then { p with va := some v } else { p with vb := some v }
  let e := progress r (updJob r (fun j => { j with prods := j.prods.map (fun p => if p.key = key then set p else p) }) e)
  match (findJob r e).bind (fun j => j.prods.find? (fun p => decide (p.key = key))) with
  | some q => settleDone r (gradPairDone r q e)
  | none => e

/-! Rows of a near-path gather (12 R347). -/

/-- The near-path instruction of a number. -/
def findNear (id : Nat) (e : Engine) : Option NearIn := e.near.ins.find? (fun x => decide (x.id = id))

/-- The engine with the near path replaced. -/
def setNear (n : Near) (e : Engine) : Engine := { e with near := n }

/-- The engine with one near-path instruction changed. -/
def updNear (id : Nat) (f : NearIn → NearIn) (e : Engine) : Engine :=
  setNear { e.near with ins := e.near.ins.map (fun x => if x.id = id then f x else x) } e

/-- Adds completion flags to a task that holds no job. -/
def flagTask (r : TaskRef) (fl : Nat) (e : Engine) : Engine := updTask r (fun t => { t with flags := orFlags t.flags fl }) e

/-- The values of gathered row `j`: one row, or the sum or the product of its halves (R78, R347). -/
def nearValues (t : Task) (x : NearIn) (j : Nat) (e : Engine) : List F32 :=
  let a := tget [] (j, 0) x.got
  match tfind (j, 1) x.got with
  | none => a
  | some b => if cHash (imgOf (dTable t.desc) e) = 3 then List.zipWith f32Add a b else List.zipWith f32Mul a b

/-- Leading rows of a gather that vd holds. -/
def nearLead (x : NearIn) : Nat := (x.pend.map (·.1)).foldl min x.pos

/-- A row, or half of a pair, of a near-path gather has come; a whole row goes to elements j × WIDTH on of vd (R347). -/
def nearHalf (id j half : Nat) (vals : List F32) (recomp : Bool) (e : Engine) : Engine :=
  match findNear id e, findTask (.near id) e with
  | some x, some t =>
    if t.phase ≠ .running ∨ !x.pend.contains (j, half) then e
    else
      let x := { x with pend := x.pend.erase (j, half), got := tput (j, half) vals x.got }
      let e := updNear id (fun _ => x) (if recomp then flagTask t.ref flRecomputed e else e)
      let e := updTask t.ref (fun t => { t with items := nearLead x }) e
      if x.pend.any (fun p => decide (p.1 = j)) then e
      else setNear { e.near with vd := tput (id, j * cWidth (imgOf (dTable t.desc) e)) (nearValues t x j e) e.near.vd } e
  | _, _ => e

end Sys2Proof.Machine
end

