-- ==== Sys2Proof/Machine/Deliver.lean ====
section
/-! DEFINITION. Requests for rows at their home: the tracker's read, what it serves, checks and recovery
(11 R317, R333; 14 R397, R398; 08 R246; 03 R458). -/

namespace Sys2Proof.Machine

/-! What a read serves. -/

/-- Bytes of a row record (R279). -/
def rowRecord (row ls ver : Nat) (side data : List Byte) : List Byte :=
  toBytes 8 (row % 2 ^ 40 + ls % 256 * 2 ^ 40) ++ toBytes 8 (ver % 2 ^ 32) ++ List.replicate 16 0 ++ padTo 32 side ++
  padTo (ceilDiv data.length 32 * 32) data

/-- Bytes of one row record of a table (R279). -/
def recordSize (img : BitVec 1024) (fp32 : Bool) : Nat :=
  64 + if fp32 then ceilDiv (cWidth img * 4) 32 * 32 else cSectors img * 32

/-- ROW_READ: the record of a row that has been read is written at its place (R282). -/
def rowReadItem (r : TaskRef) (i row : Nat) (v : RowVal) (e : Engine) : Engine :=
  match findTask r e with
  | none => e
  | some t =>
    let img := imgOf (dTable t.desc) e
    let bytes := rowRecord row v.ls v.ver (if v.wide then [] else v.side) v.data
    writeItem r i (dBl t.desc 2) (i * recordSize img v.wide) bytes [] e

/-- Conversion of an activation row from one format byte to another (R172, R183): codes, record, elements quantised
and clipped. Equal format bytes copy codes and record. -/
def convertRow (width fromFmt toFmt : Nat) (v : RowVal) : List Byte × List Byte × Nat × Nat :=
  let size := packedSize (ofFmt toFmt) width
  if fromFmt = toFmt then (padTo size (v.data.take size), v.side, 0, 0)
  else
    let vals := activationVals width fromFmt v
    let f := ofFmt toFmt
    if ofScaled toFmt then
      let g := encodeGroup f (ofZp toFmt) vals
      (packCodes f g.codes size, toBytes 4 g.scale.toNat ++ toBytes 4 g.zp.toNat, width, g.clipped)
    else
      let cs := vals.map (narrow f)
      (packCodes f (cs.map (·.1)) size, [], if f = 0 then 0 else width, (cs.filter (·.2)).length)

/-- Width of a row in an activation stream, rounded up to 32 B (R165, R182, R183). -/
def streamRow (fmt width : Nat) : Nat := ceilDiv (packedSize (ofFmt fmt) width) 32 * 32

/-- PAGE_GATHER: gathered row `i` of session `u`, counted from the first session, is converted and written (R183); it was
one of the session's outstanding outputs. -/
def pageRow (r : TaskRef) (u i : Nat) (v : Option RowVal) (e : Engine) : Engine :=
  match findTask r e with
  | none => e
  | some t =>
    let d := t.desc
    let w := cWidth (imgOf (dTable d) e)
    let outF := dq d 6 24 8
    let cacheF := dq d 6 40 8
    let zero : RowVal := { data := List.replicate (packedSize (ofFmt cacheF) w) 0
                           side := if ofScaled cacheF then toBytes 4 f32One.toNat ++ toBytes 4 0 else [] }
    let c := convertRow w cacheF outF (v.getD zero)
    let recs := if ofScaled outF then [(dAddr3 d 4 + 8 * i, padTo 8 c.2.1)] else []
    itemPart r u (writeItem r u (dBl d 3) (i * streamRow outF w) (padTo (streamRow outF w) c.1) recs
      (countJob r c.2.2.1 c.2.2.2 e))

/-- One fragment of a row in a state record (R249). -/
def exportRow (img : BitVec 1024) (content off n : Nat) (v : RowVal) (st : List Byte) : List Byte :=
  let pad (bs : List Byte) : List Byte := padTo (ceilDiv bs.length 32 * 32) bs
  let f := cFormat img
  let s := parseSt img st
  let hdr := if cTier img = 0 then headerBytes { ver := v.ver % 256, ls := v.ls } else headerBytes s
  let codes := ((unpackCodes f (cWidth img) v.data).drop off).take n
  let cut (xs : List F32) : List F32 := (xs.drop off).take n
  let k := momentCount (cRule img)
  (if off = 0 then hdr else [])
  ++ (if off = 0 && decide (bitsOf content 0 1 = 1) && decide (0 < cOutliers img) then padTo 32 v.side else [])
  ++ (if bitsOf content 0 1 = 1 then pad (packCodes f codes (packedSize f n)) else [])
  ++ (if bitsOf content 1 1 = 1 then pad (f32Bytes (cut s.master)) else [])
  ++ (if bitsOf content 2 1 = 1 && decide (1 ≤ k) then pad (f32Bytes (cut s.m)) else [])
  ++ (if bitsOf content 2 1 = 1 && decide (2 ≤ k) then pad (f32Bytes (cut s.v)) else [])

/-- The fragments of a row: offset and elements (R247). -/
def fragments (img : BitVec 1024) (frag : Nat) : List (Nat × Nat) :=
  let w := cWidth img
  let n := if frag = 0 then w else frag
  (List.range (ceilDiv w n)).map (fun k => (k * n, min n (w - k * n)))

/-- Bytes of the records of `per` rows (R249, R250): one record for each fragment. -/
def exportBytes (img : BitVec 1024) (content frag per : Nat) : Nat :=
  ((fragments img frag).map (fun fr => 64 + per * (exportRow img content fr.1 fr.2 {} []).length)).foldl (· + ·) 0

/-- A state record (R248, R249). -/
def stateRecord (img : BitVec 1024) (table shard content row step : Nat) (fr : Nat × Nat)
    (rows : List (RowVal × List Byte)) : List Byte :=
  let payload := (rows.map (fun q => exportRow img content fr.1 fr.2 q.1 q.2)).flatten
  let head :=
    toBytes 8 (0x5348 + 1 * 2 ^ 16 + content * 2 ^ 24 + table * 2 ^ 32 + shard * 2 ^ 44 + cFormat img * 2 ^ 52)
    ++ toBytes 8 row
    ++ toBytes 8 (rows.length + fr.1 * 2 ^ 32 + fr.2 * 2 ^ 48)
    ++ toBytes 8 (step + cGen img * 2 ^ 32)
    ++ toBytes 8 (momentCount (cRule img) + cOutliers img * 2 ^ 2 + cWidth img * 2 ^ 8 + payload.length * 2 ^ 32)
    ++ List.replicate 20 0
  head ++ toBytes 4 (crc32 (head ++ payload)) ++ payload

/-- The table-wide row of a row of a shard (R82). -/
def shardRow (img : BitVec 1024) (shard rl : Nat) : Nat :=
  if cCyclic img then rl * cShards img + shard else shard * cShardRows img + rl

/-- The last step fully applied on this device (R248): the one below the arrival step, the closing step or the open
step, whichever is oldest. -/
def lastApplied (e : Engine) : Nat :=
  let k := match e.grad.arrival, e.grad.closing with
    | some a, _ => a.1
    | none, some c => c.step
    | none, none => getF .stepSts Fld.STEP_STS_OPEN_STEP e
  (k + 2 ^ 32 - 1) % 2 ^ 32

/-- STATE_EXPORT: row `i` has been read; a group whose rows are all in is written as its records (R250). -/
def exportItem (r : TaskRef) (i : Nat) (v : RowVal) (st : List Byte) (e : Engine) : Engine :=
  match findTask r e with
  | none => e
  | some t =>
    let d := t.desc
    let tbl := dTable d
    let img := imgOf tbl e
    let per := dq d 2 32 16
    let total := dq d 4 0 40
    let e := updJob r (fun j => { j with rowsIn := tput i (v, st) j.rowsIn }) e
    match findJob r e with
    | none => e
    | some j =>
      let g := i / per
      let ids := (List.range (min per (total - g * per))).map (fun k => g * per + k)
      let got := ids.filterMap (fun k => tfind k j.rowsIn)
      if got.length < ids.length then e
      else
        let frs := fragments img (dq d 2 16 13)
        let shard := dq d 2 0 8
        let first := shardRow img shard (dq d 3 0 40 + g * per)
        let rec1 (fr : Nat × Nat) : List Byte := stateRecord img tbl shard (dq d 2 8 3) first (lastApplied e) fr got
        let full (fr : Nat × Nat) : Nat := 64 + per * (exportRow img (dq d 2 8 3) fr.1 fr.2 v st).length
        let off := g * ((frs.map full).foldl (· + ·) 0)
        let e := updJob r (fun j => { j with rowsIn := j.rowsIn.filter (fun q => !ids.contains q.1) }) e
        writeItem r g (dBl d 1) off ((frs.map rec1).flatten) [] e

/-- A MIGRATE ends before its switch: the old home remains the home (R277). -/
def migrateFail (r : TaskRef) (st dt : Nat) (e : Engine) : Engine := failTask r st dt e

/-- Sends a MIGRATE copy of a row (R274). -/
def migrateRow (r : TaskRef) (rl row : Nat) (v : RowVal) (st : Option (List Byte)) (e : Engine) : Engine :=
  match e.hot.migs.find? (fun m => decide (m.ref = r)) with
  | none => e
  | some m =>
    if !routeValid m.newDev e && decide (m.newDev ≠ thisDev e) then migrateFail r stAddrFault 0xA0 e
    else if memberIsLost m.newDev e then migrateFail r stDataLost 0xA0 e
    else sendCopy m rl row { v with chans := chansOf m.slot (place m.slot row e) e } st (openItem r rl 1 e)

/-- The read of a request failed and has no source: what it serves is told (R145, R398, R399). -/
def failUse (q : RowReq) (st dt : Nat) (e : Engine) : Engine :=
  match q.use with
  | .bag r .. => failTask r st dt e
  | .pair r .. => failTask r st dt e
  | .item r _ =>
    let op := match findTask r e with | some t => dOpcode t.desc | none => 0
    failTask r st (if op = 0x14 && decide (st = stDataLost) then 0x40 else dt) e
  | .home id _ => homeClose id (homeGot id true false e)
  | .homePair id _ _ => homeClose id (homeGot id true false e)
  | .reply dev slice ref bag fetch =>
    let p := place q.slot q.row e
    sendAnswer { tableHdr dev slice q.slot p e with ref, arg := b2n fetch } (.row bag q.row none { lost := true }) e
  | .action _ acts => forEach acts (fun a e => match a with
      | .item r _ => failTask r st dt e
      | .done dev slice ref item _ => fireAct (.done dev slice ref item { lost := true }) e) e
  | .migrate r _ => migrateFail r stDataLost 0x50 e
  | .grad r .. => failTask r st dt e
  | .near id .. => failTask (.near id) st dt e

/-- A row that has been read serves its request. -/
def deliverRow (q : RowReq) (v : RowVal) (recomp : Bool) (e : Engine) : Engine :=
  let img := imgOf q.slot e
  let p := place q.slot q.row e
  let oc := if q.activation || v.wide then (some [], e) else outlierChannels q.slot p e
  let e := oc.2
  match oc.1 with
  | none => failUse q stDataLost 0x10 e
  | some chans =>
    match q.use with
    | .bag r b k w =>
      match poolOf r e with
      | none => e
      | some pr =>
        let e := if recomp then flagJob r flRecomputed e else e
        let c := match q.region with
          | some (_, f) => contribVals (activationVals pr.cfg.width f v)
          | none => contribOf img chans v (decide (pr.cfg.slot ≠ q.slot)) pr.cfg.accInt
        bagGot r b k (bagContrib r b k w c e)
    | .pair r b k w key =>
      let e := if recomp then flagJob r flRecomputed e else e
      bagGot r b k (bagPair r b k w key (rowValues img chans v) e)
    | .home id w =>
      match findHome id e with
      | none => e
      | some h => homeClose id (homeGot id false recomp (homeContrib id w (contribOf img chans v false h.accInt) e))
    | .homePair id w key =>
      match findHome id e with
      | none => e
      | some h =>
        let vals := rowValues img chans v
        let e := match tfind key h.halves with
          | none => updHome id (fun h => { h with halves := tput key vals h.halves }) e
          | some other =>
            homeContrib id w (contribVals (List.zipWith f32Mul other vals))
              (updHome id (fun h => { h with halves := tdel key h.halves }) e)
        homeClose id (homeGot id false recomp e)
    | .item r i =>
      let e := if recomp then flagJob r flRecomputed e else e
      match findTask r e with
      | none => e
      | some t =>
        if dOpcode t.desc = 0x11 then rowReadItem r i q.row v e
        else if dOpcode t.desc = 0x14 then exportItem r i v (q.st.getD []) e
        else pageRow r (i / 2 ^ 40) (i % 2 ^ 40) (some v) e
    | .reply dev slice ref bag fetch =>
      sendAnswer { tableHdr dev slice q.slot p e with ref, arg := b2n fetch } (.row bag q.row (some { v with chans }) { recomp }) e
    | .action act acts =>
      let v := { v with chans }
      if (mcastTo q.slot e).isEmpty then forEach acts fireAct e
      else
        let k := if act = 0 then 1 else 2
        multicast q.slot q.row v.ver (.mcastRow q.slot q.row k v) k none acts e
    | .migrate r rl => migrateRow r rl q.row v q.st e
    | .near id row half => nearHalf id row half (rowValues img chans v) recomp e
    | .grad r key isA =>
      gradHalf r key isA (rowValues img chans v) (if recomp then flagJob r flRecomputed e else e)

/-! The read itself. -/

/-- The master of a state row as a row value (R124). -/
def wideVal (img : BitVec 1024) (bs : List Byte) : RowVal :=
  let s := parseSt img bs
  { ver := s.ver, data := f32Bytes s.master, ls := s.ls, wide := true }

/-- The sector of a row's scale record (R163). -/
def recordAddr (slot : Nat) (p : Place) (e : Engine) : Nat :=
  p.slice * 2 ^ 37 + p.base + cPraline (imgOf slot e) + 8 * p.inSlice

/-- An activation row with its record (R163), or its expert output row (R176). -/
def seeActivation (n slot : Nat) (p : Place) (region : Option (Nat × Nat)) (e : Engine) : RowVal × Bool :=
  let i := imgOf slot e
  let off := match region with | some (o, _) => o | none => 0
  let sc := match region with | some (_, f) => ofScaled f | none => fmtScaled (cFormat i)
  let a := rowAddr slot p e + off
  let rec_ := recordAddr slot p e + off
  let see (x : Nat) : Half := if off = 0 then seeHalf n (thisDev e) x e else memHalf (thisDev e) x e
  let main := (List.range (cSectors i)).map (fun k => see (a + 32 * k))
  let rh := see (rec_ / 32 * 32)
  ({ ver := (main.map (·.ver)).headD 0
     data := (main.map (·.bytes)).flatten
     side := if sc then (rh.bytes.drop (rec_ % 32)).take 8 else [] },
   main.all (·.ok) && (!sc || rh.ok))

/-- The sector ranges of an activation row and its record: address, sectors, kind (R163, R316). -/
def activSpans (slot : Nat) (p : Place) (e : Engine) : List (Nat × Nat × LineKind) :=
  [(rowAddr slot p e, cSectors (imgOf slot e), .activ)]
  ++ (if fmtScaled (cFormat (imgOf slot e)) then [(recordAddr slot p e / 32 * 32, 1, .praline)] else [])

/-- The lines a request fills. -/
def reqBases (slot : Nat) (p : Place) (e : Engine) : List (Nat × Nat) :=
  (((rowParts slot p e).map (fun r => (byLine r.1 r.2.1).map (fun g => (thisDev e, g.1)))).flatten).eraseDups

/-- Asks the state device of another device for a state row (R239). -/
def sendStateRead (slot row : Nat) (low : Bool) (e : Engine) : Engine :=
  let p := place slot row e
  let src := stateSrc slot e
  if src < 64 && decide (src ≠ thisDev e) then sendMsg { tableHdr src p.slice slot p e with arg := b2n low } (.stateRead slot row low) e else e

/-- A state read for a row is in flight. -/
def stateAsked (slot row : Nat) (e : Engine) : Bool :=
  e.upd.waits.any (fun w => decide (w.slot = slot) && decide (w.row = row))

/-- Notes what waits for a state row, and sends the read where none is in flight (R241, R242). -/
def awaitState (slot row : Nat) (use : StateUse) (e : Engine) : Engine :=
  let p := place slot row e
  let e := if stateAsked slot row e then e else sendStateRead slot row (decide (use = .prefetch)) e
  let i := takeId e
  { i.2 with upd := { i.2.upd with waits := i.2.upd.waits ++ [⟨i.1, p.slice, slot, row, use, now e⟩] } }

/-- Takes a request off the list. -/
def dropReq (id : Nat) (e : Engine) : Engine := { e with rowReqs := e.rowReqs.filter (fun q => decide (q.id ≠ id)) }

/-- Where an INTEGRITY record says the recovery came from (R417). -/
def noteRecovery (q : RowReq) (code source : Nat) (e : Engine) : Engine :=
  logIntegrity 2 (place q.slot q.row e).slice code 0 source false e

/-- Recovery of a working copy, scale code or side-row from the master (R246, R397). -/
def recoverFromMaster (q : RowReq) (bs : List Byte) (e : Engine) : Engine :=
  let r := regenerateFrom q.slot q.row (parseSt (imgOf q.slot e) bs) (noteRecovery q 0x01 1 (dropReq q.id e))
  let st := { parseSt (imgOf q.slot e) bs with ver := r.1.ver }
  deliverRow { q with st := some (stBytes (imgOf q.slot e) st) } r.1 true r.2

/-- A request of a row accepted by the tracker of its home slice on this device (R17, R86, R87, R124, R317): served at
once where the cache holds everything, otherwise by SECTOR_READ_DONE or STATE_DATA. -/
def askRow (use : RowUse) (slot : Nat) (a : RowAsk) (both copyOk : Bool) (reader : Nat) (e : Engine) : Engine :=
  let p := place slot a.row e
  let q0 : RowReq := { id := 0, use, slot, row := a.row, wide := a.wide, both, slice := p.slice
                       activation := a.activation || a.region.isSome, region := a.region }
  if slicePoweredOff p.slice e then failUse q0 stAddrFault 0xC0 e
  else
    let img := imgOf slot e
    -- a copy held under R86 in the asking slice
    let copy := copyOk && !cInterleave img && decide (reader ≠ p.slice) && !a.wide && !both && !q0.activation &&
      rowCached reader slot p e
    let n := if copy then reader else p.slice
    let wk := if q0.activation then seeActivation n slot p a.region e
      else if a.wide then ({}, true) else seeRow n slot p e
    let st := if a.wide || both && decide (cTier img ≠ 0) then some (seeState n slot a.row e) else none
    let stIn := match st with | some s => s.2 | none => true
    let here := match st with | some _ => stateHere n slot a.row e | none => true
    let bytes := st.map (·.1)
    let v := if a.wide then (bytes.map (wideVal img)).getD {}
      else if both then { wk.1 with ver := fullVersion slot wk.1.ver bytes e } else wk.1
    let q := { q0 with val := if wk.2 then some v else none, st := bytes
                       slice := n, bases := if a.wide || q0.activation then [] else reqBases slot p e }
    let agree := !both || cTier img = 0 || decide (wk.1.ver % 256 = v.ver % 256)
    let spans := if q0.activation then activSpans slot p e else rowParts slot p e
    let cached := (a.wide || (a.region.isNone && spans.all (fun r => allCached n (thisDev e) r.1 r.2.1 e))) && stIn
    if here && wk.2 && !agree then
      -- the two copies are out of step: the header is authoritative (R458)
      recoverFromMaster q (bytes.getD []) (logIntegrity 2 n 0x02 0 1 false e)
    else if cached && wk.2 && here then
      deliverRow q v false (forEach spans (fun r e => touchLines n (thisDev e) r.1 r.2.1 e) e)
    else
      let i := takeId e
      let q := { q with id := i.1, waitState := !here }
      let e := { i.2 with rowReqs := i.2.rowReqs ++ [q] }
      if here then e else awaitState slot a.row (.req i.1) e

/-- The misses that never allocate: READ_WIDE, STATE_EXPORT, the MIGRATE copy and expert output rows (R316). -/
def neverFills (q : RowReq) (e : Engine) : Bool :=
  q.wide || q.region.isSome ||
  (match q.use with
   | .migrate .. => true
   | .item r _ => match findTask r e with | some t => decide (dOpcode t.desc = 0x14) | none => false
   | _ => false)

/-- The fill after a read (R316, R317). -/
def fillReq (q : RowReq) (reader : Nat) (e : Engine) : Engine :=
  if neverFills q e then e
  else if q.activation then
    forEach (activSpans q.slot (place q.slot q.row e) e) (fun r u =>
      putHalves q.slice (thisDev u) r.1 q.slot r.2.2 false
        ((seeHalves q.slice (thisDev e) r.1 r.2.1 e).map (fun h => (h.bytes, h.ver))) u) e
  else
    let p := place q.slot q.row e
    let e := fillRow p.slice q.slot p e
    let e := match q.st with | some bs => fillState p.slice q.slot q.row bs e | none => e
    if reader ≠ p.slice && !cInterleave (imgOf q.slot e) then fillRow reader q.slot p e else e

/-- The slice whose cores or stream asked (R86). -/
def readerOf (q : RowReq) (e : Engine) : Nat :=
  let job (r : TaskRef) : Nat := match findJob r e with | some j => poolAt j e | none => q.slice
  match q.use with
  | .bag r .. => job r
  | .pair r .. => job r
  | .grad r .. => job r
  | .home id _ => match findHome id e with | some h => h.at_.1 | none => q.slice
  | .homePair id _ _ => match findHome id e with | some h => h.at_.1 | none => q.slice
  | _ => q.slice

/-- Ends a request well. -/
def serveReq (q : RowReq) (v : RowVal) (recomp : Bool) (e : Engine) : Engine :=
  deliverRow q v recomp (fillReq q (readerOf q e) (dropReq q.id e))

/-- Ends a request whose working copy has no source: the row is poisoned (R398). -/
def loseRow (q : RowReq) (praline : Bool) (e : Engine) : Engine :=
  let ref := match q.use with
    | .bag (.ring _ p) .. => p.toNat
    | .item (.ring _ p) _ => p.toNat
    | _ => 0
  failUse q stDataLost 0x10 (poisonRow q.slot q.row ref 0x10 praline (noteRecovery q 0x01 7 (dropReq q.id e)))

/-- The sectors of a state row that are bad, by check or by disagreement with the reference VERSION_LO (R226). -/
def badSectors (slot row : Nat) (hs : List Half) (e : Engine) : List Nat :=
  let p := place slot row e
  let hdr := hs.headD ⟨[], 0, false, false⟩
  let refv := if hdr.ok then hdr.ver else (seeHalf p.slice (thisDev e) (rowAddr slot p e) e).ver
  (List.range hs.length).filter (fun k => match hs[k]? with
    | some h => !(h.ok && decide (h.ver = refv)) | none => false)

/-- The state row of a row has a bad header or master (R246). -/
def masterLost (slot row : Nat) (e : Engine) : Bool :=
  let p := place slot row e
  (badSectors slot row (stateHalves p.slice slot row e) e).any (fun k => decide (32 * k < 32 + 4 * cWidth (imgOf slot e)))

/-- What fails its check in the state row that a request reads here, none where all of it passes (R246, R333). -/
def stateDatum (q : RowReq) (e : Engine) : Option Datum :=
  let p := place q.slot q.row e
  let i := imgOf q.slot e
  if !(q.wide || q.both) || decide (cTier i = 0) || !stateHere p.slice q.slot q.row e then none
  else
    let bad := badSectors q.slot q.row (stateHalves p.slice q.slot q.row e) e
    if bad.isEmpty then none
    else if masterLost q.slot q.row e && !(seeRow p.slice q.slot p e).2 then some .masterAndWorking
    else if bad.contains 0 then some .header
    else if masterLost q.slot q.row e then some .master
    else some .moments

/-- Recovery of a request's datum from its source (R246, R397, R458). -/
def recoverReq (q : RowReq) (d : Datum) (e : Engine) : Engine :=
  let img := imgOf q.slot e
  let p := place q.slot q.row e
  let bs := (seeState p.slice q.slot q.row e).1
  let wk := (seeRow p.slice q.slot p e).1
  let s := parseSt img bs
  let wide (s : StRow) (e : Engine) : Engine :=
    let nb := stBytes img s
    let e := writeState p.slice q.slot q.row nb (dropReq q.id e)
    deliverRow { q with st := some nb } (if q.wide then wideVal img nb else { wk with ver := s.ver }) true e
  if q.activation then failUse q stDataLost 0x10 (dropReq q.id e)
  else match d with
    | .outlierHeader => failUse q stDataLost 0x10 (dropReq q.id e)
    | .masterAndWorking => loseRow q false e
    | .master =>
      if cTier img = 0 then loseRow q false e
      else wide { s with master := widenMaster img (chansOf q.slot p e) wk }
        (logRow 3 0x24 q.slot q.row s.tLast (noteRecovery q 0x01 3 e))
    | .moments =>
      if cTier img = 0 then loseRow q false e
      else wide (resetMoments img s) (logRow 3 0x25 q.slot q.row s.tLast (noteRecovery q 0x01 4 e))
    | .header =>
      if cTier img = 0 then loseRow q false e
      else
        let s := resetMoments img { s with ver := wk.ver % 256, ls := wk.ls, touched := false, tLast := 0, nUpd := 0, acc := 0 }
        let e := logRow 3 0x26 q.slot q.row 0 (noteRecovery q 0x01 3 e)
        let e := if cGroup img = 0 then e else multicast q.slot q.row s.ver (.mcastRemove q.slot q.row false) 0 none [] e
        wide s e
    | _ =>
      if cTier img ≠ 0 then
        if stateHere p.slice q.slot q.row e then
          if masterLost q.slot q.row e then loseRow q (decide (d = .praline)) e else recoverFromMaster q bs e
        else
          awaitState q.slot q.row (.recover q.id)
            { e with rowReqs := e.rowReqs.map (fun x => if x.id = q.id then { x with waitState := true } else x) }
      else
        match mcastTo q.slot e with
        | m :: _ =>
          -- a VALID replica with the same VERSION_LO, fetched by the home (R397)
          let e := { e with rowReqs := e.rowReqs.map (fun x => if x.id = q.id then { x with waitState := true } else x) }
          sendMsg { tableHdr m p.slice q.slot p e with ref := q.id, arg := 2 } (.replicaFetch q.slot q.row) e
        | [] => loseRow q (decide (d = .praline)) e

/-- SECTOR_READ_DONE: the narrow-path reads of a request complete (R333). `acc` is the outcome of the checks and `d`
what failed them twice. What memory holds damaged fails its checks by itself. -/
def doSectorReadDone (id : Nat) (acc : Access) (d : Datum) (e : Engine) : Engine :=
  if !alive e then e
  else match e.rowReqs.find? (fun q => decide (q.id = id)) with
    | none => e
    | some q =>
      if q.waitState then e
      else
        let n := (place q.slot q.row e).slice
        let i1 := takeInjection 0x01 n e
        let i2 := takeInjection 0x02 n i1.2
        let e := i2.2
        let again := i1.1 || i2.1 || decide (acc = .badOnce)
        let code := if i2.1 then 0x02 else 0x01
        match q.val with
        | none => recoverReq q (if d = .praline ∨ d = .side ∨ d = .outlierHeader then d else .working) e
        | some v =>
          if acc = .badTwice ∨ acc = .portError then recoverReq q d e
          else match stateDatum q e with
          | some d => recoverReq q d e
          | none =>
            let e := if again then logIntegrity 2 n code 0 0 (i1.1 || i2.1) e else e
            serveReq q v again e

end Sys2Proof.Machine
end

