-- ==== Sys2Proof/Machine/Pool.lean ====
section
/-! DEFINITION. LOOKUP_POOL, GATHER_ROWS and COMBINE at the owner: start checks, bags, sub-lists, row requests, the
hot-row sketch (05_lookup_and_pooling.md, 06 R175 to R178, 09 R254 to R264). -/

namespace Sys2Proof.Machine

/-! The sketch (R254 to R257, R264, R265). -/

/-- The multipliers of the four sketch rows (R255). -/
def sketchMult : List Nat := [0xB5D12E9F4C07A36B, 0x8F3E6A21D95C07B5, 0xE6A49C1B73F25D89, 0x9A7C03E5B2D861F3]

/-- The counter of sketch row `j` for a key (R255). -/
def sketchIdx (j k : Nat) : Nat := k * sketchMult.getD j 0 % 2 ^ 64 / 2 ^ 52

/-- A sketch counter. -/
def sketchAt (n j x : Nat) (e : Engine) : Nat := tget 0 (n, j, x) e.hot.sketch

/-- The estimate of a key: the least of its four counters. -/
def sketchEst (n k : Nat) (e : Engine) : Nat :=
  ((List.range 4).map (fun j => sketchAt n j (sketchIdx j k) e)).foldl min 0xFFFF

/-- The halving of a slice's sketch with the ageing of automatic replicas (R256, R265). -/
def halveSketch (n : Nat) (e : Engine) : Engine :=
  let h := e.hot
  let sk := (h.sketch.map (fun c => if c.1.1 = n then (c.1, c.2 / 2) else c)).filter (fun c => decide (c.2 ≠ 0))
  let reps := (h.replicas.filter (fun r => !(decide (r.slice = n) && r.auto && !r.refBit))).map (fun r =>
    if r.slice = n then { r with refBit := false } else r)
  setF (.slcSketchSts n) Fld.SLC_SKETCH_STS_LOOKUPS 0 (noteReplicas n (setHot { h with sketch := sk, replicas := reps } e))

/-- An automatic install of a crossing row (R264): AUTO_TAKEN and DECLINE. -/
def autoInstall (table row : Nat) (p : Place) (e : Engine) : (Nat × Nat) × Engine :=
  if (findReplica table row e).isSome then ((1, 0), e)
  else if !(groupMembers table e).contains (thisDev e) then ((0, 3), e)
  else
    let y := p.slice
    let l := replicaLines table e
    if getF (.slcTruffleBudget y) Fld.SLC_TRUFFLE_BUDGET_AUTO_LINES e
        < getF (.slcReplSts y) Fld.SLC_REPL_STS_LINES_AUTO e + l then ((0, 1), e)
    else match truffleWay y table row e with
      | none => ((0, 2), e)
      | some w =>
        let r : Replica := { slice := y, table, row, way := w, set := rowSet table row, lines := l
                             auto := true, t0 := now e }
        let e := noteReplicas y (setHot { e.hot with replicas := e.hot.replicas ++ [r] } e)
        ((1, 0), sendFetch table row e)

/-- A candidate record (R257). -/
def candidate (taken decline table row est : Nat) (p : Place) (q phase : Nat) : List Byte :=
  toBytes 8 (phase + taken * 2 + decline * 4 + table * 2 ^ 4 + row * 2 ^ 16)
  ++ toBytes 8 (est + p.slice * 2 ^ 16 + p.device * 2 ^ 18 + q % 2 ^ 32 * 2 ^ 32)

/-- One counted lookup (R254 to R257, R264). -/
def sketchLookup (n table row : Nat) (p : Place) (e : Engine) : Engine :=
  if !getB (.slcSketchCfg n) Fld.SLC_SKETCH_CFG_ENABLE e || decide (cGroup (imgOf table e) = 0) ||
     decide (p.device = thisDev e) then e
  else
    let e := if 2 ^ 24 ≤ getF (.slcSketchSts n) Fld.SLC_SKETCH_STS_LOOKUPS e then halveSketch n e else e
    let k := table * 2 ^ 40 + row
    let before := sketchEst n k e
    let e := forEach (List.range 4) (fun j e =>
      let x := sketchIdx j k
      setHot { e.hot with sketch := tput (n, j, x) (min 0xFFFF (sketchAt n j x e + 1)) e.hot.sketch } e) e
    let after := sketchEst n k e
    let e := setF (.slcSketchSts n) Fld.SLC_SKETCH_STS_LOOKUPS (getF (.slcSketchSts n) Fld.SLC_SKETCH_STS_LOOKUPS e + 1) e
    let th := getF (.slcSketchCfg n) Fld.SLC_SKETCH_CFG_THRESHOLD e
    if th = 0 ∨ th ≤ before ∨ after < th then e
    else
      let r := if getB (.slcSketchCfg n) Fld.SLC_SKETCH_CFG_AUTO e then autoInstall table row p e
        else ((b2n (findReplica table row e).isSome, 0), e)
      let e := r.2
      let lg := getF (.slcSketchRpt n) Fld.SLC_SKETCH_RPT_LOG2_SIZE e
      if lg < 6 ∨ 16 < lg then e
      else
        let q := getF (.slcSketchSts n) Fld.SLC_SKETCH_STS_REPORTS e
        let a := getF (.slcSketchRpt n) Fld.SLC_SKETCH_RPT_BASE e * 4096 + 16 * (q % 2 ^ lg)
        let e := hostWrite a (candidate r.1.1 r.1.2 table row after p q (phaseOf lg (BitVec.ofNat 32 q))) e
        setF (.slcSketchSts n) Fld.SLC_SKETCH_STS_REPORTS (q + 1) e

/-! State prefetch (R147, R241). -/

/-- A home requests the state of a row it reads, unless it is present or requested (R241). -/
def prefetchState (slot row : Nat) (e : Engine) : Engine :=
  let p := place slot row e
  if cRule (imgOf slot e) = 0 || (seeState p.slice slot row e).2 || stateAsked slot row e || stateSrc slot e = 65 then e
  else awaitState slot row .prefetch e

/-! The descriptor (R127, R155, R175). -/

/-- A field of the pooling profile a descriptor selects. -/
def profF (t : Task) (r : Nat → Nat → Reg) (f : Field) (e : Engine) : Nat := getF (r (dq t.desc 1 4 2) (dq t.desc 4 0 5)) f e

/-- The settings of a pooling task. -/
def cfgOf (t : Task) (e : Engine) : PoolCfg :=
  let d := t.desc
  let op := dOpcode d
  let width := cWidth (imgOf (dTable d) e)
  let outFmt := dq d 6 24 8
  let st := profF t .slcProfCtl Fld.SLC_PROF_CTL_OUT_STRIDE e
  { slot := dTable d, width, mode := dq d 2 0 3, gather := decide (op ≠ 0x01)
    accInt := decide (dq d 3 0 1 = 1), preload := dq d 3 1 2, sideEn := decide (dq d 3 3 1 = 1)
    prefetch := decide (dq d 3 4 1 = 1), wide := dReadWide d, profile := dq d 4 0 5, outFmt
    pos := dq d 6 40 6, tile := dq d 6 32 8, posCount := dq d 6 48 7, span := dq d 6 55 9
    outBl := dBl d 4, stride := if st = 0 then streamRow outFmt width else st * 32
    scaleAddr := dAddr3 d 5, bags := dq d 6 0 24
    region := if op = 0x05 then some (dq d 2 24 25 * 4096, dq d 2 16 8) else none
    topK := if op = 0x05 then dq d 2 6 4 else 0 }

/-- Modes with a weight list. -/
def modeWeighted (m : Nat) : Bool := decide (m = 3) || decide (m = 4)

/-- The checks of R162 on an activation table. -/
def bufferBad (slot : Nat) (rows : Option Nat) (shardMult fmt : Nat) (e : Engine) : Bool :=
  let i := imgOf slot e
  decide (cHash i ≠ 0) || decide (cLimit i ≠ cRows i) || cCyclic i || decide (cRule i ≠ 0) || decide (cTier i ≠ 0) ||
  decide (cDefKind i ≠ 0) || decide (cOutliers i ≠ 0) || decide (cGroup i ≠ 0) ||
  (match rows with | some k => decide (cRows i ≠ k) | none => decide (cRows i % shardMult ≠ 0)) || decide (shardMult = 0) || decide (cShardRows i % shardMult ≠ 0) ||
  decide (cFormat i ≠ fmt)

/-- Expert profile fields. -/
def moeExperts (n p : Nat) (e : Engine) : Nat := getF (.slcMoeCtl n p) Fld.SLC_MOE_CTL_EXPERTS_M1 e + 1
def moeCapacity (n p : Nat) (e : Engine) : Nat := getF (.slcMoeCtl n p) Fld.SLC_MOE_CTL_CAPACITY e
def moeFmt (n p : Nat) (e : Engine) : Nat := getF (.slcMoeCtl n p) Fld.SLC_MOE_CTL_BUF_FMT e

/-- R162 for DISPATCH and COMBINE. -/
def expertBufferBad (slot n p : Nat) (e : Engine) : Bool :=
  bufferBad slot (some (moeExperts n p e * moeCapacity n p e)) (max 1 (moeCapacity n p e)) (ofFmt (moeFmt n p e)) e

/-- The first of a list of conditions that holds, with its status and DETAIL. -/
def firstOf (l : List (Bool × Nat × Nat)) : Option (Nat × Nat) :=
  (l.find? (·.1)).map (fun x => (x.2.1, x.2.2))

/-- The start checks of a pooling task in the order of R157, and for COMBINE of R185. -/
def poolCheck (t : Task) (e : Engine) : Option (Nat × Nat) :=
  let d := t.desc
  let op := dOpcode d
  let c := cfgOf t e
  let i := imgOf c.slot e
  let tl := runTiles c
  let n := dq d 1 4 2
  let moe := dq d 2 49 4
  let combine := decide (op = 0x05)
  let modeOk := if op = 0x01 then decide (1 ≤ c.mode) && decide (c.mode ≤ 5)
    else if op = 0x02 then decide (c.mode = 0) || decide (c.mode = 3)
    else decide (c.mode = 1) || decide (c.mode = 3)
  let ht := profF t .slcProfHome Fld.SLC_PROF_HOME_HOME_TILE e
  let hp := profF t .slcProfHome Fld.SLC_PROF_HOME_HOME_POS e
  let hc := profF t .slcProfHome Fld.SLC_PROF_HOME_HOME_POS_COUNT e
  let sp := profF t .slcProfCtl Fld.SLC_PROF_CTL_SPLIT_TILE e
  let bias := profF t .slcProfBias Fld.SLC_PROF_BIAS_BIAS_ADDR e
  let stride := profF t .slcProfCtl Fld.SLC_PROF_CTL_OUT_STRIDE e
  let hasAux := ofScaled c.outFmt || c.sideEn
  let bd (b : Bool) (dt : Nat) : Bool × Nat × Nat := (b, stBadDesc, dt)
  firstOf [
    bd (combine && (expertBufferBad c.slot n moe e ||
      decide (cSectors i * 32 < packedSize (ofFmt (dq d 2 16 8)) c.width))) 0x20,
    bd (!modeOk || (decide (op = 0x02) && decide (dBl d 2 ≠ 0))) 0x11,
    bd (modeWeighted c.mode != decide (dBl d 3 ≠ 0)) 0x12,
    bd (sliceOut n e) 0x13,
    bd (decide (c.posCount = 0) || decide (64 < c.posCount) || decide (64 < c.pos + c.posCount) || decide (c.span = 0) ||
        decide (c.span < tl) || decide (256 < c.tile + c.span) ||
        decide (256 < ht + tl) || decide (hc = 0) || decide (64 < hc) || decide (64 < hp + hc)) 0x14,
    bd (decide (c.preload = 3) || (decide (c.preload ≠ 0) && (decide (c.mode = 2) || decide (c.mode = 4) || decide (c.mode = 5))) ||
        (decide (c.preload ≠ 0) && c.accInt) || (decide (c.preload = 2) && ofScaled c.outFmt) ||
        (decide (c.preload = 1) && decide (bias = 0))) 0x15,
    bd (c.accInt && (combine || decide (cFormat i ≠ 5) || decide (cOutliers i ≠ 0) || c.wide || cComposed i || decide (c.mode ≠ 1))) 0x16,
    bd (decide (op = 0x01) && !isNear t.ref && decide (profF t .slcProfCtl Fld.SLC_PROF_CTL_SPLIT_EN e = 1) &&
        (decide (256 < sp + tl) || (decide (sp < c.tile + c.span) && decide (c.tile < sp + tl)))) 0x17,
    bd ((hasAux != decide (c.scaleAddr ≠ 0)) ||
        (decide (stride ≠ 0) && decide (stride * 32 < packedSize (ofFmt c.outFmt) c.width))) 0x18,
    bd (combine && (decide (moeCapacity n moe e = 0) || !outFmtValid (moeFmt n moe e))) 0x21,
    bd (combine && (decide (c.topK = 0) || decide (8 < c.topK))) 0x22]

/-! Bags. -/

/-- The tile group of bag b (R135): position and first tile. -/
def bagTiles (c : PoolCfg) (b : Nat) : Nat × Nat :=
  let t := runTiles c
  (c.pos + b % c.posCount, c.tile + t * (b / c.posCount % (c.span / t)))

/-- The participants of a bag (R148). -/
def bagParts (t : Task) (c : PoolCfg) (b n : Nat) (e : Engine) : List Part :=
  let own := bagTiles c b
  let th := max 64 (profF t .slcProfCtl Fld.SLC_PROF_CTL_SPLIT_THRESHOLD e)
  let splits := !c.gather && decide (profF t .slcProfCtl Fld.SLC_PROF_CTL_SPLIT_EN e = 1) && decide (2 ≤ c.posCount) && decide (th < n)
  let k := if splits then min c.posCount (ceilDiv n th) else 1
  (List.range k).map (fun j =>
    if j = 0 then { pos := own.1, tile := own.2 }
    else { pos := c.pos + (own.1 - c.pos + j) % c.posCount
           tile := profF t .slcProfCtl Fld.SLC_PROF_CTL_SPLIT_TILE e })

/-- The participant that pools index position `m` of `n` (R148). -/
def partFor (k n m : Nat) : Nat :=
  ((List.range k).find? (fun j => decide (m < (j + 1) * n / k))).getD 0

/-- Rows gathered for sub-lists: home device, slice, table, and the rows in index order. -/
abbrev SubAcc := List ((Nat × Nat × Nat) × List (Nat × Option Nat × F32))

/-- Adds a row to a home's sub-list. -/
def subAdd (k : Nat × Nat × Nat) (x : Nat × Option Nat × F32) (a : SubAcc) : SubAcc := tput k (tget [] k a ++ [x]) a

/-- A home that cannot be asked ends the task (R379, R304, R410). -/
def homeReach (r : TaskRef) (dev : Nat) (e : Engine) : Option Engine :=
  if !routeValid dev e then some (failTask r stAddrFault 0xA0 e)
  else if memberIsLost dev e then some (failTask r stDataLost 0xA0 e)
  else none

/-- One row of a bag (R143 to R145): read here, pooled from a replica, put in its home's sub-list, or asked for. -/
def placeRow (r : TaskRef) (c : PoolCfg) (b part slot row : Nat) (w : F32) (pair : Option Nat) (acc : SubAcc)
    (e : Engine) : SubAcc × Engine :=
  match findJob r e with
  | none => (acc, e)
  | some j =>
    let p := place slot row e
    let n := poolAt j e
    let use : RowUse := match pair with | some k => .pair r b part w k | none => .bag r b part w
    let e := if c.wide || c.region.isSome then e else sketchLookup j.slice slot row p e
    let wait (e : Engine) : Engine := updPart r b part (fun q => { q with waiting := q.waiting + 1 }) e
    if p.device = thisDev e then
      let e := if c.prefetch then prefetchState slot row e else e
      (acc, askRow use slot { row, wide := c.wide, region := c.region } false true n (wait e))
    else
      let rep := if c.wide || c.region.isSome then none else findReplica slot row e
      let bad := takeInjection 0x03 p.slice e
      match rep with
      | some x =>
        if x.st = .valid && !bad.1 then
          let e := updReplica slot row (fun x => { x with refBit := true }) e
          let img := imgOf slot e
          let e := match pair with
            | some k => bagPair r b part w k (rowValues img x.val.chans x.val) e
            | none => bagContrib r b part w (contribOf img x.val.chans x.val (decide (c.slot ≠ slot)) c.accInt) e
          let e := if c.prefetch && decide (cRule img ≠ 0) && reachable p.device e then
              sendMsg (tableHdr p.device p.slice slot p e) (.prefetchHint slot [row]) e else e
          (acc, e)
        else
          -- a replica that fails its check is refetched (R258); an INVALID one is passed by (R143)
          let e := if x.st = .valid then
              flagJob r flRecomputed (refetch slot row (updReplica slot row (fun x => { x with st := .invalid })
                (logIntegrity 5 p.slice 0x03 0 2 true (incF (.slcCacheCnt p.slice) Fld.SLC_CACHE_CNT_DETECTIONS 1 bad.2))))
            else if x.st = .invalid || x.dropped then flagJob r flBypass e else e
          match homeReach r p.device e with
          | some e => (acc, e)
          | none =>
            if c.gather || pair.isSome then
              let e := updBag r b (fun x => { x with asked := x.asked ++ [(slot, row, w, pair)] }) (wait e)
              (acc, sendMsg { tableHdr p.device p.slice slot p e with ref := refNum r, arg := b }
                (.rowReq b { row, wide := c.wide, region := c.region }) e)
            else (subAdd (p.device, p.slice, slot) (row, none, w) acc, e)
      | none =>
        match homeReach r p.device e with
        | some e => (acc, e)
        | none =>
          if c.gather || pair.isSome then
            let e := updBag r b (fun x => { x with asked := x.asked ++ [(slot, row, w, pair)] }) (wait e)
            (acc, sendMsg { tableHdr p.device p.slice slot p e with ref := refNum r, arg := b }
              (.rowReq b { row, wide := c.wide, region := c.region }) e)
          else (subAdd (p.device, p.slice, slot) (row, none, w) acc, e)

/-- A default hit on a zero row: a contribution of zeros (R79). -/
def zeroRow (r : TaskRef) (c : PoolCfg) (b part : Nat) (w : F32) (e : Engine) : Engine :=
  bagContrib r b part w { contribVals (List.replicate c.width 0) with ints := if c.accInt then List.replicate c.width 0 else [] } e

/-- One mapped index, or half of a pair under COMPOSE_SUM, of a bag. -/
def placeMapped (r : TaskRef) (c : PoolCfg) (b part : Nat) (w : F32) (m : Mapped) (acc : SubAcc) (e : Engine) :
    SubAcc × Engine :=
  match m with
  | .zero => (acc, zeroRow r c b part w e)
  | .row slot row _ => placeRow r c b part slot row w none acc e

/-- A pair under COMPOSE_MUL (R78): shipped to the home of the A row, or formed here. The row number 2^40 stands for a
zero half (the model's own spelling). -/
def placeProduct (r : TaskRef) (c : PoolCfg) (b part pos : Nat) (w : F32) (ma mb : Mapped) (acc : SubAcc) (e : Engine) :
    SubAcc × Engine :=
  let zeros : List F32 := List.replicate c.width 0
  match ma, mb with
  | .zero, .zero => (acc, zeroRow r c b part w e)
  | .zero, .row sb rb _ => placeRow r c b part sb rb w (some pos) acc (bagPair r b part w pos zeros e)
  | .row sa ra _, mb =>
    let pa := place sa ra e
    if pa.device = thisDev e || c.gather then
      match mb with
      | .zero => placeRow r c b part sa ra w (some pos) acc (bagPair r b part w pos zeros e)
      | .row sb rb _ =>
        let x := placeRow r c b part sa ra w (some pos) acc e
        placeRow r c b part sb rb w (some pos) x.1 x.2
    else
      match homeReach r pa.device e with
      | some e => (acc, e)
      | none =>
        let rb := match mb with | .zero => 2 ^ 40 | .row _ rb _ => rb
        (subAdd (pa.device, pa.slice, sa) (ra, some rb, w) acc, e)

/-- One index of a bag: its mapping, its count and its contributions (R74, R77, R80, R132, R139). -/
def placeIndex (r : TaskRef) (c : PoolCfg) (b part pos : Nat) (x : Nat) (w : F32) (acc : SubAcc) (e : Engine) :
    SubAcc × Engine :=
  let i := imgOf c.slot e
  let count (dflt : Bool) (e : Engine) : Engine :=
    let e := if dflt then updBag r b (fun q => { q with dflts := q.dflts + 1 }) (flagJob r flDefault e) else e
    if dflt && cExclDefault i then e
    else updBag r b (fun q => { q with n := q.n + 1, sw := if c.mode = 4 then (laneAdd q.sw w f32One).1 else q.sw }) e
  if cComposed i then
    match mapPair c.slot x e with
    | none => (acc, zeroRow r c b part w (count true e))
    | some (a, bm) =>
      let e := count (a.isDefault || bm.isDefault) e
      if cHash i = 3 then
        let y := placeMapped r c b part w a acc e
        placeMapped r c b part w bm y.1 y.2
      else placeProduct r c b part pos w a bm acc e
  else
    let m := mapIndex c.slot x e
    placeMapped r c b part w m acc (count m.isDefault e)

/-- Splits a list into runs of at most 240 rows (R144). -/
def chunks240 {α : Type} : Nat → List α → List (List α)
  | 0, _ => []
  | fuel + 1, l => if l.isEmpty then [] else l.take 240 :: chunks240 fuel (l.drop 240)

/-- Sends the sub-lists of a bag and awaits one partial per home (R144, R146). -/
def sendSubLists (r : TaskRef) (t : Task) (c : PoolCfg) (b : Nat) (acc : SubAcc) (e : Engine) : Engine :=
  forEach acc (fun s e =>
    let (dev, slice, slot) := s.1
    let p : Place := { place slot ((s.2.map (·.1)).headD 0) e with device := dev, slice }
    let hpos := profF t .slcProfHome Fld.SLC_PROF_HOME_HOME_POS e +
      b % profF t .slcProfHome Fld.SLC_PROF_HOME_HOME_POS_COUNT e
    let htile := profF t .slcProfHome Fld.SLC_PROF_HOME_HOME_TILE e
    let cs := chunks240 s.2.length s.2
    let e := updBag r b (fun x => { x with partials := x.partials ++ [(dev, slice, slot)] }) e
    forEach cs.zipIdx (fun q e =>
      let fl : PoolFlags := { weighted := modeWeighted c.mode, accInt := c.accInt, wide := c.wide
                              prefetch := c.prefetch, last := decide (q.2 + 1 = cs.length)
                              subB := if cHash (imgOf c.slot e) = 4 then cSubB (imgOf c.slot e) else 0 }
      sendMsg { tableHdr dev slice slot p e with ref := refNum r, arg := b, srcSlice := dq t.desc 1 4 2 }
        (.subList b hpos htile fl (q.1.map (fun x => (x.1, x.2.1))) (if fl.weighted then q.1.map (·.2.2) else [])) e) e) e

/-- The exact sum of preloaded values starts the checker lane (R392). -/
def preloadChk (sums : List F32) : Lane :=
  match exactSum sums with
  | some q => ⟨rn false q, 0⟩
  | none => ⟨f32NaN, 0⟩

/-- Length of the save image of T tiles (R356). -/
def saveSize (tiles : Nat) : Nat := tiles * 512 + 256

/-- The save image of a bag (R356). -/
def saveImage (n : Nat) (c : PoolCfg) (x : Bag) (e : Engine) : List Byte :=
  let g := partGroup n c x 0
  let q := x.parts.getD 0 ⟨0, 0, 0, ⟨0, 0⟩, false⟩
  padTo (saveSize (runTiles c)) (laneBytes (groupLanes g e) ++ laneBytes (groupOutl g e) ++ laneBytes [x.sw] ++ laneBytes [q.chk] ++
    toBytes 4 x.dflts ++ toBytes 1 (b2n (groupSat g e)))

/-- A bag reloaded from its save image (R356, R357): its tiles, outlier lanes, Σw pair, checker pair and TILE_SAT, and the
divisor count of the `done` indices below P. -/
def reloadBag (r : TaskRef) (n : Nat) (c : PoolCfg) (b done : Nat) (img : List Byte) (e : Engine) : Engine :=
  match findBag r b e with
  | none => e
  | some x =>
    let at_ := runTiles c * 512
    let pair (o : Nat) : Lane := (lanesOf 1 (img.drop (at_ + o))).headD ⟨0, 0⟩
    let d := ofBytes ((img.drop (at_ + 144)).take 4)
    let sat := decide (ofBytes ((img.drop (at_ + 148)).take 1) = 1)
    let e := setGroup (partGroup n c x 0) (lanesOf (64 * runTiles c) img) (lanesOf 16 (img.drop at_)) sat e
    let e := updBag r b (fun x => { x with
      sw := pair 128, dflts := d, n := done - (if cExclDefault (imgOf c.slot e) then d else 0) }) e
    updPart r b 0 (fun q => { q with chk := pair 136 }) e

/-- The position in the index list of the first index of a bag; a near-path bag counts from its own (R129, R130, R346). -/
def firstIndex (t : Task) (j : Job) (c : PoolCfg) (b : Nat) : Nat :=
  match t.ref with
  | .near _ => 0
  | _ => if dOpcode t.desc = 0x01 then listNat (j.lists.getD 1 { cursor := 0 }) b 4
    else if dOpcode t.desc = 0x05 then c.topK * b else b

/-- Starts pooling a bag whose preload is known: its tiles, then its indices in list order (R131, R136, R148). -/
def runBag (r : TaskRef) (b : Nat) (sums : List F32) (e : Engine) : Engine :=
  match findTask r e, findJob r e, findBag r b e with
  | some t, some j, some x =>
    match j.pool with
    | none => e
    | some pr =>
      let c := pr.cfg
      let n := poolAt j e
      let e := noteOverlap r b e
      let e := forEach x.parts.zipIdx (fun q e =>
        startGroup { slice := n, pos := q.1.pos, first := q.1.tile, tiles := runTiles c } (if q.2 = 0 then sums else []) e) e
      let e := updBag r b (fun x => { x with
        ready := true, n := 0, dflts := 0, sw := ⟨0, 0⟩, chkInt := 0, partials := [], asked := [], halves := [], split := 0, merged := none
        parts := (x.parts.zipIdx).map (fun q => { q.1 with
          waiting := 0, written := false, chk := if q.2 = 0 && !sums.isEmpty then preloadChk sums else ⟨0, 0⟩ }) }) e
      let k := x.parts.length
      -- a bag that goes on from a save image accepts the indices from P on (R364)
      let skip := match pr.saved with
        | some s => if x.redo.isNone then s.1 - firstIndex t j c b else 0
        | none => 0
      let e := match pr.saved with
        | some s => if skip = 0 then e else reloadBag r n c b skip s.2 e
        | none => e
      let e := updPool r (fun p => { p with saved := none }) e
      let a := (x.indices.zipIdx.drop skip).foldl (fun (s : SubAcc × Engine) q =>
        placeIndex r c b (partFor k x.indices.length q.2) q.2 q.1.1 q.1.2 s.1 s.2) (([] : SubAcc), e)
      sendSubLists r t c b a.1 a.2
  | _, _, _ => e

/-- The sums a bag without residual starts from (R136). -/
def plainSums (c : PoolCfg) (pr : PoolRun) : List F32 := if c.preload = 1 then pr.bias else []

/-- The bytes of a bag's output row (R153), for its residual (R136). -/
def outRowAt (c : PoolCfg) (b : Nat) (e : Engine) : OutLoc :=
  outLoc e c.outBl (b * c.stride) (packedSize (ofFmt c.outFmt) c.width)

/-- Opens a bag: its participants, and its residual read where it has one (R135, R136, R148). -/
def openBag (r : TaskRef) (t : Task) (c : PoolCfg) (pr : PoolRun) (b : Nat) (idx : List (Nat × F32)) (e : Engine) : Engine :=
  let bag : Bag := { idx := b, parts := bagParts t c b idx.length e, indices := idx, ready := decide (c.preload ≠ 2) }
  let e := updPool r (fun p => { p with nextBag := b + 1, bags := p.bags ++ [bag] }) e
  if c.preload = 2 then
    match outRowAt c b e with
    | .segs sg => issueXfers r (addXfer r (.residual b) ((sg.map (·.1)).headD 0) (packedSize (ofFmt c.outFmt) c.width) [] e)
    | .short => failAt r b stBadDesc 0x61 e
    | .bad => failAt r b stBadDesc 0x60 e
    | .held => updPool r (fun p => { p with nextBag := b, bags := p.bags.filter (fun x => decide (x.idx ≠ b)) }) e
  else runBag r b (plainSums c pr) e

/-- What the next bag of a run lacks, or its indices. -/
inductive NextBag where
  | wait
  | fail (st dt : Nat)
  | need (idx : Nat) (wts : Nat)
  | go (idx : List (Nat × F32))

/-- Looks at bag `b` of a run: its offsets, then its indices and weights (R129, R130). -/
def lookBag (op : Nat) (j : Job) (c : PoolCfg) (b : Nat) : NextBag :=
  let li := j.lists.getD 0 { cursor := 0 }
  let lo := j.lists.getD 1 { cursor := 0 }
  let lw := j.lists.getD 2 { cursor := 0 }
  let range : NextBag ⊕ (Nat × Nat) :=
    if op = 0x01 then
      if lo.got.length < 4 * (b + 2) then (if listShort lo then .inl (.fail stBadDesc (shortDetail lo)) else .inl .wait)
      else
        let a := listNat lo b 4
        let z := listNat lo (b + 1) 4
        if (b = 0 && a ≠ 0) || z < a then .inl (.fail stBadDesc 0x19) else .inr (a, z)
    else
      let k := if op = 0x05 then c.topK else 1
      .inr (k * b, k * (b + 1))
  match range with
  | .inl x => x
  | .inr (a, z) =>
    let wt := modeWeighted c.mode
    if li.got.length < 8 * z || (wt && lw.got.length < 4 * z) then
      let liOut := listShort li && decide (8 * z ≤ li.need)
      if liOut || (wt && listShort lw && decide (4 * z ≤ lw.need))
      then .fail stBadDesc (shortDetail (if liOut then li else lw)) else .need (8 * z) (if wt then 4 * z else 0)
    else .go ((List.range (z - a)).map (fun k =>
      (listNat li (a + k) 8, if wt then BitVec.ofNat 32 (listNat lw (a + k) 4) else f32One)))

/-- The index list or the weight list was not read as far as a bag now asks. -/
def lists2Short (j : Job) (a w : Nat) : Bool :=
  decide ((j.lists.getD 0 { cursor := 0 }).need < a) || decide ((j.lists.getD 2 { cursor := 0 }).need < w)

/-- Opens bags while lists, tile groups and the split rule allow (R130, R135, R148); under a RING_SAVE of its ring a task
opens no more (R362), and a near-path instruction opens its own (R346). -/
def poolAdvance (r : TaskRef) : Nat → Engine → Engine
  | 0, e => e
  | fuel + 1, e =>
    match findTask r e, findJob r e with
    | some t, some j =>
      match j.pool with
      | none => e
      | some pr =>
        let c := pr.cfg
        let b := pr.nextBag
        let saving := match r with | .ring n _ => ringSaving n e | .near _ => true | .sring => false
        if haltsItems j || decide (c.bags ≤ b) || saving then e
        else
          let g := c.posCount * (c.span / runTiles c)
          let busy := pr.bags.any (fun x => decide (x.idx + g ≤ b))
          let biasIn := match j.lists[3]? with | some l => listFull l | none => true
          let samePos := pr.bags.any (fun x => !x.ready && decide (x.idx % c.posCount = b % c.posCount))
          if busy || !biasIn || samePos then e
          else match lookBag (dOpcode t.desc) j c b with
            | .wait => pump r e
            | .fail st dt => failAt r b st dt e
            | .need a w =>
              let grow (k n : Nat) (l : List LStream) : List LStream := match l[k]? with
                | some x => l.set k { x with need := max x.need n }
                | none => l
              let e := pump r (updJob r (fun j => { j with lists := grow 2 w (grow 0 a j.lists) }) e)
              if lists2Short j a w then poolAdvance r fuel e else e
            | .go idx =>
              let parts := bagParts t c b idx.length e
              if decide (1 < parts.length) && pr.bags.any (fun x => decide (1 < x.parts.length)) then e
              else poolAdvance r fuel (openBag r t c pr b idx e)
    | _, _ => e

/-- The lists of a pooling task: indices, offsets, weights, bias, rescale table. The last two are plain ranges. -/
def poolLists (op : Nat) (t : Task) (c : PoolCfg) (e : Engine) : List LStream :=
  let d := t.desc
  let k := if op = 0x05 then c.topK else 1
  let plain (a n : Nat) : LStream := { cursor := 0, blk := a, start := a, left := n, need := n, ended := true }
  let rs := cRescale (imgOf c.slot e)
  [ { cursor := dBl d 1, need := if op = 0x01 then 0 else 8 * k * c.bags },
    { cursor := dBl d 2, need := if op = 0x01 then 4 * (c.bags + 1) else 0 },
    { cursor := dBl d 3, need := if op = 0x01 || !modeWeighted c.mode then 0 else 4 * k * c.bags },
    (if c.preload = 1 then plain (profF t .slcProfBias Fld.SLC_PROF_BIAS_BIAS_ADDR e * 64) (4 * c.width) else { cursor := 0, ended := true }),
    (if rs ≠ 0 then plain (2 ^ 62 + rs) (4 * c.width) else { cursor := 0, ended := true }) ]

/-- Where the outputs of a pooling task lie: rows, scale records, side records (R153). -/
def poolOuts (c : PoolCfg) : List (Nat × Nat) :=
  let rec1 := if ofScaled c.outFmt then [(2 ^ 64 + c.scaleAddr, 8)] else []
  let side := if c.sideEn then [(2 ^ 64 + c.scaleAddr + (if ofScaled c.outFmt then 8 * c.bags else 0), 8)] else []
  (c.outBl, c.stride) :: (rec1 ++ side)

/-- The body of a pooling task: its lists are read and its bags opened; BAGS = 0 completes at once (R127, R128). -/
def poolBody (op : Nat) (t : Task) (e : Engine) : Engine :=
  let c := cfgOf t e
  let e := updJob t.ref (fun j => { j with
    -- a task that RING_RESTORE brings back goes on from its BAG (R364)
    pool := some { cfg := c, nextBag := (j.pool.map (·.nextBag)).getD 0, saved := j.pool.bind (·.saved) }
    total := c.bags, issued := true, outs := poolOuts c
    lists := if c.bags = 0 then [] else poolLists op t c e }) e
  poolAdvance t.ref (2 * c.bags + 2) (pump t.ref e)

/-- LOOKUP_POOL (R127). -/
def doLookupPool (r : TaskRef) (e : Engine) : Engine := startTask 0x01 r poolCheck (poolBody 0x01) e

/-- GATHER_ROWS (R145). -/
def doGatherRows (r : TaskRef) (e : Engine) : Engine := startTask 0x02 r poolCheck (poolBody 0x02) e

/-- COMBINE (R176). -/
def doCombine (r : TaskRef) (e : Engine) : Engine := startTask 0x05 r poolCheck (poolBody 0x05) e

/-- FP32 values of a list that has been read. -/
def listF32 (l : LStream) : List F32 := f32sAt l.got 0 (l.got.length / 4)

/-- New list bytes of a pooling task: bias and rescale values are kept, and bags may open. -/
def poolListIn (r : TaskRef) (e : Engine) : Engine :=
  match findJob r e with
  | none => e
  | some j =>
    let val (k : Nat) : List F32 := match j.lists[k]? with
      | some l => if listFull l && decide (l.need ≠ 0) then listF32 l else []
      | none => []
    let e := updPool r (fun p => { p with bias := val 3, rescale := val 4 }) e
    poolAdvance r (2 * (match j.pool with | some p => p.cfg.bags | none => 0) + 2) e

/-- The residual row of a bag is in: the bag starts (R136). -/
def residualIn (r : TaskRef) (b : Nat) (e : Engine) : Engine :=
  match poolOf r e with
  | none => e
  | some pr =>
    let c := pr.cfg
    match outRowAt c b e with
    | .segs sg =>
      let bytes := (sg.map (fun s => eaRead s.1 s.2 e)).flatten
      let f := ofFmt c.outFmt
      runBag r b ((unpackCodes f c.width bytes).map (fmtDecode f)) e
    | _ => e

end Sys2Proof.Machine
end

