-- ==== Sys2Proof/Machine/BagClose.lean ====
section
/-! DEFINITION. The end of a bag: split participants, the ABFT check and recomputation, finalisation and the Glaze
stage; sub-lists, partials and row messages (05_lookup_and_pooling.md R140 to R153, 14 R392 to R395). -/

namespace Sys2Proof.Machine

/-! Lanes at the end of a participant. -/

/-- The lanes of a group with its outlier lanes merged (R115, R140 step 1), and whether a lane saturated. -/
def mergedLanes (c : PoolCfg) (g : Group) (e : Engine) : List Lane × Bool :=
  let m := mergeOutl (groupLanes g e) (groupOutl g e) (if c.wide || c.region.isSome then [] else anyChans c.slot e)
  (m.1, m.2 || groupSat g e)

/-- The outlier lanes of a group are merged and stand at +0. -/
def mergeGroup (c : PoolCfg) (g : Group) (e : Engine) : Engine :=
  let m := mergedLanes c g e
  setGroup g m.1 (List.replicate 16 ⟨0, 0⟩) m.2 e

/-! Split bags (R149). -/

/-- The LLM offset of scratch slot `j` of a task. -/
def scratchOff (t : Task) (c : PoolCfg) (j : Nat) (e : Engine) : Nat :=
  profF t .slcProfScratch Fld.SLC_PROF_SCRATCH_SCRATCH e * 512 + j * runTiles c * 512

/-- Lanes merged into a group: by lane_merge, or by the saturating integer add (R142, R145). -/
def mergeInto (accInt : Bool) (g : Group) (ls : List Lane) (e : Engine) : Engine :=
  let m := if accInt then lanesZip (fun l (p : Lane) => let t := intAdd l.s p.s.toInt; ((⟨t.1, 0⟩ : Lane), t.2)) (groupLanes g e) ls
    else lanesZip laneMerge (groupLanes g e) ls
  setGroup g m.1 (groupOutl g e) m.2 e

/-- The last participant merges the other slots in ascending order (R149 step 3). -/
def splitMerge (r : TaskRef) (t : Task) (j : Job) (pr : PoolRun) (x : Bag) (part : Nat) (e : Engine) : Engine :=
  let n := poolAt j e
  let g := partGroup n pr.cfg x part
  let others := (List.range x.parts.length).filter (fun k => decide (k ≠ part))
  let e := forEach others (fun k e =>
    let ls := lanesOf (64 * runTiles pr.cfg) (eaRead (llmAddr j.slice (scratchOff t pr.cfg k e)) (runTiles pr.cfg * 512) e)
    let e := mergeInto pr.cfg.accInt g ls e
    setGroup g (groupLanes g e) (groupOutl g e) (groupSat (partGroup n pr.cfg x k) e) e) e
  let chk := (others.map (fun k => (x.parts.getD k ⟨0, 0, 0, ⟨0, 0⟩, false⟩).chk)).foldl (fun a b => (laneMerge a b).1)
    (x.parts.getD part ⟨0, 0, 0, ⟨0, 0⟩, false⟩).chk
  updBag r x.idx (fun x => { x with merged := some part })
    (updPart r x.idx part (fun q => { q with chk }) e)

/-- A participant has everything it pools: participant 0 also every partial (R149). -/
def partReady (x : Bag) (part : Nat) : Bool :=
  match x.parts[part]? with
  | none => false
  | some q => x.ready && !q.written && decide (q.waiting = 0) && (decide (part ≠ 0) || x.partials.isEmpty)

/-- SPLIT_SLOT_WRITTEN: a participant's scratch write becomes visible and it increments the split count; `acc` is how
the access ended (R149, R150). -/
def doSplitSlot (r : TaskRef) (b part : Nat) (acc : Access) (e : Engine) : Engine :=
  match findTask r e, findJob r e, findBag r b e with
  | some t, some j, some x =>
    match j.pool with
    | none => e
    | some pr =>
      if !alive e || j.fault.isSome || decide (x.parts.length ≤ 1) || !partReady x part then e
      else
        let off := scratchOff t pr.cfg part e
        if acc = .portError ∨ acc = .badTwice ∨ 2 ^ 27 < off + runTiles pr.cfg * 512 then failTask r stAddrFault 0x13 e
        else
          let g := partGroup (poolAt j e) pr.cfg x part
          let e := mergeGroup pr.cfg g e
          let e := eaWrite (llmAddr j.slice off) (laneBytes (groupLanes g e)) e
          let e := updPart r b part (fun q => { q with written := true }) e
          let e := progress r (updBag r b (fun x => { x with split := x.split + 1 }) e)
          match findBag r b e with
          | none => e
          | some x => if x.split = x.parts.length then splitMerge r t j pr x part e else e
  | _, _, _ => e

/-! Finalisation and the Glaze stage (R140, R151 to R153). -/

/-- The divisor of a bag (R132, R139). -/
def bagDivisor (c : PoolCfg) (x : Bag) : F32 :=
  match c.mode with
  | 2 => f32OfNat x.n
  | 4 => if f32IsFin x.sw.s && f32IsFin x.sw.c then rn false ((f32Q x.sw.s).add (f32Q x.sw.c)) else f32Add x.sw.s x.sw.c
  | 5 => f32Sqrt ⟨x.n, 1⟩
  | _ => f32One

/-- The finalised values of lanes and whether one saturated (R140, R142). -/
def finalise (c : PoolCfg) (x : Bag) (lanes : List Lane) : List F32 × Bool :=
  let ys := (lanes.take c.width).map (fun l =>
    if c.accInt then (rn false (Q.ofInt l.s.toInt), false) else laneFinal l (bagDivisor c x))
  (ys.map (·.1), ys.any (·.2))

/-- The side record of a row: ROW_MAX and ROW_SUM, and whether the sum saturated (R152). -/
def sideRecord (ys : List F32) : List Byte × Bool :=
  let pinf := ys.any (fun y => f32IsInf y && !f32Neg y)
  let ninf := ys.any (fun y => f32IsInf y && f32Neg y)
  if ys.any f32IsNaN || (pinf && ninf) then (toBytes 4 0x7FC00000 ++ toBytes 4 0x7FC00000, false)
  else
    let mx := match ys with | [] => f32Zero | y :: r => r.foldl f32Max2 y
    if pinf || ninf then (toBytes 4 mx.toNat ++ toBytes 4 (f32InfOf ninf).toNat, false)
    else
      let q := (exactSum ys).getD (Q.ofInt 0)
      let s := rn (ys.all (fun y => f32IsZero y && f32Neg y)) q
      let sat := f32IsInf s
      let s := if sat then f32Mk q.isNeg 0x7F7FFFFF else s
      (toBytes 4 mx.toNat ++ toBytes 4 s.toNat, sat)

/-- An output row in OUT_FMT: its bytes, scale record, quantised and clipped elements, degenerate or not (R103, R119). -/
def glazeRow (fmt : Nat) (ys : List F32) : List Byte × List Byte × Nat × Nat × Bool :=
  let f := ofFmt fmt
  let size := packedSize f ys.length
  if ofScaled fmt then
    let g := encodeGroup f (ofZp fmt) ys
    (packCodes f g.codes size, toBytes 4 g.scale.toNat ++ toBytes 4 g.zp.toNat, ys.length, g.clipped, g.degen)
  else
    let cs := ys.map (narrow f)
    (packCodes f (cs.map (·.1)) size, [], if f = 0 then 0 else ys.length, (cs.filter (·.2)).length, false)

/-- The participant in whose tiles a bag closes (R149 step 4). -/
def closePart (x : Bag) : Nat := x.merged.getD 0

/-- The outlier channels kept for a table break R116: not distinct, or not below WIDTH. -/
def headerBroken (slot : Nat) (e : Engine) : Bool :=
  let i := imgOf slot e
  decide (cOutliers i ≠ 0) &&
  (slotOf slot e).outl.any (fun q => q.2.any (fun c => decide (cWidth i ≤ c)) || decide (q.2.eraseDups.length ≠ q.2.length))

/-- The same for a table that a run pools rows of: the outputs of its bags are undefined (R116). -/
def runHeaderBroken (c : PoolCfg) (e : Engine) : Bool :=
  let i := imgOf c.slot e
  !c.wide && c.region.isNone &&
  (if cComposed i then headerBroken (cSubA i) e || headerBroken (cSubB i) e else headerBroken c.slot e)

/-- A bag passes to the Glaze stage, and its row and records are written (R140, R151 to R153). -/
def glazeBag (r : TaskRef) (j : Job) (pr : PoolRun) (x : Bag) (lanes : List Lane) (sat : Bool) (e : Engine) : Engine :=
  let c := pr.cfg
  let n := poolAt j e
  let y := finalise c x lanes
  let ys := if pr.rescale.isEmpty then y.1 else List.zipWith f32Mul y.1 pr.rescale
  let sd := sideRecord ys
  let o := glazeRow c.outFmt ys
  let e := if sat || y.2 || (c.sideEn && sd.2) then flagJob r flTileSat e else e
  let e := match findTask r e with
    | some t => if dStepMember t.desc && y.1.any (fun v => !f32IsFin v) then raiseStep t.step sfNonfinite e else e
    | none => e
  let e := if o.2.2.2.2 then addCounter n 0 1 e else e
  let e := countJob r o.2.2.1 o.2.2.2.1 e
  let scaled := ofScaled c.outFmt
  let recs := (if scaled then [(c.scaleAddr + 8 * x.idx, o.2.1)] else [])
    ++ (if c.sideEn then [(c.scaleAddr + (if scaled then 8 * c.bags else 0) + 8 * x.idx, sd.1)] else [])
  let e := updPool r (fun p => { p with bags := p.bags.filter (fun b => decide (b.idx ≠ x.idx)) }) e
  let e := if runHeaderBroken c e then updJob r (fun j => { j with undef := x.idx :: j.undef }) e else e
  let e := writeItem r x.idx c.outBl (x.idx * c.stride) (padTo c.stride o.1) recs e
  poolAdvance r (2 * c.bags + 2) e

/-- A bag is pooled again from its first index (R394). -/
def recompute (r : TaskRef) (x : Bag) (pr : PoolRun) (s : F32) (e : Engine) : Engine :=
  let e := updBag r x.idx (fun x => { x with redo := some s, failed := 0 }) e
  if pr.cfg.preload = 2 then residualIn r x.idx e else runBag r x.idx (plainSums pr.cfg pr) e

/-- A bag may close (R151). -/
def bagReady (x : Bag) (pr : PoolRun) (j : Job) : Bool :=
  x.ready && x.partials.isEmpty && x.parts.all (fun q => decide (q.waiting = 0)) && x.halves.isEmpty &&
  (decide (x.parts.length ≤ 1) || x.merged.isSome) &&
  (match j.lists[4]? with | some l => listFull l | none => true) &&
  (pr.rescale.isEmpty || decide (pr.rescale.length = pr.cfg.width))

/-- BAG_CLOSE: a bag that has everything is checked, finalised and written. `chk` is the code of a check of the core or
of the Glaze stage that failed on it: 0x04, 0x05, 0x07, 0x06 or 0x08 (R151, R393 to R395). -/
def doBagClose (r : TaskRef) (b chk : Nat) (e : Engine) : Engine :=
  match findJob r e, findBag r b e with
  | some j, some x =>
    match j.pool with
    | none => e
    | some pr =>
      if !alive e || j.fault.isSome || !bagReady x pr j then e
      else
        let c := pr.cfg
        let n := poolAt j e
        let k := closePart x
        let g := partGroup n c x k
        let q := x.parts.getD k ⟨0, 0, 0, ⟨0, 0⟩, false⟩
        let m := mergedLanes c g e
        let lanes := m.1.take c.width
        let i4 := takeInjection 0x04 n e
        let i5 := takeInjection 0x05 n i4.2
        let i7 := takeInjection 0x07 n i5.2
        let i6 := takeInjection 0x06 n i7.2
        let i8 := takeInjection 0x08 n i6.2
        let e := i8.2
        let code := if i4.1 then 0x04 else if i5.1 then 0x05 else if i7.1 then 0x07
          else if x.failed ≠ 0 then x.failed
          else if chk = 0x04 ∨ chk = 0x05 ∨ chk = 0x07 then chk
          else if j.undef.contains b || abftPasses c.accInt m.2 lanes q.chk x.chkInt then 0 else 0x05
        let glz := if i6.1 then 0x06 else if i8.1 then 0x08 else if chk = 0x06 ∨ chk = 0x08 then chk else 0
        let e := if glz = 0 then e else
          blockMismatch n glz .glaze (logIntegrity 4 n glz 0 6 (i6.1 || i8.1) e)
        let s := if c.accInt then rn false (Q.ofInt (lanesInt lanes)) else lanesSum lanes
        if code = 0 then
          glazeBag r j pr x m.1 m.2 (if x.redo.isSome then flagJob r flRecomputed e else e)
        else
          match x.redo with
          | none => recompute r x pr s (bagDetection n g.pos code (i4.1 || i5.1 || i7.1) e)
          | some s0 =>
            if sumsAgree s0 s then glazeBag r j pr x m.1 m.2 (flagJob r flRecomputed e)
            else failTask r stDataLost 0xB0 e
  | _, _ => e

/-- The running check of one participant: lanes, outlier lanes and checker pair as they stand (R393). -/
def partPasses (c : PoolCfg) (x : Bag) (n k : Nat) (e : Engine) : Bool :=
  let g := partGroup n c x k
  let q := x.parts.getD k ⟨0, 0, 0, ⟨0, 0⟩, false⟩
  c.accInt || abftPasses false (groupSat g e) (groupLanes g e ++ groupOutl g e) q.chk 0

/-- ABFT_CHECK_PERIODIC: the running check of a bag; `bad`: the comparison of the core failed (R393, R394). A failed
bag is recomputed once what it waits for has come. -/
def doAbftPeriodic (r : TaskRef) (b : Nat) (bad : Bool) (e : Engine) : Engine :=
  match findJob r e, findBag r b e with
  | some j, some x =>
    match j.pool with
    | none => e
    | some pr =>
      if !alive e || j.fault.isSome then e
      else
        let n := poolAt j e
        let ok := (List.range x.parts.length).all (fun k => partPasses pr.cfg x n k e) &&
          (!pr.cfg.accInt || abftPasses true (x.parts.zipIdx.any (fun q => groupSat (partGroup n pr.cfg x q.2) e))
            ((x.parts.zipIdx).map (fun q => groupLanes (partGroup n pr.cfg x q.2) e)).flatten ⟨0, 0⟩ x.chkInt)
        if bad || (!ok && x.merged.isNone && !j.undef.contains b) then updBag r b (fun x => { x with failed := 0x05 }) e else e
  | _, _ => e

/-! Sub-lists at the home (R144, R146). -/

/-- Two home runs use a common tile. -/
def homeOverlap (a b : HomeRun) : Bool :=
  decide (a.at_.1 = b.at_.1) && decide (a.at_.2.1 = b.at_.2.1) &&
  decide (a.at_.2.2 < b.at_.2.2 + b.tiles) && decide (b.at_.2.2 < a.at_.2.2 + a.tiles)

/-- The rows a home run holds are read (R144). The row number 2^40 stands for a zero half. -/
def homeRead (id : Nat) (e : Engine) : Engine :=
  match findHome id e with
  | none => e
  | some h =>
    let img := imgOf h.slot e
    let e := updHome id (fun h => { h with rows := [], waiting := h.waiting + h.rows.length +
      (h.rows.filter (fun x => match x.2.1 with | some b => decide (b ≠ 2 ^ 40) | none => false)).length }) e
    forEach h.rows (fun x e =>
      match x.2.1 with
      | none => askRow (.home id x.2.2) h.slot { row := x.1, wide := h.wide } false true h.at_.1 e
      | some rb =>
        let k := takeId e
        let e := askRow (.homePair id x.2.2 k.1) h.slot { row := x.1, wide := h.wide } false true h.at_.1
          (if rb = 2 ^ 40 then updHome id (fun h => { h with halves := tput k.1 (List.replicate (cWidth img) 0) h.halves }) k.2
           else k.2)
        if rb = 2 ^ 40 then e
        else askRow (.homePair id x.2.2 k.1) h.slotB { row := rb, wide := h.wide } false true h.at_.1 e) e

/-- Home runs whose tile group has come free start, oldest first (R146). -/
def startHeld (e : Engine) : Engine :=
  forEach e.homeRuns (fun h0 e =>
    match findHome h0.id e with
    | none => e
    | some h =>
      let before := e.homeRuns.takeWhile (fun x => decide (x.id ≠ h.id))
      if !h.held || before.any (homeOverlap h) then e
      else
        let e := updHome h.id (fun h => { h with held := false }) (startGroup (homeGroup h) [] (noteHome (homeGroup h) e))
        homeClose h.id (homeRead h.id e)) e

/-- Home runs that finish free their tile groups for the next, as far as they go. -/
def startAllHeld (e : Engine) : Engine := forEach (List.range e.homeRuns.length) (fun _ e => startHeld e) e

/-- SUB_LIST at its home (R144, R146, R147). -/
def onSubList (h : Hdr) (bag pos tile : Nat) (fl : PoolFlags) (rows : List (Nat × Option Nat)) (weights : List F32)
    (e : Engine) : Engine :=
  let slot := h.tableId
  let new := (rows.zipIdx).map (fun q => (q.1.1, q.1.2, if fl.weighted then weights.getD q.2 f32One else f32One))
  let e := if fl.prefetch then forEach rows (fun q e =>
      prefetchState slot q.1 e) e else e
  let mine (x : HomeRun) : Bool := decide (x.dev = h.srcDev) && decide (x.ref = h.ref) && decide (x.bag = bag) &&
    decide (x.slot = slot) && decide (x.home = h.dstSlice) && decide (x.part = fl.part) && !x.last
  match e.homeRuns.find? mine with
  | some x =>
    let e := updHome x.id (fun x => { x with rows := x.rows ++ new, last := fl.last, extra := x.extra + fl.extra }) e
    if x.held then e else startAllHeld (homeClose x.id (homeRead x.id e))
  | none =>
    let i := takeId e
    let run : HomeRun := { id := i.1, dev := h.srcDev, slice := h.srcSlice, ref := h.ref, bag, slot, slotB := fl.subB, home := h.dstSlice
                           at_ := (poolSlice h.dstSlice e, pos, tile), tiles := cTilesPerBag (cWidth (imgOf slot e))
                           accInt := fl.accInt, wide := fl.wide, last := fl.last, part := fl.part, extra := fl.extra
                           held := true, rows := new }
    startAllHeld { i.2 with homeRuns := i.2.homeRuns ++ [run] }

/-! Answers at the owner (R145). -/

/-- PARTIAL at its owner: merged into participant 0 of the bag (R145). -/
def onPartial (h : Hdr) (bag : Nat) (lanes : List Lane) (chk : Lane) (chkInt : Int) (bits : StatusBits) (part : Bool)
    (extra : Nat) (e : Engine) : Engine :=
  let r := refOf h.ref
  match findJob r e, findBag r bag e with
  | some j, some x =>
    match j.pool with
    | none => e
    | some pr =>
      let key := (h.srcDev, h.srcSlice, h.tableId)
      if j.fault.isSome || (!part && !x.partials.contains key) then e
      else if bits.lost then failTask r stDataLost 0x11 e
      else
        let g := partGroup (poolAt j e) pr.cfg x 0
        let e := mergeInto pr.cfg.accInt g lanes e
        let e := if bits.sat then setGroup g (groupLanes g e) (groupOutl g e) true e else e
        let e := updPart r bag 0 (fun q => { q with chk := (laneMerge q.chk chk).1 }) e
        let e := updBag r bag (fun x => { x with chkInt := x.chkInt + chkInt, partials := settle key x.partials }) e
        let e := if bits.recomp then flagJob r flRecomputed e else e
        let e := if bits.bypass then flagJob r flBypass e else e
        progress r e
  | _, _ => e
where
  /-- The partials still awaited: a forwarded part and the rest of its sub-list come in either order (R274). -/
  settle (key : Nat × Nat × Nat) (ps : List (Nat × Nat × Nat)) : List (Nat × Nat × Nat) :=
    let early := (101, 0, h.tableId)
    let late := (100, 0, h.tableId)
    let ps := if part then (if ps.contains late then ps.erase late else ps ++ [early]) else ps.erase key
    (List.range extra).foldl (fun ps _ => if ps.contains early then ps.erase early else ps ++ [late]) ps

/-- A row message for a bag of GATHER_ROWS or COMBINE (R145, R177). -/
def bagRow (r : TaskRef) (slot bag row : Nat) (v : RowVal) (e : Engine) : Engine :=
  match findJob r e, findBag r bag e with
  | some j, some x =>
    match j.pool, x.asked.find? (fun a => decide (a.1 = slot) && decide (a.2.1 = row)) with
    | some pr, some a =>
      let img := imgOf slot e
      let e := updBag r bag (fun x => { x with asked := x.asked.erase a }) e
      let e := match a.2.2.2 with
        | some k => bagPair r bag 0 a.2.2.1 k (rowValues img v.chans v) e
        | none =>
          let c := match pr.cfg.region with
            | some (_, f) => contribVals (activationVals pr.cfg.width f v)
            | none => contribOf img v.chans v (decide (pr.cfg.slot ≠ slot)) pr.cfg.accInt
          bagContrib r bag 0 a.2.2.1 c (if pr.cfg.region.isNone && v.chans.length ≠ 0 then noteChans slot v.chans e else e)
      bagGot r bag 0 e
    | _, _ => e
  | _, _ => e
where
  /-- The outlier channels of a table this device holds no row of, as a row message carried them. -/
  noteChans (slot : Nat) (chans : List Nat) (e : Engine) : Engine :=
    let c := slotOf slot e
    if c.outl.isEmpty then setSlot slot { c with outl := tput (512, 0) chans c.outl } e else e

/-- ROW at the owner of a task (R145, R183). -/
def ownerRow (h : Hdr) (bag row : Nat) (val : Option RowVal) (bits : StatusBits) (e : Engine) : Engine :=
  let r := refOf h.ref
  match findJob r e with
  | none =>
    -- a gather of the near path has a task and no job
    match r, val with
    | .near id, some v => nearHalf id (bag / 2) (bag % 2) (rowValues (imgOf h.tableId e) v.chans v) bits.recomp e
    | .near _, none => failTask r stDataLost 0x10 e
    | _, _ => e
  | some j =>
    if j.fault.isSome then e
    else match val with
      | none => failTask r stDataLost 0x10 e
      | some v =>
        let e := progress r (if bits.recomp then flagJob r flRecomputed e else e)
        if j.opcode = 0x03 then
          let key := (bag / 2 ^ 40, bag % 2 ^ 40)
          settleDone r (pageRow r key.1 key.2 (some v) e)
        else if j.opcode = 0x11 then settleDone r (rowReadItem r bag row v e)
        else if j.opcode = 0x08 then
          settleDone r (gradHalf r (bag / 2) (decide (bag % 2 = 1)) (rowValues (imgOf h.tableId e) v.chans v) e)
        else bagRow r h.tableId bag row v e

/-- ROW_REQ at a home (R145, R282). -/
def onRowReq (h : Hdr) (bag : Nat) (ask : RowAsk) (e : Engine) : Engine :=
  let slot := h.tableId
  askRow (.reply h.srcDev h.srcSlice h.ref bag false) slot ask ask.full false (place slot ask.row e).slice e

/-- PREFETCH_HINT at a home (R147). -/
def onPrefetchHint (slot : Nat) (rows : List Nat) (e : Engine) : Engine := forEach rows (prefetchState slot) e

end Sys2Proof.Machine
end

