-- ==== Sys2Proof/Machine/Adders.lean ====
section
/-! DEFINITION. The memory-side adders (11_row_cache_and_memory.md R335 to R339). -/

namespace Sys2Proof.Machine

/-- Bytes of an element of TYPE. -/
def addSize (ty : Nat) : Nat := match ty with | 0 => 4 | 1 => 2 | 2 => 4 | _ => 8

/-- The signed value of `b` bits. -/
def signedOf (b v : Nat) : Int := if 2 ^ (b - 1) ≤ v % 2 ^ b then (v % 2 ^ b : Nat) - (2 ^ b : Nat) else (v % 2 ^ b : Nat)

/-- The exact integer sum, saturated at the limits of `b` bits (R337). -/
def satSum (b t v : Nat) : Nat × Bool :=
  let s := signedOf b t + signedOf b v
  let hi : Int := (2 ^ (b - 1) : Nat) - 1
  let lo : Int := -((2 ^ (b - 1) : Nat) : Int)
  let r := if hi < s then hi else if s < lo then lo else s
  ((r % (2 ^ b : Nat)).toNat, decide (r ≠ s))

/-- What an adder makes of target `t` and value `v` (R337): the new target, quantised, clipped. -/
def adderSum (ty t v : Nat) : Nat × Bool × Bool :=
  match ty with
  | 0 =>
    let x := Ex.add (.val (BitVec.ofNat 32 t)) (.val (BitVec.ofNat 32 v))
    if x.ok then
      let r := x.rn
      if f32IsInf r then ((f32Mk x.neg 0x7F7FFFFF).toNat, false, true) else (r.toNat, false, false)
    else (x.ieee.toNat, false, false)
  | 1 =>
    let x := Ex.add (.val (bf16ToF32 t)) (.val (bf16ToF32 v))
    let r := if x.ok then encodeTz 1 x.neg x.exact else encodeNonFinite 1 x.ieee
    (r.1, true, r.2)
  | 2 => let r := satSum 32 t v; (r.1, false, r.2)
  | _ => let r := satSum 64 t v; (r.1, false, r.2)

/-- Adds packed values into the bytes of a target: the new bytes, elements quantised, elements clipped. -/
def addBytes (ty : Nat) : Nat → List Byte → List Byte → List Byte × Nat × Nat
  | 0, t, _ => (t, 0, 0)
  | fuel + 1, t, v =>
    let k := addSize ty
    if v.length < k ∨ t.length < k then (t, 0, 0)
    else
      let a := adderSum ty (ofBytes (t.take k)) (ofBytes (v.take k))
      let rest := addBytes ty fuel (t.drop k) (v.drop k)
      (toBytes k a.1 ++ rest.1, rest.2.1 + b2n a.2.1, rest.2.2 + b2n a.2.2)

/-- The sectors of an entry get their adds in ascending order, each by one read and one write (R338); false where a
sector fails CHECK. Sectors before it keep their adds. -/
def addSectors (ty a : Nat) (vals : List Byte) (n : Nat) (inj : Bool) : List Nat → Nat × Nat × Engine → Bool × Nat × Nat × Engine
  | [], acc => (true, acc)
  | s :: rest, (q, c, e) =>
    let h := memHalf (thisDev e) (32 * s) e
    if !h.ok then (false, q, c, logIntegrity 2 n 0x01 0 7 inj e)
    else
      let lo := max a (32 * s)
      let hi := min (a + vals.length) (32 * s + 32)
      let r := addBytes ty 16 ((h.bytes.drop (lo - 32 * s)).take (hi - lo)) ((vals.drop (lo - a)).take (hi - lo))
      let bytes := h.bytes.take (lo - 32 * s) ++ r.1 ++ h.bytes.drop (hi - 32 * s)
      addSectors ty a vals n inj rest (q + r.2.1, c + r.2.2, storePart { src := thisDev e, addr := 32 * s, bytes, ver := h.ver } e)

/-- An entry's adds lie in windows of a domain (R336). -/
def inWindow (dom lo hi : Nat) (e : Engine) : Bool :=
  (List.range 16).any (fun k =>
    let b := getF (.hbmAddwinBase k) Fld.HBM_ADDWIN_BASE_BASE e * 4096
    let s := getF (.hbmAddwinSize k) Fld.HBM_ADDWIN_SIZE_SIZE e * 4096
    getB (.hbmAddwinBase k) Fld.HBM_ADDWIN_BASE_VALID e && decide (getF (.hbmAddwinBase k) Fld.HBM_ADDWIN_BASE_DOMAIN e = dom) &&
    decide (b ≤ lo) && decide (hi ≤ b + s))

/-- How the adds of an entry ended. -/
inductive AddEnd where
  | skip | range | window | lost
  | ok (quantised clipped : Nat) (again : Bool)
  deriving DecidableEq, Repr

/-- The adds of one entry with index `x` (R336 to R338). An adder mismatch is retried once (R391). The windows are
checked on the whole entry, whose elements are consecutive; an entry that runs over two adjoining windows is checked
element by element. -/
def addEntry (ty target stride x : Nat) (vals : List Byte) (n dom : Nat) (checked : Bool) (e : Engine) : AddEnd × Engine :=
  let a := target + x * stride
  let k := addSize ty
  if x = 2 ^ 64 - 1 then (.skip, e)
  else if 2 ^ 39 < a + vals.length then (.range, e)
  else if checked && !((List.range (vals.length / k)).all (fun j => inWindow dom (a + j * k) (a + (j + 1) * k) e)) then (.window, e)
  else
    let i := takeInjection 0x12 n e
    let e := if i.1 then logIntegrity 2 n 0x12 0 0 true i.2 else i.2
    let s := (List.range ((a + vals.length + 31) / 32 - a / 32)).map (fun j => a / 32 + j)
    match addSectors ty a vals n false s (0, 0, e) with
    | (true, q, c, e) => (.ok q c i.1, e)
    | (false, _, _, e) => (.lost, e)

/-- The start checks of SCATTER_ADD (R339). -/
def scatterCheck (t : Task) (_ : Engine) : Option (Nat × Nat) :=
  let d := t.desc
  let target := dq d 3 0 64
  let ty := dq d 2 0 3
  let len := dq d 4 32 13
  let stride := dq d 5 0 32
  firstOf [(decide (eaSpace target ≠ 1) || decide (target % 8 ≠ 0), stBadDesc, 0x70),
    (decide (4 ≤ ty) || decide (len = 0) || decide (4096 < len) || decide (stride % addSize ty ≠ 0) ||
      decide (stride < len * addSize ty), stBadDesc, 0x71)]

end Sys2Proof.Machine
end

