-- ==== Sys2Proof/Machine/Near.lean ====
section
/-! DEFINITION. The near path: SHD.GPOOL, SHD.GATHER, SHD.SADD and SHD.SYNC, outcomes, stop points and resume records
(12_near_path.md R344 to R359; 16 R453). -/

namespace Sys2Proof.Machine

/-! The control block (R345) and the resume record (R355). -/

/-- Bits of a quadword of a control block. -/
def cbq (x : NearIn) (q lo w : Nat) : Nat := bitsOf x.cb (64 * q + lo) w

def cbTable (x : NearIn) : Nat := cbq x 0 16 12
def cbWide (x : NearIn) : Bool := decide (cbq x 0 3 1 = 1)
def cbMode (x : NearIn) : Nat := cbq x 0 8 3
def cbSlice (x : NearIn) : Nat := cbq x 0 40 2
def cbOut (x : NearIn) : Nat := cbq x 1 0 64
def cbScale (x : NearIn) : Nat := cbq x 2 0 64
def cbSave (x : NearIn) : Nat := cbq x 3 0 64
def cbStride (x : NearIn) : Nat := cbq x 4 0 32
def cbLen (x : NearIn) : Nat := cbq x 4 32 13

/-- The reserved fields of a control block. -/
def cbReserved (x : NearIn) : Bool :=
  [(0, 7, 1), (0, 42, 6), (0, 62, 2), (4, 45, 19), (5, 0, 64), (6, 0, 64), (7, 0, 64)].any
    (fun f => decide (cbq x f.1 f.2.1 f.2.2 ≠ 0))

/-- The positions one past each END (R344, R346). -/
def nearEnds (x : NearIn) : List Nat :=
  ((x.vs2.take x.count).zipIdx).filterMap (fun q => if bitsOf q.1.toNat 63 1 = 1 then some (q.2 + 1) else none)

/-- The element positions of bag `b`: first and one past the last. -/
def nearRange (x : NearIn) (b : Nat) : Nat × Nat :=
  let es := nearEnds x
  (if b = 0 then 0 else es.getD (b - 1) 0, es.getD b 0)

/-- A final index without END (R346). -/
def nearUnclosed (x : NearIn) : Bool := decide ((nearEnds x).getLastD 0 < x.count)

/-- The instruction in the form of a ring task's descriptor: LOOKUP_POOL with one position and T tiles, a table task for a
gather, SCATTER_ADD (R345 to R348). -/
def nearDesc (x : NearIn) (e : Engine) : BitVec 512 :=
  let q (n v : Nat) : Nat := v * 2 ^ (64 * n)
  let op := if x.kind = 1 then 0x01 else if x.kind = 2 then 0x11 else 0x0A
  let tiles := cTilesPerBag (cWidth (imgOf (cbTable x) e))
  BitVec.ofNat 512 (
    q 0 (op + cbq x 0 3 1 * 2 ^ 13 + cbTable x * 2 ^ 16 + cbq x 0 28 4 * 2 ^ 28) + q 1 (cbSlice x * 2 ^ 4) + q 2 (cbMode x)
    + (if x.kind = 3 then q 3 (cbOut x) + q 4 (cbLen x * 2 ^ 32) + q 5 (cbStride x)
       else q 3 (cbq x 0 4 1 * 2 ^ 3 + (if modeWeighted (cbMode x) then 2 ^ 6 else 0)) + q 4 (cbq x 0 11 5) + q 5 (cbScale x)
        + q 6 ((nearEnds x).length + cbq x 0 32 8 * 2 ^ 24 + cbq x 0 48 8 * 2 ^ 32 + cbq x 0 56 6 * 2 ^ 40 + 2 ^ 48
          + tiles % 2 ^ 9 * 2 ^ 55)))

/-- The 64 bytes of a resume record (R355). -/
def nearRecord (x : NearIn) (t : Task) (saved : Option Nat) (bagStart flags quantised clipped : Nat) (e : Engine) : List Byte :=
  let b := toBytes 8 (x.kind + b2n saved.isSome * 2 ^ 2 + t.priv * 2 ^ 4 + t.domain * 2 ^ 8 +
      getF .nearSts Fld.NEAR_STS_EPOCH e * 2 ^ 16 + x.pos * 2 ^ 32 + bagStart * 2 ^ 48)
    ++ toBytes 8 x.cbAddr
    ++ toBytes 8 (x.count + flags % 256 * 2 ^ 16 + saved.getD 0 * 2 ^ 32)
    ++ toBytes 8 (min quantised (2 ^ 32 - 1) + min clipped (2 ^ 32 - 1) * 2 ^ 32)
    ++ List.replicate 28 0
  b ++ toBytes 4 (crc32 b)

/-! Start checks (R344, R345). -/

/-- The start checks of a near-path instruction, after the count of 0. Where the manual gives no order, they follow R459
with the near path's own codes first. -/
def nearCheck (x : NearIn) (t : Task) (e : Engine) : Option (Nat × Nat) :=
  let w := cWidth (imgOf (cbTable x) e)
  let table := decide (x.kind ≠ 3)
  (firstOf [
    (decide (4096 < x.count), stBadDesc, 0x90),
    (!eaValid x.cbAddr, stBadDesc, 0x65),
    (decide (x.cbAddr % 64 ≠ 0) || decide (cbq x 0 0 2 ≠ x.kind) || cbReserved x || (!table && decide (cbTable x ≠ 0)) ||
      (decide (x.kind = 2) && decide (cbMode x ≠ 0)) || (decide (x.kind = 1) && !outFmtValid (cbq x 0 32 8)), stBadDesc, 0x91)]).or
  ((if table then slotCheck t (cbTable x) e else none).or
  ((if table then composeCheck t (cbTable x) e else none).or
  ((firstOf [
    (table && cbWide x && noMaster (cbTable x) e, stBadDesc, 0x10),
    ((decide (x.kind = 1) && (!eaValid (cbOut x) || !eaValid (cbScale x) || decide (cbScale x % 8 ≠ 0) ||
      !eaValid (cbSave x) || decide (cbSave x % 64 ≠ 0))) || (decide (x.kind = 3) && !eaValid (cbOut x)), stBadDesc, 0x65),
    ((decide (x.kind = 2) && decide (4096 < x.count * w)) || (decide (x.kind = 3) && decide (4096 < x.count * cbLen x)),
      stBadDesc, 0x90),
    (decide (x.kind = 1) && (x.vs2.take x.count).any (fun v => decide (bitsOf v.toNat 32 31 ≠ 0)), stBadDesc, 0x02)]).or
  ((if x.kind = 1 then poolCheck t e else if x.kind = 3 then scatterCheck t e else none).or
  ((firstOf [(sliceOut (cbSlice x) e, stBadDesc, 0x13)]).or
   (if usesLost t e then some (stDataLost, 0xB1) else none))))))

/-! Running. -/

/-- Elements accepted at a time: an index or row boundary at which a stop can fall (DESIGN CHOICE,
notes/assumptions/30.md). -/
def nearSegment : Nat := 64

/-- Asks for a row, or half of a pair, of a gather (R347): read here, taken from a replica, or requested of its home. -/
def nearAsk (x : NearIn) (t : Task) (j half slot row : Nat) (e : Engine) : Engine :=
  let p := place slot row e
  let e := updNear x.id (fun x => { x with pend := x.pend ++ [(j, half)] }) e
  let wide := dReadWide t.desc
  if p.device = thisDev e then askRow (.near x.id j half) slot { row, wide } false true (cbSlice x) e
  else
    let ask (e : Engine) : Engine := match homeReach t.ref p.device e with
      | some e => e
      | none => sendMsg { tableHdr p.device p.slice slot p e with ref := refNum t.ref, arg := 2 * j + half, srcSlice := cbSlice x }
          (.rowReq (2 * j + half) { row, wide }) e
    match (if wide then none else findReplica slot row e) with
    | none => ask e
    | some r =>
      if r.st = .valid then
        nearHalf x.id j half (rowValues (imgOf slot e) r.val.chans r.val) false (updReplica slot row (fun r => { r with refBit := true }) e)
      else ask (if r.st = .invalid || r.dropped then flagTask t.ref flBypass e else e)

/-- A mapped half of gathered row `j`; the zero row needs no read. -/
def nearMapped (x : NearIn) (t : Task) (j half : Nat) (m : Mapped) (e : Engine) : Engine :=
  match m with
  | .row slot row _ => nearAsk x t j half slot row e
  | .zero => nearHalf x.id j half (List.replicate (cWidth (imgOf (dTable t.desc) e)) 0) false
      (updNear x.id (fun x => { x with pend := x.pend ++ [(j, half)] }) e)

/-- Row `j` of a gather: its index is mapped and its halves asked for (R74, R77, R347). -/
def nearRow (x : NearIn) (t : Task) (j : Nat) (e : Engine) : Engine :=
  let slot := dTable t.desc
  let k := (x.vs1.getD j 0).toNat
  let dflt (b : Bool) (e : Engine) : Engine := if b then flagTask t.ref flDefault e else e
  if cComposed (imgOf slot e) then
    match mapPair slot k e with
    | none => nearMapped x t j 0 .zero (dflt true e)
    | some (a, b) =>
      -- the second half is outstanding before the first may come
      let e := updNear x.id (fun x => { x with pend := x.pend ++ [(j, 1)] }) (dflt (a.isDefault || b.isDefault) e)
      let e := nearMapped x t j 0 a e
      nearMapped x t j 1 b (updNear x.id (fun x => { x with pend := x.pend.erase (j, 1) }) e)
  else
    let m := mapIndex slot k e
    nearMapped x t j 0 m (dflt m.isDefault e)

/-- The record leaves and the instruction is gone from the engine; it has not retired (R355). -/
def nearReturn (x : NearIn) (t : Task) (saved : Option Nat) (bagStart flags quantised clipped : Nat) (e : Engine) : Engine :=
  let r := nearRecord x t saved bagStart flags quantised clipped e
  let e := delTask t.ref (match findJob t.ref e with | some j => dropJob j e | none => e)
  setNear { e.near with
    ins := e.near.ins.filter (fun y => decide (y.id ≠ x.id))
    recs := tput (x.thread, x.level) r e.near.recs } e

/-- A gather accepts rows while none is outstanding, ends once vd holds all, or returns its record at a stop (R350, R354). -/
def gatherRun (id : Nat) : Nat → Engine → Engine
  | 0, e => e
  | fuel + 1, e =>
    match findNear id e, findTask (.near id) e with
    | some x, some t =>
      if t.phase ≠ .running ∨ !x.pend.isEmpty then e
      else if x.count ≤ x.pos then
        finishTask t.ref (doneStatus t.flags) 0 t.flags x.count t.clipped t.quantised (updNear id (fun x => { x with retired := !x.precise }) e)
      else if x.stop.isSome then nearReturn x t none 0 t.flags t.quantised t.clipped e
      else
        let z := min x.count (x.pos + nearSegment)
        let e := updNear id (fun x => { x with pos := z }) e
        gatherRun id fuel (forEach ((List.range (z - x.pos)).map (x.pos + ·)) (nearRow x t) e)
    | _, _ => e

/-- The next bag of a GPOOL opens in the instruction's tile group; one that goes on from a stop point is reloaded (R346,
R349, R357). -/
def gpoolOpen (x : NearIn) (j : Job) (pr : PoolRun) (e : Engine) : Engine :=
  let c := pr.cfg
  let r := j.ref
  let b := pr.nextBag
  let rng := nearRange x b
  let start := if pr.saved.isSome then x.bagStart else rng.1
  let idx := (List.range (rng.2 - start)).map (fun k =>
    ((x.vs1.getD (start + k) 0).toNat,
     if modeWeighted c.mode then BitVec.ofNat 32 (bitsOf (x.vs2.getD (start + k) 0).toNat 0 32) else f32One))
  let bag : Bag := { idx := b, parts := [{ pos := c.pos, tile := c.tile }], ready := false, indices := idx }
  let e := updPool r (fun p => { p with nextBag := b + 1, bags := [bag], saved := none }) e
  let n := poolAt j e
  let e := noteOverlap r b (startGroup { slice := n, pos := c.pos, first := c.tile, tiles := runTiles c } [] e)
  match pr.saved with
  | some (p, img) => if img.isEmpty then updNear x.id (fun x => { x with pos := p }) e
    else reloadBag r n c b (p - start) img (updNear x.id (fun x => { x with pos := p }) e)
  | none => updNear x.id (fun x => { x with pos := rng.1, bagStart := rng.1 }) e

/-- A GPOOL accepts the next indices of its bag; with the last of them its sub-lists leave (R144, R346). -/
def gpoolSegment (x : NearIn) (t : Task) (pr : PoolRun) (b : Bag) (e : Engine) : Engine :=
  let c := pr.cfg
  let z := min (nearRange x b.idx).2 (x.pos + nearSegment)
  let from_ := x.pos - x.bagStart
  let some_ := (b.indices.zipIdx.drop from_).take (z - x.pos)
  let a := some_.foldl (fun (s : SubAcc × Engine) q => placeIndex t.ref c b.idx 0 q.2 q.1.1 q.1.2 s.1 s.2) (b.subs, e)
  let e := updNear x.id (fun x => { x with pos := z }) a.2
  if z = (nearRange x b.idx).2 then
    sendSubLists t.ref t c b.idx a.1 (updBag t.ref b.idx (fun b => { b with ready := true, subs := [] }) e)
  else updBag t.ref b.idx (fun b => { b with subs := a.1 }) e

/-- A GPOOL opens bags and accepts indices, one bag after another, until it must wait or a stop point is reached (R346,
R354). -/
def gpoolRun (id : Nat) : Nat → Engine → Engine
  | 0, e => e
  | fuel + 1, e =>
    match findNear id e, findTask (.near id) e, findJob (.near id) e with
    | some x, some t, some j =>
      match j.pool with
      | none => e
      | some pr =>
        let more := decide (pr.nextBag < pr.cfg.bags)
        if j.fault.isSome || x.halt then e
        else match pr.bags with
          | [] =>
            if !more then e
            else if x.stop.isSome then updNear id (fun x => { x with halt := true }) e
            else gpoolRun id fuel (gpoolOpen x j pr e)
          | b :: _ =>
            if b.ready then (if x.stop.isSome && more then updNear id (fun x => { x with halt := true }) e else e)
            else if b.parts.any (fun q => decide (q.waiting ≠ 0)) then
              (if x.stop.isSome && x.expired && decide (cbSave x ≠ 0) then
                updNear id (fun x => { x with halt := true, save := true })
                  (sendSubLists t.ref t pr.cfg b.idx b.subs (updBag t.ref b.idx (fun b => { b with subs := [] }) e))
               else e)
            else gpoolRun id fuel (gpoolSegment x t pr b e)
    | _, _, _ => e

/-- The tiles of a stopped bag are saved and the record returned once everything below P is merged and visible (R354 to
R356). -/
def gpoolSave (x : NearIn) (t : Task) (j : Job) (pr : PoolRun) (b : Bag) (e : Engine) : Engine :=
  let img := saveImage (poolAt j e) pr.cfg b e
  if !eaFits (cbSave x) img.length then failTask t.ref stAddrFault 0x11 e
  else nearReturn x t (some (crc32 img)) x.bagStart j.flags j.quantised j.clipped (eaWrite (cbSave x) img e)

/-- A stopped GPOOL returns its record (R354, R355). -/
def gpoolStop (id : Nat) (e : Engine) : Engine :=
  match findNear id e, findTask (.near id) e, findJob (.near id) e with
  | some x, some t, some j =>
    match j.pool with
    | none => e
    | some pr =>
      if !x.halt || j.fault.isSome || !j.open_.isEmpty || !j.xfers.isEmpty then e
      else match pr.bags with
        | [] => nearReturn x t none x.pos j.flags j.quantised j.clipped e
        | b :: _ =>
          if x.save && b.parts.all (fun q => decide (q.waiting = 0)) && b.partials.isEmpty && b.halves.isEmpty && b.asked.isEmpty
          then gpoolSave x t j pr b e else e
  | _, _, _ => e

/-- A GPOOL retires once the last contribution of its last bag is in (R350); one with a final index that no END closes
ends once the bags before it are written (R346). -/
def gpoolEnd (id : Nat) (e : Engine) : Engine :=
  match findNear id e, findJob (.near id) e with
  | some x, some j =>
    match j.pool with
    | none => e
    | some pr =>
      let last := decide (pr.cfg.bags ≤ pr.nextBag) && pr.bags.all (fun b =>
        b.ready && b.parts.all (fun q => decide (q.waiting = 0)) && b.partials.isEmpty && b.asked.isEmpty)
      let e := if last && !nearUnclosed x then updNear id (fun x => { x with retired := x.retired || !x.precise }) e else e
      if nearUnclosed x && decide (pr.cfg.bags ≤ j.lead) && !x.halt then failTask (.near id) stBadDesc 0x92 e else e
  | _, _ => e

/-- The adds of an SADD from entry P on, each as SCATTER_ADD adds it (R336 to R338, R348). -/
def saddFrom (x : NearIn) (t : Task) : Nat → Nat → Engine → Engine
  | 0, _, e => e
  | fuel + 1, k, e =>
    if x.count ≤ k then finishTask t.ref (doneStatus t.flags) 0 t.flags x.count t.clipped t.quantised e
    else
      let ty := cbMode x
      let size := cbLen x * addSize ty
      let a := addEntry ty (eaAddr (cbOut x)) (cbStride x) (x.vs1.getD k 0).toNat ((x.vals.drop (size * k)).take size) (cbSlice x)
        t.domain (decide (t.priv ≠ 3)) e
      let stop (st dt : Nat) (e : Engine) : Engine := finishTask t.ref st dt t.flags k t.clipped t.quantised e
      match a.1 with
      | .skip => saddFrom x t fuel (k + 1) a.2
      | .range => stop stAddrFault 0x70 a.2
      | .window => stop stPrivilege 0x70 a.2
      | .lost => stop stDataLost 0x70 a.2
      | .ok q c again => saddFrom x { t with
          quantised := t.quantised + q, clipped := t.clipped + c
          flags := if again then orFlags t.flags flRecomputed else t.flags } fuel (k + 1) a.2

/-- The job of a GPOOL: its bags, those before the stop point done (R346, R357). -/
def gpoolBody (x : NearIn) (t : Task) (e : Engine) : Engine :=
  let c := { cfgOf t e with outBl := 2 ^ 64 + cbOut x }
  let rs := cRescale (imgOf c.slot e)
  let k := ((nearEnds x).filter (fun z => decide (z ≤ x.pos))).length
  let img := eaRead (cbSave x) (saveSize (runTiles c)) e
  let good := match x.saveCrc with | some s => decide (crc32 img = s) | none => true
  -- a save image that fails its CRC restarts the bag with its tiles at zero (R357)
  let saved : Option (Nat × List Byte) := match x.saveCrc with
    | some _ => some (if good then (x.pos, img) else (x.bagStart, []))
    | none => if x.pos = (nearRange x k).1 then none else some (x.pos, [])
  let j : Job := { ref := t.ref, opcode := 0x41, slice := cbSlice x, prog := now e
                   pool := some { cfg := c, nextBag := k, saved
                                  rescale := if rs = 0 then [] else f32sAt (eaRead (2 ^ 62 + rs) (4 * c.width) e) 0 c.width }
                   total := c.bags, lead := k, issued := !nearUnclosed x, outs := poolOuts c
                   flags := if good then t.flags else orFlags t.flags flRecomputed
                   clipped := t.clipped, quantised := t.quantised }
  updTask t.ref (fun t => { t with clipped := 0, quantised := 0 }) (addJob j e)

/-- A near-path instruction begins: its checks, then its work. It is held while a CTX_LOAD of its table waits (R91). -/
def nearBegin (x : NearIn) (t : Task) (e : Engine) : Engine :=
  if heldByLoad t e then e
  else
    let e := beginTask t e
    let done (st dt : Nat) (e : Engine) : Engine :=
      finishTask t.ref st dt t.flags 0 t.clipped t.quantised (updNear x.id (fun x => { x with retired := !x.precise }) e)
    match nearCheck x t e with
    | some (st, dt) => done st dt e
    | none =>
      if x.kind = 1 then gpoolBody x t e
      else if x.kind = 2 then updTask t.ref (fun t => { t with items := x.pos }) e
      else saddFrom x t (x.count + 1) x.pos (updNear x.id (fun x => { x with retired := !x.precise }) e)

/-- What a near-path instruction can do now. -/
def nearStep (id : Nat) (e : Engine) : Engine :=
  let e := match findNear id e, findTask (.near id) e with
    | some x, some t => if t.phase = .ready then nearBegin x t e else e
    | _, _ => e
  match findNear id e with
  | none => e
  | some x =>
    if x.kind = 1 then
      let r : TaskRef := .near id
      let e := gpoolStop id (gpoolRun id (2 * x.count + 4) e)
      gpoolEnd id (settleDone r (issueXfers r e))
    else if x.kind = 2 then gatherRun id (x.count + 2) e
    else e

/-- Every near-path instruction goes on as far as it can. -/
def nearSettle (e : Engine) : Engine := forEach (e.near.ins.map (·.id)) nearStep e

/-! SHD_XSTS (R353). -/

/-- SHD_XSTS of a thread. -/
def xstsOf (thread : Nat) (e : Engine) : Xsts := tget {} thread e.near.xsts

/-- The status word (R353). -/
def xstsWord (x : Xsts) : Word :=
  BitVec.ofNat 64 ((if x.status = 0 then stDone else x.status) + x.detail * 2 ^ 8 + x.flags * 2 ^ 16 + b2n x.xtrap * 2 ^ 24 +
    x.index * 2 ^ 32 + x.count * 2 ^ 48)

/-- A status word that traps with SHD_EXCEPTION (R353). -/
def xstsTraps (x : Xsts) : Bool := statusFailed x.status || x.xtrap

/-- An outcome is accumulated (R353). -/
def xstsTake (x : Xsts) (o : NearOut) : Xsts :=
  let first := (decide (x.status = 0) || decide (x.status = stRecomputed)) && decide (o.status ≠ stDone) && decide (o.status ≠ stRecomputed)
  let redo := decide (x.status = 0) && decide (o.status = stRecomputed)
  { status := if first || redo then o.status else x.status
    detail := if first || redo then o.detail else x.detail
    flags := orFlags x.flags o.flags
    xtrap := x.xtrap || o.xtrap
    index := if first || redo then x.count else x.index
    count := min (x.count + 1) 0xFFFF }

/-- The engine with SHD_XSTS of a thread replaced. -/
def setXsts (thread : Nat) (x : Xsts) (e : Engine) : Engine := setNear { e.near with xsts := tput thread x e.near.xsts } e

/-- SHD.SYNC writes SHD_XSTS to rd and clears it, with its trap (R353). -/
def syncNow (thread : Nat) (e : Engine) : Engine :=
  let x := xstsOf thread e
  setNear { e.near with
    words := e.near.words ++ [(thread, xstsWord x, xstsTraps x)]
    syncs := e.near.syncs.filter (fun k => decide (k ≠ thread))
    xsts := tput thread {} e.near.xsts } e

/-- Outcomes that a thread awaits. -/
def outstanding (thread : Nat) (e : Engine) : Bool := e.near.ins.any (fun x => decide (x.thread = thread))

/-- SHD.SYNC (R353). -/
def doSync (thread : Nat) (e : Engine) : Engine :=
  if !alive e || e.near.syncs.contains thread || e.near.ins.any (fun x => decide (x.thread = thread) && !x.retired) then e
  else if outstanding thread e then setNear { e.near with syncs := e.near.syncs ++ [thread] } e
  else syncNow thread e

/-- NEAR_OUTCOME: the oldest instruction of a thread has its outcome, which the vector core takes (R351 to R353). -/
def doNearOutcome (thread : Nat) (e : Engine) : Engine :=
  match e.near.ins.find? (fun x => decide (x.thread = thread)) with
  | none => e
  | some x =>
    match findTask (.near x.id) e with
    | none => e
    | some t =>
      if !alive e || decide (t.phase ≠ .ended) then e
      else
        let o : NearOut := {
          thread, id := x.id, status := t.status, detail := t.detail, flags := t.flags, items := t.items
          xtrap := (hasFlag t.flags flTileSat && decide (cbq x 0 5 1 = 1)) || (hasFlag t.flags flClip && decide (cbq x 0 6 1 = 1)) }
        let e := delTask t.ref e
        let e := setNear { e.near with
          ins := e.near.ins.filter (fun y => decide (y.id ≠ x.id)), outs := e.near.outs ++ [o] } e
        let alone := xstsTake {} o
        let e := if x.precise && xstsTraps alone then
            setNear { e.near with traps := e.near.traps ++ [(thread, xstsWord alone)] } (setXsts thread alone e)
          else setXsts thread (xstsTake (xstsOf thread e) o) e
        if e.near.syncs.contains thread && !outstanding thread e then syncNow thread e else e

/-! Issue, stop and resume. -/

/-- The operands of a near-path request (R344): the instruction's kind, its vectors, count and control block. -/
structure NearReq where
  kind   : Nat
  vs1    : List Word := []
  vs2    : List Word := []
  vals   : List Byte := []
  count  : Nat := 0
  cbAddr : Nat := 0
  deriving DecidableEq, Repr

/-- The vector core can issue an instruction of a thread: its last one has retired and it does not wait in SHD.SYNC. -/
def canIssue (thread : Nat) (e : Engine) : Bool :=
  alive e && !e.near.syncs.contains thread && !(e.near.ins.any (fun x => decide (x.thread = thread) && !x.retired))

/-- An instruction enters the engine with a task of its own (R344). -/
def nearEnter (thread level : Nat) (q : NearReq) (f : NearIn → NearIn) (g : Task → Task) (e : Engine) : Engine :=
  let i := takeId e
  let e := i.2
  let cb := eaNat q.cbAddr 64 e
  let x : NearIn := f { id := i.1, thread, kind := q.kind, cbAddr := q.cbAddr, cb, vs1 := q.vs1, vs2 := q.vs2, vals := q.vals
                        count := q.count, level
                        precise := decide (bitsOf cb 2 1 = 1) || getB .ctl Fld.CTL_PRECISE_DEFAULT e }
  let t : Task := g { ref := .near i.1, desc := nearDesc x e, phase := .ready, priv := level }
  let e := setNear { e.near with ins := e.near.ins ++ [x] } { e with tasks := e.tasks ++ [t] }
  if t.phase = .ended then e else nearStep i.1 e

/-- An instruction that ends at issue with a status (R453, R357). -/
def nearRefuse (thread level domain : Nat) (q : NearReq) (st dt : Nat) (e : Engine) : Engine :=
  nearEnter thread level q (fun x => { x with retired := !x.precise })
    (fun t => { t with domain, phase := .ended, status := st, detail := dt }) e

/-- A near-path instruction is issued (R344 to R350, R453). -/
def doNearIssue (thread level domain : Nat) (q : NearReq) (e : Engine) : Engine :=
  if !canIssue thread e then e
  else if !getB .ctl Fld.CTL_ENABLE e then nearRefuse thread level domain q stBadDesc 0xD0 e
  else if q.count = 0 then nearRefuse thread level domain q stDone 0 e
  else nearEnter thread level q id (fun t => { t with domain }) e

/-- NEAR_STOP_REQUEST: an interrupt finds the last instruction of a thread not retired (R354). A window of 0 is over at
once. -/
def doNearStopRequest (thread : Nat) (e : Engine) : Engine :=
  match e.near.ins.find? (fun x => decide (x.thread = thread) && !x.retired) with
  | none => e
  | some x =>
    if !alive e || x.stop.isSome then e
    else
      let zero := decide (getF .nearCfg Fld.NEAR_CFG_STOP_WINDOW e = 0)
      nearStep x.id (updNear x.id (fun x => { x with stop := some (now e), expired := zero }) e)

/-- NEAR_STOP_WINDOW_EXPIRY (R354): STOP_WINDOW × 100 ns have passed since the request. -/
def doNearWindowExpiry (thread : Nat) (e : Engine) : Engine :=
  match e.near.ins.find? (fun x => decide (x.thread = thread) && !x.retired && x.stop.isSome && !x.expired) with
  | none => e
  | some x =>
    let t0 := x.stop.getD 0
    if !alive e || decide ((now e - t0) * 40 < getF .nearCfg Fld.NEAR_CFG_STOP_WINDOW e * 375) then e
    else nearStep x.id (updNear x.id (fun x => { x with expired := true }) e)

/-- Bits of a resume record. -/
def recq (r : List Byte) (q lo w : Nat) : Nat := bitsOf (ofBytes r) (64 * q + lo) w

/-- A refused resume (R357 steps 3 and 4). -/
def resumeRefused (thread level domain : Nat) (q : NearReq) (r : List Byte) (dt : Nat) (e : Engine) : Engine :=
  let e := incF .nearSts Fld.NEAR_STS_REFUSED 1 e
  let e := logEvent { cluster := 0, slice := 0, typ := 0x03, ref := domain, code := dt, arg := recq r 0 4 2 } e
  nearRefuse thread level domain q stPrivilege dt e

/-- NEAR_RESUME: an instruction is reissued with a resume record (R357, R358), which the vector core consumes. -/
def doNearResume (thread level domain : Nat) (q : NearReq) (r : List Byte) (e : Engine) : Engine :=
  if !canIssue thread e then e
  else
    let e := setNear { e.near with recs := e.near.recs.filter (fun x => decide (x.1.1 ≠ thread) || decide (x.2 ≠ r)) } e
    let inj := takeInjection 0x0F (bitsOf (eaNat q.cbAddr 64 e) 40 2) e
    let e := inj.2
    let crc := inj.1 || decide (r.length ≠ 64) || decide (crc32 (r.take 60) ≠ ofBytes (r.drop 60))
    let e := if crc then logIntegrity 0 0 0x0F 0 7 inj.1 e else e
    let bad := crc || decide (recq r 0 16 16 ≠ getF .nearSts Fld.NEAR_STS_EPOCH e)
    if !getB .ctl Fld.CTL_ENABLE e then nearRefuse thread level domain q stBadDesc 0xD0 e
    else if bad then
      if q.kind = 3 then nearRefuse thread level domain q stDataLost 0x90 e
      else nearEnter thread level q id (fun t => { t with domain, flags := flRecomputed }) e
    else if recq r 0 0 2 ≠ q.kind ∨ recq r 1 0 64 ≠ q.cbAddr ∨ recq r 2 0 13 ≠ q.count then
      nearRefuse thread level domain q stBadDesc 0x93 e
    else if privRank level < privRank (recq r 0 4 2) then resumeRefused thread level domain q r 0x04 e
    else if recq r 0 8 8 ≠ domain ∧ level ≠ 3 then resumeRefused thread level domain q r 0x90 e
    else
      let e := incF .nearSts Fld.NEAR_STS_RESUMES 1 e
      if q.count = 0 then nearRefuse thread level domain q stDone 0 e else
      let saved := decide (recq r 0 2 1 = 1)
      nearEnter thread level q
        (fun x => { x with pos := min (recq r 0 32 13) q.count, bagStart := min (recq r 0 48 13) (recq r 0 32 13)
                           saveCrc := if saved then some (recq r 2 32 32) else none })
        (fun t => { t with priv := recq r 0 4 2, domain := recq r 0 8 8, flags := recq r 2 16 8
                           quantised := recq r 3 0 32, clipped := recq r 3 32 32 }) e

end Sys2Proof.Machine
end

