-- ==== Sys2Proof/Machine/RingImage.lean ====
section
/-! DEFINITION. RING_SAVE and RING_RESTORE (12_near_path.md R360 to R365). -/

namespace Sys2Proof.Machine

/-- TARGET_RING and IMAGE_ADDR of a descriptor (R360). -/
def targetRing (d : BitVec 512) : Nat := dq d 1 0 10
def imageAddr (d : BitVec 512) : Nat := dq d 2 0 64

/-- BAD_TARGET (R361 step 1). -/
def badTarget (t : Task) (e : Engine) : Bool :=
  let k := targetRing t.desc
  (match t.ref with | .ring r _ => decide (r = k) | _ => false) || decide (ringCount e ≤ k)

/-- The start checks of RING_SAVE (R361). -/
def ringSaveCheck (t : Task) (e : Engine) : Option (Nat × Nat) :=
  let k := targetRing t.desc
  let x := ringOf k e
  firstOf [
    (badTarget t e, stBadDesc, 0x94),
    (decide (privRank t.priv < privRank x.ctx.priv), stPrivilege, 0x91),
    (decide (x.ctx.domain ≠ t.domain) && decide (t.priv ≠ 3), stPrivilege, 0x90),
    (decide (x.state = .aborting), stBadDesc, 0x95),
    ((tasksOfRing k e).any (fun u => dPersist u.desc), stBadDesc, 0x96),
    (decide (dq t.desc 3 0 32 < 128 + x.ctx.maxInflight * 33152), stBadDesc, 0x97)]

/-- A pooling opcode, whose tasks stop at an index boundary (R362). -/
def isPooling (op : Nat) : Bool := [0x01, 0x02, 0x05].contains op

/-- A task of the target has stopped: it has ended, or it pools, has no bag open and every output is visible. -/
def taskSaved (t : Task) (e : Engine) : Bool :=
  decide (t.phase = .ended) ||
  (isPooling (dOpcode t.desc) && match findJob t.ref e with
    | none => false
    | some j => j.waitSlot || (j.fault.isNone && j.open_.isEmpty && j.heldOut.isEmpty && !j.xfers.any isWrite &&
        (match j.pool with | some p => p.bags.isEmpty | none => false)))

/-- A task record of an image (R363). -/
def imageRecord (x : Ring) (t : Task) (e : Engine) : List Byte :=
  let pos := match t.ref with | .ring _ p => p | _ => 0
  let done := decide (t.phase = .ended)
  let j := (findJob t.ref e).getD { ref := t.ref, opcode := 0 }
  let c := match j.pool with | some p => p.cfg | none => cfgOf t e
  let bag := match j.pool with | some p => p.nextBag | none => 0
  let q := t.quantised + (if done then 0 else j.quantised)
  let k := t.clipped + (if done then 0 else j.clipped)
  let cap (v : Nat) : Nat := min v (2 ^ 32 - 1)
  toBytes 64 t.desc.toNat
  ++ toBytes 8 (b2n done + runTiles c % 128 * 2 ^ 8 + (if done then 0 else firstIndex t j c bag) % 2 ^ 32 * 2 ^ 32)
  ++ toBytes 8 ((if done then t.items else itemsOf j j.lead) % 2 ^ 24 + bag % 2 ^ 24 * 2 ^ 32)
  ++ toBytes 8 (cap q + cap k * 2 ^ 32)
  ++ toBytes 8 (orFlags t.flags j.flags % 256)
  ++ (if done then taskRecord x.ctx pos t else List.replicate 32 0)

/-- The bytes of an image: header, then the task records in position order (R363). -/
def imageBytes (k : Nat) (ts : List Task) (e : Engine) : List Byte :=
  let x := ringOf k e
  let recs := (ts.map (fun t => imageRecord x t e)).flatten
  let head := toBytes 8 (0x5352 + 2 ^ 16 + x.ctx.priv * 2 ^ 24 + x.ctx.domain * 2 ^ 32 + x.ctx.log2Size * 2 ^ 40)
    ++ toBytes 8 (x.nextPos.toNat + ts.length * 2 ^ 32) ++ List.replicate 108 0
  head ++ toBytes 4 (crc32 (head ++ recs)) ++ recs

/-- The tasks of a ring in position order. -/
def tasksInOrder (k : Nat) (e : Engine) : List Task :=
  let base := (ringOf k e).cplPos
  let pos (t : Task) : BitVec 32 := match t.ref with | .ring _ p => p | _ => 0
  (tasksOfRing k e).mergeSort (fun a b => decide ((pos a - base).toNat ≤ (pos b - base).toNat))

/-- A RING_SAVE whose target's tasks have all stopped writes the image and stops the ring (R362 step 5). -/
def saveRing (r : TaskRef) (e : Engine) : Engine :=
  match findTask r e, findJob r e with
  | some t, some j =>
    if j.opcode ≠ 0x19 then e
    else
      let k := targetRing t.desc
      let ts := tasksInOrder k e
      if !ts.all (fun u => taskSaved u e) then e
      else
        let img := imageBytes k ts e
        if !eaFits (imageAddr t.desc) img.length then failTask r stAddrFault 0x11 e
        else
          let e := eaWrite (imageAddr t.desc) img e
          let e := forEach ts (fun u e =>
            delTask u.ref (match findJob u.ref e with | some j => dropJob j e | none => e)) e
          let x := ringOf k e
          let e := updRing k (fun x => { x with cplPos := x.nextPos, startAt := x.nextPos, cmdWait := false }) e
          let e := if x.state = .stopped then e else enterState k .stopped e
          let e := if x.cmdWait then ringResult 0 e else e
          finishTask r stDone 0 0 ts.length 0 0 (delJob r e)
  | _, _ => e

/-- The body of RING_SAVE (R362 steps 1 to 4). A FENCE that has started and waits counts as not started, since the tasks
it waits for stop with the ring (DESIGN CHOICE, notes/assumptions/31.md). -/
def ringSaveBody (t : Task) (e : Engine) : Engine :=
  let k := targetRing t.desc
  let e := passEnded k 64 e
  let x := ringOf k e
  let stop := match (tasksOfRing k e).find? (fun u => decide (dOpcode u.desc = 0x1E) && decide (u.phase = .running)) with
    | some u => match u.ref with | .ring _ p => p | _ => x.startAt
    | none => x.startAt
  let e := if x.state = .stopped ∨ x.state = .draining then e else enterState k .draining e
  let e := { e with
    front := { e.front with fetches := e.front.fetches.filter (fun f => decide (f.ring ≠ k)) }
    tasks := e.tasks.filter (fun u => match u.ref with
      | .ring r p => decide (r ≠ k) || posBefore x.cplPos p stop
      | _ => true) }
  let e := updRing k (fun x => { x with nextPos := if x.state = .stopped then x.nextPos else stop
                                        startAt := if x.state = .stopped then x.startAt else stop, broken := none }) e
  saveRing t.ref (addJob { newJob t e with aux := [k] } e)

/-- RING_SAVE (R360 to R363). -/
def doRingSave (r : TaskRef) (e : Engine) : Engine := startTask 0x19 r ringSaveCheck ringSaveBody e

/-! RING_RESTORE (R364). -/

/-- A task record of an image and the save image that follows it. -/
structure SavedTask where
  rec_ : Nat
  save : List Byte
  deriving DecidableEq, Repr

/-- The task records from an address on, and all their bytes. -/
def readSaved (e : Engine) : Nat → Nat → List SavedTask × List Byte
  | 0, _ => ([], [])
  | n + 1, a =>
    let b := eaRead a 128 e
    let v := ofBytes b
    let len := if bitsOf v 513 1 = 1 then saveSize (bitsOf v 520 7) else 0
    let s := eaRead (a + 128) len e
    let rest := readSaved e n (a + 128 + len)
    (⟨v, s⟩ :: rest.1, b ++ s ++ rest.2)

/-- The CRC of an image fails (R248, check 0x0F). -/
def imageCrcBad (t : Task) (e : Engine) : Bool :=
  let a := imageAddr t.desc
  let h := eaNat a 128 e
  decide (crc32 (eaRead a 124 e ++ (readSaved e (bitsOf h 96 7) (a + 128)).2) ≠ bitsOf h 992 32)

/-- BAD_IMAGE (R364 step 4): MAGIC, LAYOUT, CRC, TASKS or LOG2_SIZE. -/
def imageBad (t : Task) (e : Engine) : Bool :=
  let a := imageAddr t.desc
  let h := eaNat a 128 e
  let n := bitsOf h 96 7
  decide (bitsOf h 0 16 ≠ 0x5352) || decide (bitsOf h 16 8 ≠ 1) || decide (64 < n) ||
  decide (bitsOf h 40 5 ≠ bitsOf (readRingCtx (targetRing t.desc) e) 128 5) || imageCrcBad t e

/-- The ring context read under R25, with PRIV and DOMAIN of the image. -/
def restoredCtx (t : Task) (e : Engine) : Nat × RingCtx :=
  let h := eaNat (imageAddr t.desc) 128 e
  let v := readRingCtx (targetRing t.desc) e
  let p := bitsOf h 24 2
  let d := bitsOf h 32 8
  let v := v - bitsOf v 148 2 * 2 ^ 148 - bitsOf v 152 8 * 2 ^ 152 + p * 2 ^ 148 + d * 2 ^ 152
  (v, parseRingCtx v)

/-- The start checks of RING_RESTORE (R364); `ok`: the image can be read; `inj`: its check was injected a fault. -/
def ringRestoreCheck (ok inj : Bool) (t : Task) (e : Engine) : Option (Nat × Nat) :=
  let k := targetRing t.desc
  let h := eaNat (imageAddr t.desc) 128 e
  let c := restoredCtx t e
  firstOf [
    (badTarget t e, stBadDesc, 0x94),
    (decide ((ringOf k e).state ≠ .stopped), stBadDesc, 0x95),
    (!ok || !eaFits (imageAddr t.desc) 128, stAddrFault, 0),
    (inj || imageBad t e, stBadDesc, 0x98),
    (decide (privRank t.priv < privRank (bitsOf h 24 2)), stPrivilege, 0x04),
    (decide (bitsOf h 32 8 ≠ t.domain) && decide (t.priv ≠ 3), stPrivilege, 0x90),
    (!ringCtxOk c.1 || dbConflict k c.2 e, stBadDesc, 0x98)]

/-- The task of a record: its completion, or the pooling task that goes on from P (R364). -/
def restoreTask (k : Nat) (pos : BitVec 32) (s : SavedTask) (e : Engine) : Engine :=
  let d := BitVec.ofNat 512 (bitsOf s.rec_ 0 512)
  let c := (ringOf k e).ctx
  let r : TaskRef := .ring k pos
  let t : Task := { ref := r, desc := d, priv := c.priv, domain := c.domain, step := getF .stepSts Fld.STEP_STS_OPEN_STEP e
                    precise := dPrecise d || getB .ctl Fld.CTL_PRECISE_DEFAULT e }
  let q (b w : Nat) : Nat := bitsOf s.rec_ b w
  if q 512 1 = 1 then
    -- the held record: QW0 at byte 96, ITEMS, CLIPPED and QUANTISED behind it
    addTask { t with phase := .ended, status := q 776 8, detail := q 784 8, flags := q 792 8, items := q 832 64
                     clipped := q 896 32, quantised := q 928 32 } e
  else
    let e := addTask { t with phase := .running } e
    let bag := q 608 24
    let saved := if q 513 1 = 1 ∧ dOpcode d ≠ 0x02 then some (q 544 32, s.save) else none
    let e := addJob { newJob t e with
      waitSlot := true, pool := some { cfg := cfgOf t e, nextBag := bag, saved }, lead := bag
      quantised := q 640 32, clipped := q 672 32, flags := q 704 8 } e
    match dOpcode d with
    | 0x01 => doLookupPool r e
    | 0x02 => doGatherRows r e
    | _ => doCombine r e

/-- The target ring enters RUNNING at NEXT_POS with the image's tasks (R364). -/
def ringRestoreBody (t : Task) (e : Engine) : Engine :=
  let k := targetRing t.desc
  let a := imageAddr t.desc
  let h := eaNat a 128 e
  let n := bitsOf h 96 7
  let next := BitVec.ofNat 32 (bitsOf h 64 32)
  let first := next - BitVec.ofNat 32 n
  let x := startedRing (restoredCtx t e).2 (ringOf k e)
  let e := writeQw7 k (setRing k { x with nextPos := next, pLast := next, cplPos := first, startAt := next } e)
  let e := forEach (readSaved e n (a + 128)).1.zipIdx (fun s e => restoreTask k (first + BitVec.ofNat 32 s.2) s.1 e) e
  finishTask t.ref stDone 0 0 n 0 0 (judgeRecorded k e)

/-- RING_RESTORE (R364). An image refused for its privilege or its domain is logged (R62). -/
def doRingRestore (r : TaskRef) (ok : Bool) (e : Engine) : Engine :=
  let h := match findTask r e with | some t => eaNat (imageAddr t.desc) 128 e | none => 0
  let before := findTask r e
  -- the image's CRC is evaluated once the checks before it have passed (check 0x0F, R391, R412)
  let looks := match before with
    | some t => decide (dOpcode t.desc = 0x1A) && canStart t e && ok && (commonCheck t e).isNone && !badTarget t e &&
        decide ((ringOf (targetRing t.desc) e).state = .stopped) && eaFits (imageAddr t.desc) 128
    | none => false
  let inj := if looks then takeInjection 0x0F 0 e else (false, e)
  let bad := looks && (inj.1 || (match before with | some t => imageCrcBad t e | none => false))
  let e := if bad then logIntegrity 0 0 0x0F 0 7 inj.1 inj.2 else inj.2
  let e := startTask 0x1A r (ringRestoreCheck ok inj.1) ringRestoreBody e
  match before, findTask r e with
  | some b, some t =>
    let fresh := decide (b.phase = .ready) && decide (dOpcode t.desc = 0x1A) && decide (t.status = stPrivilege)
    if fresh && (decide (t.detail = 0x04) || decide (t.detail = 0x90)) then
      logEvent { cluster := 0, slice := 0, typ := 0x02, ref := (match r with | .ring n _ => n | _ => 0), code := t.detail
                 arg := bitsOf h 24 2 + bitsOf h 32 8 * 256 } e
    else e
  | _, _ => e

/-- Every RING_SAVE goes on as far as it can. -/
def saveSettle (e : Engine) : Engine :=
  forEach ((e.jobs.filter (fun j => decide (j.opcode = 0x19))).map (·.ref)) saveRing e

end Sys2Proof.Machine
end

