-- ==== Sys2Proof/Machine/Experts.lean ====
section
/-! DEFINITION. DISPATCH and PAGE_GATHER: routes, gates, expert slots, sessions, and the rows of activation tables
(06_experts_and_pages.md). -/

namespace Sys2Proof.Machine

/-! Rows of activation tables (R163). -/

/-- The parts of an activation row write: the row and, where its format is scaled, the sector of its record. -/
def activParts (slot : Nat) (p : Place) (ver : Nat) (data rec_ : List Byte) (e : Engine) : List WPart :=
  let i := imgOf slot e
  let dev := thisDev e
  let a := recordAddr slot p e
  let sec := a / 32 * 32
  let old := (seeHalf p.slice dev sec e).bytes
  let new := old.take (a % 32) ++ padTo 8 (rec_.take 8) ++ old.drop (a % 32 + 8)
  [{ src := dev, addr := rowAddr slot p e, bytes := padTo (cSectors i * 32) (data.take (cSectors i * 32)), ver := ver % 256 }]
  ++ (if fmtScaled (cFormat i) then [{ src := dev, addr := sec, bytes := new, ver := 0 }] else [])

/-- A row of an activation table and its record, written in one tracker-ordered write (R163). -/
def acceptActiv (slot row : Nat) (data rec_ : List Byte) (acts : List VisAct) (e : Engine) : Engine :=
  let p := place slot row e
  let n := p.slice
  let old := seeHalf n (thisDev e) (rowAddr slot p e) e
  let ver := (old.ver + 1) % 256
  let parts := activParts slot p ver data rec_ e
  let kinds : List LineKind := [.activ, .praline]
  let e := forEach (parts.zip kinds) (fun q e =>
    putHalves n q.1.src q.1.addr slot q.2 true
      ((List.range (q.1.bytes.length / 32)).map (fun k => ((q.1.bytes.drop (32 * k)).take 32, q.1.ver))) e) e
  let t := takeId e
  let e := t.2
  let others := if cInterleave (imgOf slot e) then [] else (List.range 4).filter (fun k => decide (k ≠ n))
  let w : RowW := { id := t.1, slice := n, slot, row, ver, parts, inv := others, acts }
  setCache { e.cache with writes := e.cache.writes ++ [w] } e

/-- The record region of the last row of a slice ends within the slice's 128 GiB (R163). -/
def recordOut (slot : Nat) (p : Place) (e : Engine) : Bool :=
  fmtScaled (cFormat (imgOf slot e)) && decide (2 ^ 37 < p.base + cPraline (imgOf slot e) + 8 * p.inSlice + 8)

/-- A token row sent to its home: written here, or carried in a token message (R172, R182). The item has one more
output outstanding. -/
def sendToken (r : TaskRef) (slot row item : Nat) (data rec_ : List Byte) (e : Engine) : Engine :=
  let p := place slot row e
  if recordOut slot p e then failAt r item stAddrFault 0x12 e
  else
    let e := openItem r item 1 e
    if p.device = thisDev e then
      if slicePoweredOff p.slice e then failAt r item stAddrFault 0xC0 e
      else acceptActiv slot row data rec_ [.item r item] e
    else match homeReach r p.device e with
      | some e => e
      | none =>
        sendMsg { tableHdr p.device p.slice slot p e with ref := refNum r }
          (.token item row data (if rec_.isEmpty then none else some (BitVec.ofNat 64 (ofBytes rec_)))) e

/-- TOKEN at the home of the row (R172). -/
def onToken (h : Hdr) (item row : Nat) (data : List Byte) (rec_ : Option (BitVec 64)) (e : Engine) : Engine :=
  acceptActiv h.tableId row data (match rec_ with | some w => toBytes 8 w.toNat | none => [])
    [.done h.srcDev h.srcSlice h.ref item {}] e

/-! DISPATCH. -/

/-- The expert profile of a DISPATCH. -/
def dispProf (t : Task) : Nat := dq t.desc 3 0 4

/-- The start checks of a DISPATCH (R162, R167, R185). -/
def dispatchCheck (t : Task) (e : Engine) : Option (Nat × Nat) :=
  let d := t.desc
  let n := dq d 1 4 2
  let p := dispProf t
  let first := getF (.slcMoeSlots n p) Fld.SLC_MOE_SLOTS_SLOT_FIRST e
  let count := getF (.slcMoeSlots n p) Fld.SLC_MOE_SLOTS_SLOT_COUNT e
  let cap := moeCapacity n p e
  let k := dq d 6 32 4
  let scores := decide (dq d 6 36 1 = 1)
  firstOf [
    (expertBufferBad (dTable d) n p e, stBadDesc, 0x20),
    (sliceOut n e, stBadDesc, 0x13),
    ((ofScaled (dq d 6 24 8) != decide (dAddr3 d 5 ≠ 0)) || decide (dBl d 3 = 0), stBadDesc, 0x18),
    (decide (cap = 0) || decide (count = 0) || decide (cap < first + count) || !outFmtValid (moeFmt n p e), stBadDesc, 0x21),
    (decide (k = 0) || decide (8 < k) || (decide (dq d 6 37 1 = 1) && !scores) || (scores && decide (moeExperts n p e < k)),
      stBadDesc, 0x22)]

/-- One route of a token: its expert and gate; no expert where it is unrouted. -/
abbrev Route := Option Nat × F32

/-- The route entries of a token under PAIRS (R168). -/
def pairRoutes (l : LStream) (t k : Nat) : List Route :=
  (List.range k).map (fun j =>
    let w := listNat l (k * t + j) 8
    (if bitsOf w 0 16 = 0xFFFF then none else some (bitsOf w 0 16), BitVec.ofNat 32 (bitsOf w 32 32)))

/-- The greatest scores: expert and score, ties to the lower expert; `k` of them (R169). -/
def topScores : Nat → List (Nat × F32) → List (Nat × F32)
  | 0, _ => []
  | k + 1, l =>
    match l with
    | [] => []
    | x :: r =>
      let best := r.foldl (fun (a : Nat × F32) y => if (f32Q a.2).lt (f32Q y.2) then y else a) x
      best :: topScores k (l.filter (fun y => decide (y.1 ≠ best.1)))

/-- softmax_gates (R169). -/
def softmaxGates (sel : List F32) : List F32 :=
  let top := f32Q (sel.headD 0)
  let u := sel.map (fun s => expRn ((f32Q s).sub top))
  let z := (Ex.sum u).rn
  u.map (fun x => (Ex.div (.val x) (.val z)).rn)

/-- The routes of a token under SCORES (R169). -/
def scoreRoutes (l : LStream) (t k experts : Nat) (softmax : Bool) : List Route :=
  let row := (List.range experts).map (fun x => (x, (BitVec.ofNat 32 (listNat l (experts * t + x) 4) : F32)))
  if row.any (fun x => !f32IsFin x.2) then List.replicate k (none, 0)
  else
    let sel := topScores k row
    let g := if softmax then softmaxGates (sel.map (·.2)) else sel.map (·.2)
    List.zipWith (fun s w => (some s.1, w)) sel g

/-- Slots for the routes of one token in route order (R170): counts per expert, and the slot of each route. -/
def assignSlots (window : Nat) : List Route → List Nat → List Nat × List (Option Nat)
  | [], c => (c, [])
  | (none, _) :: r, c => let t := assignSlots window r c; (t.1, none :: t.2)
  | (some x, _) :: r, c =>
    let u := c.getD x 0
    if u < window then
      let t := assignSlots window r (c.set x (u + 1))
      (t.1, some u :: t.2)
    else
      let t := assignSlots window r c
      (t.1, none :: t.2)

/-- The weights of a token's routes (R171). -/
def routeWeights (renorm : Bool) (routes : List Route) (slots : List (Option Nat)) : List F32 :=
  let all := (routes.filter (fun r => r.1.isSome)).map (·.2)
  let surv := ((routes.zip slots).filter (fun q => q.2.isSome)).map (fun q => q.1.2)
  let lost := surv.length < all.length
  let sAll := (Ex.sum all).rn
  let sSurv := (Ex.sum surv).rn
  let scale := renorm && lost && !surv.isEmpty && f32IsFin sAll && f32IsFin sSurv && !f32IsZero sSurv
  (routes.zip slots).map (fun q =>
    if q.2.isNone then 0
    else if scale then (Ex.div (.mul (.val q.1.2) (.val sAll)) (.val sSurv)).rn
    else q.1.2)

/-- Bytes of route input per token. -/
def routeBytes (t : Task) (e : Engine) : Nat :=
  if dq t.desc 6 36 1 = 1 then 4 * moeExperts (dq t.desc 1 4 2) (dispProf t) e else 8 * dq t.desc 6 32 4

/-- The scale record of row `k` of a stream, read at its address (R118). -/
def scaleRec (fmt addr k : Nat) (e : Engine) : List Byte := if ofScaled fmt then eaRead (addr + 8 * k) 8 e else []

/-- One token of a DISPATCH: routes, slots, weights, lists and rows (R168 to R172). -/
def dispatchToken (r : TaskRef) (t : Task) (j : Job) (k : Nat) (e : Engine) : Engine :=
  let d := t.desc
  let n := dq d 1 4 2
  let p := dispProf t
  let slot := dTable d
  let w := cWidth (imgOf slot e)
  let topK := dq d 6 32 4
  let experts := moeExperts n p e
  let lr := j.lists.getD 1 { cursor := 0 }
  let routes := if dq d 6 36 1 = 1 then scoreRoutes lr k topK experts (decide (dq d 6 37 1 = 1)) else pairRoutes lr k topK
  if routes.any (fun q => match q.1 with | some x => decide (experts ≤ x) | none => false) then failAt r k stBadDesc 0x23 e
  else
    let counts := j.aux.drop 3
    let a := assignSlots (getF (.slcMoeSlots n p) Fld.SLC_MOE_SLOTS_SLOT_COUNT e) routes counts
    let first := getF (.slcMoeSlots n p) Fld.SLC_MOE_SLOTS_SLOT_FIRST e
    let rows := (routes.zip a.2).map (fun q => match q.1.1, q.2 with
      | some x, some s => some (x * moeCapacity n p e + first + s)
      | _, _ => none)
    let un := (routes.filter (fun q => q.1.isNone)).length
    let ov := (rows.filter (·.isNone)).length - un
    let e := updJob r (fun j => { j with aux := [k + 1, j.aux.getD 1 0 + ov, j.aux.getD 2 0 + un] ++ a.1 }) e
    let ws := routeWeights (decide (dq d 6 38 1 = 1)) routes a.2
    let e := openItem r k 1 e
    let e := writeItem r k (dBl d 3) (8 * topK * k) ((rows.map (fun x => toBytes 8 (x.getD (2 ^ 64 - 1)))).flatten) [] e
    let e := if dBl d 4 = 0 then e else writeItem r k (dBl d 4) (4 * topK * k) (f32Bytes ws) [] e
    let homes := rows.filterMap id
    let e := if homes.isEmpty then e
      else
        let inF := dq d 6 24 8
        let li := j.lists.getD 0 { cursor := 0 }
        let s := streamRow inF w
        let c := convertRow w inF (moeFmt n p e)
          { data := (li.got.drop (k * s)).take s, side := scaleRec inF (dAddr3 d 5) k e }
        let e := countJob r c.2.2.1 c.2.2.2 e
        forEach homes (fun row e => sendToken r slot row k c.1 c.2.1 e) e
    itemPart r k e

/-- Tokens of a DISPATCH whose inputs are in, in ascending order (R170). -/
def dispatchAdvance (r : TaskRef) : Nat → Engine → Engine
  | 0, e => e
  | fuel + 1, e =>
    match findTask r e, findJob r e with
    | some t, some j =>
      let k := j.aux.headD 0
      let w := cWidth (imgOf (dTable t.desc) e)
      let li := j.lists.getD 0 { cursor := 0 }
      let lr := j.lists.getD 1 { cursor := 0 }
      let need := streamRow (dq t.desc 6 24 8) w
      if haltsItems j || decide (j.total ≤ k) then e
      else if decide (li.got.length < (k + 1) * need) || decide (lr.got.length < (k + 1) * routeBytes t e) then
        if listShort li || listShort lr then failAt r k stBadDesc (shortDetail (if listShort li then li else lr)) e
        else pump r e
      else dispatchAdvance r fuel (dispatchToken r t j k e)
    | _, _ => e

/-- The body of a DISPATCH. -/
def dispatchBody (t : Task) (e : Engine) : Engine :=
  let d := t.desc
  let n := dq d 6 0 24
  let w := cWidth (imgOf (dTable d) e)
  let e := updJob t.ref (fun j => { j with
    total := n, issued := true
    aux := [0, 0, 0] ++ List.replicate (moeExperts (dq d 1 4 2) (dispProf t) e) 0
    lists := if n = 0 then [] else
      [{ cursor := dBl d 1, need := n * streamRow (dq d 6 24 8) w }, { cursor := dBl d 2, need := n * routeBytes t e }]
    outs := (dBl d 3, 8 * dq d 6 32 4) :: (if dBl d 4 = 0 then [] else [(dBl d 4, 4 * dq d 6 32 4)]) }) e
  dispatchAdvance t.ref (n + 1) (pump t.ref e)

/-- DISPATCH (R170). -/
def doDispatch (r : TaskRef) (e : Engine) : Engine := startTask 0x04 r dispatchCheck dispatchBody e

/-! PAGE_GATHER. -/

/-- The start checks of a PAGE_GATHER (R162, R179, R185). -/
def pageCheck (t : Task) (e : Engine) : Option (Nat × Nat) :=
  let d := t.desc
  let app := decide (dq d 6 52 1 = 1)
  let pl := dq d 6 48 4
  firstOf [
    (bufferBad (dTable d) none (2 ^ pl) (ofFmt (dq d 6 40 8)) e, stBadDesc, 0x20),
    (sliceOut (dq d 1 4 2) e, stBadDesc, 0x13),
    ((ofScaled (dq d 6 24 8) != decide (dAddr3 d 4 ≠ 0)) || ((app && ofScaled (dq d 6 32 8)) != decide (dAddr3 d 5 ≠ 0)) ||
      (!app && (decide (dBl d 2 ≠ 0) || decide (dq d 6 32 8 ≠ 0))), stBadDesc, 0x18),
    (decide (8 < pl), stBadDesc, 0x24)]

/-- The index of token `t` of a session (R181). -/
def pageIndex (list pl t : Nat) (e : Engine) : Nat :=
  let pg := eaNat (list + 4 * (t / 2 ^ pl)) 4 e
  if pg = 0xFFFFFFFF then 2 ^ 64 - 1 else pg * 2 ^ pl + t % 2 ^ pl

/-- One row of a session is read (R181, R183); key: session × 2^40 + gathered row. -/
def pageRead (r : TaskRef) (t : Task) (n s i idx : Nat) (e : Engine) : Engine :=
  let slot := dTable t.desc
  match mapIndex slot idx e with
  | .zero => pageRow r s i none (flagJob r flDefault e)
  | .row slot row _ =>
    let p := place slot row e
    if p.device = thisDev e then
      askRow (.item r (s * 2 ^ 40 + i)) slot { row, activation := true } false true n e
    else match homeReach r p.device e with
      | some e => e
      | none =>
        sendMsg { tableHdr p.device p.slice slot p e with ref := refNum r, arg := s * 2 ^ 40 + i }
          (.rowReq (s * 2 ^ 40 + i) { row, activation := true }) e

/-- One session (R181, R182): its append, then its rows. `aux` holds the next session and P. -/
def pageSession (r : TaskRef) (t : Task) (j : Job) (s : Nat) (e : Engine) : Engine :=
  let d := t.desc
  let slot := dTable d
  let w := cWidth (imgOf slot e)
  let pl := dq d 6 48 4
  let ls := j.lists.getD 0 { cursor := 0 }
  let la := j.lists.getD 1 { cursor := 0 }
  let rec_ := listNat ls s 16
  let list := bitsOf rec_ 6 58 * 64
  let tokens := bitsOf rec_ 64 24
  let win := bitsOf rec_ 88 24
  let g := if win = 0 then tokens else min tokens win
  let app := decide (dq d 6 52 1 = 1)
  let appIdx := pageIndex list pl (tokens - 1) e
  if !eaValid list then failAt r s stBadDesc 0x65 e
  else if app && decide (tokens = 0) then failAt r s stBadDesc 0x25 e
  else if app && indexInvalid (imgOf slot e) appIdx then failAt r s stBadDesc 0x26 e
  else
    let p0 := j.aux.getD 1 0
    let e := updJob r (fun j => { j with aux := [s + 1, p0 + g], starts := j.starts ++ [p0] }) e
    let e := openItem r s (g + 1) e
    let e := if !app then e
      else
        let f := dq d 6 32 8
        let sz := streamRow f w
        let c := convertRow w f (dq d 6 40 8) { data := (la.got.drop (s * sz)).take sz, side := scaleRec f (dAddr3 d 5) s e }
        sendToken r slot (hashRow (imgOf slot e) appIdx) s c.1 c.2.1 (countJob r c.2.2.1 c.2.2.2 e)
    let n := poolAt j e
    let e := forEach (List.range g) (fun i e => pageRead r t n s (p0 + i) (pageIndex list pl (tokens - g + i) e) e) e
    itemPart r s e

/-- Sessions whose inputs are in, in ascending order. -/
def pageAdvance (r : TaskRef) : Nat → Engine → Engine
  | 0, e => e
  | fuel + 1, e =>
    match findTask r e, findJob r e with
    | some t, some j =>
      let s := j.aux.headD 0
      let d := t.desc
      let ls := j.lists.getD 0 { cursor := 0 }
      let la := j.lists.getD 1 { cursor := 0 }
      let sz := if dq d 6 52 1 = 1 then streamRow (dq d 6 32 8) (cWidth (imgOf (dTable d) e)) else 0
      if haltsItems j || decide (j.total ≤ s) then e
      else if decide (ls.got.length < 16 * (s + 1)) || decide (la.got.length < sz * (s + 1)) then
        if listShort ls || listShort la then failAt r s stBadDesc (shortDetail (if listShort ls then ls else la)) e
        else pump r e
      else pageAdvance r fuel (pageSession r t j s e)
    | _, _ => e

/-- The body of a PAGE_GATHER. -/
def pageBody (t : Task) (e : Engine) : Engine :=
  let d := t.desc
  let n := dq d 6 0 24
  let sz := if dq d 6 52 1 = 1 then streamRow (dq d 6 32 8) (cWidth (imgOf (dTable d) e)) else 0
  let e := updJob t.ref (fun j => { j with
    total := n, issued := true, aux := [0, 0]
    lists := if n = 0 then [] else
      [{ cursor := dBl d 1, need := 16 * n },
       (if sz = 0 then { cursor := 0, ended := true } else { cursor := dBl d 2, need := sz * n })]
    outs := (dBl d 3, streamRow (dq d 6 24 8) (cWidth (imgOf (dTable d) e))) ::
      (if ofScaled (dq d 6 24 8) then [(2 ^ 64 + dAddr3 d 4, 8)] else []) }) e
  pageAdvance t.ref (n + 1) (pump t.ref e)

/-- PAGE_GATHER (R181). -/
def doPageGather (r : TaskRef) (e : Engine) : Engine := startTask 0x03 r pageCheck pageBody e

end Sys2Proof.Machine
end

