-- ==== Sys2Proof/Machine/Update.lean ====
section
/-! DEFINITION. The update unit: the learning rate, clipping, the rules, arrivals and their parking, state rows from
other devices, whole-row writes at the home (08_update_unit_and_state.md R222 to R246, R252; 09 R281, R461). -/

namespace Sys2Proof.Machine

/-! The learning rate (R231). -/

/-- A segment in use: START, KIND, ETA0, ETA1. -/
structure Seg where
  start : Nat
  kind  : Nat
  eta0  : F32
  eta1  : F32
  deriving DecidableEq, Repr

/-- The active segments of schedule `s` from segment `i` up, above the START before them (R231). -/
def activeSegs (s : Nat) (e : Engine) : Nat → Nat → Option Nat → List Seg
  | 0, _, _ => []
  | fuel + 1, i, prev =>
    let r := Reg.schedSeg s i
    let start := if i = 0 then 0 else getF r Fld.SCHED_SEG_START e
    let follows := match prev with | none => true | some p => decide (p < start)
    if getB r Fld.SCHED_SEG_VALID e && follows then
      { start, kind := getF r Fld.SCHED_SEG_KIND e
        eta0 := BitVec.ofNat 32 (getF (.schedEta s i) Fld.SCHED_ETA_ETA0 e)
        eta1 := BitVec.ofNat 32 (getF (.schedEta s i) Fld.SCHED_ETA_ETA1 e) } :: activeSegs s e fuel (i + 1) (some start)
    else []

/-- η of schedule `s` at step `t` (R231). -/
def etaAt (s t : Nat) (e : Engine) : F32 :=
  let tau := (t + 2 ^ 32 - getF (.schedOrigin s) Fld.SCHED_ORIGIN_ORIGIN e) % 2 ^ 32
  let segs := activeSegs s e 16 0 none
  let j := (segs.filter (fun g => decide (g.start ≤ tau))).length
  match segs[j - 1]? with
  | none => f32Zero
  | some g =>
    let p : Option Q := (segs[j]?).map (fun n => ⟨(tau - g.start : Nat), n.start - g.start⟩)
    match g.kind with
    | 0 => g.eta0
    | 1 =>
      match p with
      | none => g.eta1
      | some p =>
        if f32IsFin g.eta0 && f32IsFin g.eta1 then
          rn (f32IsZero g.eta0 && f32Neg g.eta0 && f32IsZero g.eta1 && f32Neg g.eta1)
            ((f32Q g.eta0).add (((f32Q g.eta1).sub (f32Q g.eta0)).mul p))
        else f32Add g.eta0 (f32Mul (f32Add g.eta1 (f32Flip g.eta0)) (rn false p))
    | 2 =>
      match p with
      | none => g.eta1
      | some p =>
        let c := cosPiRn p
        (Ex.add (.val g.eta1) (.div (.mul (.sub (.val g.eta0) (.val g.eta1)) (.add (.val f32One) (.val c))) (.val 0x40000000))).rn
    | _ => (Ex.mul (.val g.eta0) (.pow (.val g.eta1) (tau - g.start))).rn

/-- η of a parameter set for a step: evaluated at the first arrival of the step for the set, and held (R231). -/
def etaFor (set step : Nat) (e : Engine) : F32 × Engine :=
  match e.upd.etas.find? (fun x => decide (x.1 = set) && decide (x.2.1 = step)) with
  | some x => (x.2.2, e)
  | none =>
    let v := etaAt (getF (.optCtl set) Fld.OPT_CTL_SCHED e) step e
    (v, { e with upd := { e.upd with etas := (set, step, v) :: e.upd.etas.filter (fun x => decide (x.1 ≠ set)) } })

/-! Clipping and the rules (R232 to R234). -/

/-- A field of a parameter set as an FP32 value. -/
def optF (r : Reg) (f : Field) (e : Engine) : F32 := BitVec.ofNat 32 (getF r f e)

/-- The clipped gradient, elements clipped, and whether the row was scaled (R232). -/
def clipGrad (mode : Nat) (clip : F32) (g : List F32) : List F32 × Nat × Bool :=
  let on := f32IsFin clip && !f32IsZero clip && !f32Neg clip
  if !on then (g, 0, false)
  else if mode = 1 then
    let one (x : F32) : F32 × Bool :=
      if f32IsNaN x then (x, false)
      else if f32IsInf x || (f32Q clip).lt (f32Q x).abs then (f32Mk (f32Neg x) (f32Mag clip), true)
      else (x, false)
    let r := g.map one
    (r.map (·.1), (r.filter (·.2)).length, false)
  else if mode = 2 then
    if g.any (fun x => !f32IsFin x) then (g, 0, false)
    else
      let ss := (Ex.sumSq g).rn
      let nu := f32SqrtOf ss
      if f32IsInf nu || (f32Q clip).lt (f32Q nu) then
        let f := if f32IsInf nu then (Ex.div (.val clip) (.sqrt (.sumSq g))).rn else (Ex.div (.val clip) (.val nu)).rn
        (g.map (fun x => f32Mul x f), 0, true)
      else (g, 0, false)
  else (g, 0, false)

/-- The values a rule reads beside the state row (R228). -/
structure OptVals where
  beta1 : F32
  beta2 : F32
  eps   : F32
  mu    : F32
  lambda : F32
  clip  : F32
  touch : Bool
  bias  : Bool
  acc0  : F32
  deriving DecidableEq, Repr

/-- Optimiser parameter set `p` (R228). -/
def optVals (p : Nat) (e : Engine) : OptVals :=
  { beta1 := optF (.optBeta p) Fld.OPT_BETA_BETA1 e, beta2 := optF (.optBeta p) Fld.OPT_BETA_BETA2 e
    eps := optF (.optEps p) Fld.OPT_EPS_EPS e, mu := optF (.optEps p) Fld.OPT_EPS_MU e
    lambda := optF (.optDecay p) Fld.OPT_DECAY_LAMBDA e, clip := optF (.optDecay p) Fld.OPT_DECAY_CLIP e
    touch := getB (.optCtl p) Fld.OPT_CTL_DECAY_MODE e, bias := getB (.optCtl p) Fld.OPT_CTL_BIAS_CORR e
    acc0 := optF (.optCtl p) Fld.OPT_CTL_INIT_ACC e }

/-- What applying a rule gives: the new state row, and every value it computed (R233, R234). -/
structure Ruled where
  st   : StRow
  vals : List F32
  deriving DecidableEq, Repr

/-- The master before the rule: ADAMW's decay (R233). -/
def decayed (rule : Nat) (p : OptVals) (eta : F32) (t : Nat) (st : StRow) : List F32 :=
  if rule ≠ 6 then st.master
  else
    let k := if p.touch || !st.touched then 1 else (t + 2 ^ 32 - st.tLast) % 2 ^ 32
    st.master.map (fun x => (Ex.mul (.val x) (.pow (.sub (.val f32One) (.mul (.val eta) (.val p.lambda))) k)).rn)

/-- One element of ADAM and ADAMW: the new m, v and θ and every value computed (R233). -/
def adamElem (p : OptVals) (eta c1 c2 th m0 v0 g : F32) : F32 × F32 × F32 × List F32 :=
  let om (b : F32) : Ex := .sub (.val f32One) (.val b)
  let m := (Ex.add (.mul (.val p.beta1) (.val m0)) (.mul (om p.beta1) (.val g))).rn
  let v := (Ex.add (.mul (.val p.beta2) (.val v0)) (.mul (om p.beta2) (.pow (.val g) 2))).rn
  let mh := (Ex.div (.val m) (.val c1)).rn
  let vh := (Ex.div (.val v) (.val c2)).rn
  let d := (Ex.add (.sqrt (.val vh)) (.val p.eps)).rn
  let th' := (Ex.sub (.val th) (.div (.mul (.val eta) (.val mh)) (.val d))).rn
  (m, v, th', [m, v, mh, vh, d, th'])

/-- apply_rule (R233). -/
def applyRule (rule w : Nat) (p : OptVals) (eta : F32) (t : Nat) (st : StRow) (g : List F32) : Ruled :=
  let th0 := decayed rule p eta t st
  let n := min (st.nUpd + 1) (2 ^ 32 - 1)
  let at_ (xs : List F32) (k : Nat) : F32 := xs.getD k 0
  let ids := List.range w
  let core : List F32 × List F32 × List F32 × F32 × List F32 := match rule with
    | 1 =>
      let th := ids.map (fun k => (Ex.sub (.val (at_ th0 k)) (.mul (.val eta) (.val (at_ g k)))).rn)
      (th, st.m, st.v, st.acc, th)
    | 2 | 3 =>
      let m := ids.map (fun k => (Ex.add (.mul (.val p.mu) (.val (at_ st.m k))) (.val (at_ g k))).rn)
      let th := ids.map (fun k =>
        if rule = 2 then (Ex.sub (.val (at_ th0 k)) (.mul (.val eta) (.val (at_ m k)))).rn
        else (Ex.sub (.val (at_ th0 k))
          (.mul (.val eta) (.add (.val (at_ g k)) (.mul (.val p.mu) (.val (at_ m k)))))).rn)
      (th, m, st.v, st.acc, m ++ th)
    | 4 =>
      let accIn := if st.nUpd = 0 then p.acc0 else st.acc
      let acc := (Ex.add (.val accIn) (.div (.sumSq g) (.val (f32OfNat w)))).rn
      let d := (Ex.add (.sqrt (.val acc)) (.val p.eps)).rn
      let th := ids.map (fun k => (Ex.sub (.val (at_ th0 k)) (.div (.mul (.val eta) (.val (at_ g k))) (.val d))).rn)
      (th, st.m, st.v, acc, [acc, d] ++ th)
    | 5 | 6 =>
      let corr (b : F32) : F32 := if p.bias then (Ex.sub (.val f32One) (.pow (.val b) n)).rn else f32One
      let c1 := corr p.beta1
      let c2 := corr p.beta2
      let r := ids.map (fun k => adamElem p eta c1 c2 (at_ th0 k) (at_ st.m k) (at_ st.v k) (at_ g k))
      (r.map (fun x => x.2.2.1), r.map (·.1), r.map (fun x => x.2.1), st.acc,
        [c1, c2] ++ (r.map (fun x => x.2.2.2)).flatten)
    | _ => (th0, st.m, st.v, st.acc, [])
  { st := { st with master := core.1, m := core.2.1, v := core.2.2.1, acc := core.2.2.2.1, nUpd := n, tLast := t
                    touched := true, mreset := false, ver := (st.ver + 1) % 2 ^ 32 }
    vals := core.2.2.2.2 ++ (if rule = 6 then th0 else []) }

/-! Arrivals (R222, R223). -/

/-- An arrival is disposed of: its deliverer counts it, or is told that its row was lost (R216, R218, R244). -/
def noteApplied (a : Arrival) (fl : Nat) (lost : Bool) (e : Engine) : Engine :=
  let k := if lost then 0 else 1
  match e.grad.closing with
  | some c =>
    if c.ref = a.ref then
      { e with grad := { e.grad with closing := some { c with
          items := c.items + k, flags := orFlags c.flags fl, progress := now e
          fault := if lost && c.fault.isNone then some (stDataLost, 0x32) else c.fault } } }
    else updJob a.ref (note k) e
  | none => updJob a.ref (note k) e
where
  /-- The same on the job of an ARRIVAL: `aux` holds the next row and whether a row was lost. -/
  note (k : Nat) (j : Job) : Job :=
    { j with lead := j.lead + k, flags := orFlags j.flags fl, acks := j.acks - 1
             aux := if lost then [j.aux.headD 0, 1] else j.aux }

/-- g_e = rn(exact(s_e + c_e)) (R222). -/
def gradOf (pairs : List Lane) : List F32 := pairs.map (fun l => (Ex.add (.val l.s) (.val l.c)).rn)

/-- `n` free values of 32 bits. -/
def freeF32s (n : Nat) (e : Engine) : List F32 × Engine :=
  let l := takeFreeLanes n e
  (l.1.map (·.s), l.2)

/-- A state row whose master and moments are undefined (R229). -/
def freeState (s : StRow) (e : Engine) : StRow × Engine :=
  let a := freeF32s s.master.length e
  let b := freeF32s s.m.length a.2
  let c := freeF32s s.v.length b.2
  ({ s with master := a.1, m := b.1, v := c.1 }, c.2)

/-- An arrival whose state row is here is applied (R223, R234); a parameter set changed in mid-step leaves its new values
undefined (R229). -/
def applyArrival (a : Arrival) (bytes : List Byte) (fl : Nat) (e : Engine) : Engine :=
  let i := imgOf a.slot e
  let p := place a.slot a.row e
  let set := cOptSet i
  let et := etaFor set a.step e
  let e := et.2
  let o := optVals set e
  let cg := clipGrad (cClipMode i) o.clip (gradOf (a.pairs.take (cWidth i)))
  let e := if cg.2.1 = 0 then e else addCounter p.slice 1 cg.2.1 e
  let e := if cg.2.2 then addCounter p.slice 2 1 e else e
  let st := parseSt i bytes
  let r := applyRule (cRule i) (cWidth i) o et.1 a.step st cg.1
  let reads := st.master ++ st.m ++ st.v ++ (if cRule i = 4 ∧ st.nUpd ≠ 0 then [st.acc] else [])
  if r.vals.any (fun x => !f32IsFin x) && reads.all f32IsFin then
    noteApplied a fl false (addCounter p.slice 3 1 (logRow 3 0x23 a.slot a.row a.step e))
  else
    let oc := outlierChannels a.slot p e
    match oc.1 with
    | none => noteApplied a fl true (logRow 3 0x27 a.slot a.row a.step oc.2)
    | some chans =>
      let f := if e.upd.spoilt.contains (set, a.step) then freeState r.st oc.2 else (r.st, oc.2)
      let st := f.1
      let ls := if fmtScaled (cFormat i) then st.ls else 0
      let g := regen i chans ls st.master
      let e := countRegen a.slot g.quantised g.clipped f.2
      let v : RowVal := { ver := st.ver, data := g.data, ls, side := g.side }
      noteApplied a fl false (acceptRow a.slot a.row v (some (stBytes i st)) (some a.step) [] e)

/-! Pending-update slots (R242 to R245). -/

/-- Bytes of the park region that an arrival takes. -/
def parkBytes (slot : Nat) (e : Engine) : Nat := 64 + cTilesPerBag (cWidth (imgOf slot e)) * 512

/-- The parked arrivals of a slice. -/
def parkedOf (n : Nat) (e : Engine) : List StateWait :=
  e.upd.waits.filter (fun w => decide (w.slice = n) && (match w.use with | .arrival _ p => p | _ => false))

/-- PARKED_NOW and PARKED_PEAK follow the slots in use (R245). -/
def noteParked (n : Nat) (e : Engine) : Engine :=
  let k := (parkedOf n e).length
  let e := setF (.slcUpdSts n) Fld.SLC_UPD_STS_PARKED_NOW k e
  setF (.slcUpdSts n) Fld.SLC_UPD_STS_PARKED_PEAK (max k (getF (.slcUpdSts n) Fld.SLC_UPD_STS_PARKED_PEAK e)) e

/-- The slice has pending-update slots at all: a park region and PEND_MAX (R243). -/
def hasSlots (n : Nat) (e : Engine) : Bool :=
  decide (getF (.slcPark n) Fld.SLC_PARK_SIZE e ≠ 0) && decide (getF (.slcUpdCfg n) Fld.SLC_UPD_CFG_PEND_MAX e ≠ 0)

/-- A pending-update slot is free for an arrival of a table (R242). -/
def slotFree (n slot : Nat) (e : Engine) : Bool :=
  let ps := parkedOf n e
  decide (ps.length < min 4096 (getF (.slcUpdCfg n) Fld.SLC_UPD_CFG_PEND_MAX e)) &&
  decide (((ps.map (fun w => parkBytes w.slot e)).foldl (· + ·) 0) + parkBytes slot e ≤
    getF (.slcPark n) Fld.SLC_PARK_SIZE e * 4096)

/-- An arrival stands at the head of the slice's merge until its state comes (R243). -/
def headWaits (n : Nat) (e : Engine) : Bool :=
  e.upd.waits.any (fun w => decide (w.slice = n) && (match w.use with | .arrival _ p => !p | _ => false))

/-- A state line of the row is present in the cache (R223 step 1). -/
def stateLine (n slot row : Nat) (e : Engine) : Bool := (seeState n slot row e).2

/-- The row tracker takes an arrival, or leaves it with its deliverer: false where no slot is free (R223, R242, R243). -/
def takeArrival (a : Arrival) (e : Engine) : Bool × Engine :=
  let p := place a.slot a.row e
  let n := p.slice
  if headWaits n e then (false, e)
  else if stateLine n a.slot a.row e then (true, applyArrival a (seeState n a.slot a.row e).1 0 e)
  else if hasSlots n e then
    if slotFree n a.slot e then
      (true, noteParked n (awaitState a.slot a.row (.arrival a true) e))
    else (false, e)
  else (true, awaitState a.slot a.row (.arrival a false) e)

/-! Whole-row writes at the home (R281, R252, R461). -/

/-- What a write keeps of a row: its header and moments, the version before it, and whether something it would have
kept had no source (R461). -/
structure Kept where
  st     : StRow
  ver    : Nat
  recomp : Bool
  deriving DecidableEq, Repr

/-- The row as a write finds it (R461). -/
def keptOf (slot row : Nat) (e : Engine) : Kept :=
  let i := imgOf slot e
  let p := place slot row e
  let first := seeHalf p.slice (thisDev e) (rowAddr slot p e) e
  let wk := seeRow p.slice slot p e
  if cTier i = 0 then { st := {}, ver := first.ver, recomp := !wk.2 }
  else
    let hs := stateHalves p.slice slot row e
    let hdr := hs.headD ⟨List.replicate 32 0, 0, false, false⟩
    let refv := if hdr.ok then hdr.ver else first.ver
    let good (k : Nat) : Bool := match hs[k]? with | some h => h.ok && decide (h.ver = refv) | none => false
    let st := parseSt i ((hs.map (·.bytes)).flatten)
    let w := cWidth i
    let fix (off : Nat) (xs : List F32) : List F32 := (xs.zipIdx).map (fun q => if good ((off + 4 * q.2) / 32) then q.1 else 0)
    let lostM := !((List.range st.m.length).all (fun k => good ((32 + 4 * w + 4 * k) / 32)) &&
      (List.range st.v.length).all (fun k => good ((32 + 8 * w + 4 * k) / 32)))
    let master := (List.range w).all (fun k => good ((32 + 4 * k) / 32))
    if hdr.ok then
      { st := { st with m := fix (32 + 4 * w) st.m, v := fix (32 + 8 * w) st.v, mreset := st.mreset || lostM }
        ver := st.ver, recomp := lostM || (!master && !wk.2) }
    else
      { st := { m := (zeroMoments i).1, v := (zeroMoments i).2, mreset := true }, ver := first.ver, recomp := true }

/-- The working copy as a record gives it: codes at outlier channels are 0 (R281). -/
def givenCodes (img : BitVec 1024) (chans : List Nat) (data : List Byte) : List Byte :=
  let f := cFormat img
  let codes := unpackCodes f (cWidth img) data
  packCodes f ((codes.zipIdx).map (fun q => if chans.contains q.2 then 0 else q.1)) (cSectors img * 32)

/-- The new row and state row of a record (R281). -/
def recordRow (img : BitVec 1024) (chans : List Nat) (k : Kept) (ver : Nat) (v : RowVal) (mz : Bool) :
    RowVal × StRow :=
  let ls := if fmtScaled (cFormat img) then v.ls else 0
  let st0 : StRow := if mz then
      { k.st with m := (zeroMoments img).1, v := (zeroMoments img).2, nUpd := 0, acc := 0, mreset := true }
    else k.st
  if v.wide then
    let master := f32sAt v.data 0 (cWidth img)
    let g := regen img chans ls master
    ({ ver, data := g.data, ls, side := g.side }, { st0 with ver, ls, master })
  else
    let row : RowVal := { ver, data := givenCodes img chans v.data, ls, side := if cOutliers img = 0 then [] else v.side }
    (row, { st0 with ver, ls, master := widenMaster img chans row })

/-- The parts of an assembled row of state records: header, side-row, working codes, master, moments (R249, R252). -/
structure ImpRow where
  hdr  : StRow
  side : List Byte
  data : List Byte
  master : List F32
  m    : List F32
  v    : List F32
  deriving DecidableEq, Repr

/-- Cuts an assembled row: 32 B of header, 32 B of side-row, the working copy, then the FP32 arrays. -/
def cutImport (img : BitVec 1024) (bytes : List Byte) : ImpRow :=
  let w := cWidth img
  let a := 64 + cSectors img * 32
  { hdr := parseHeader (bytes.take 32), side := (bytes.drop 32).take 32, data := (bytes.drop 64).take (cSectors img * 32)
    master := f32sAt bytes a w, m := f32sAt bytes (a + 4 * w) w, v := f32sAt bytes (a + 8 * w) w }

/-- The new row and state row of an imported row (R252). -/
def importedRow (img : BitVec 1024) (chans : List Nat) (ver : Nat) (bytes : List Byte) (content : Nat) : RowVal × StRow :=
  let x := cutImport img bytes
  let ls := if fmtScaled (cFormat img) then x.hdr.ls else 0
  let km := momentCount (cRule img)
  let mo := decide (bitsOf content 2 1 = 1)
  let m := if 1 ≤ km then (if mo then x.m else List.replicate (cWidth img) 0) else []
  let v := if 2 ≤ km then (if mo then x.v else List.replicate (cWidth img) 0) else []
  if bitsOf content 1 1 = 1 then
    let g := regen img chans ls x.master
    ({ ver, data := g.data, ls, side := g.side },
     { x.hdr with ver, ls, master := x.master, m, v, mreset := false })
  else
    let row : RowVal := { ver, data := x.data, ls, side := if cOutliers img = 0 then [] else x.side }
    (row, { x.hdr with ver, ls, nUpd := 0, acc := 0, master := widenMaster img chans row, m, v, mreset := false })

/-- Marks what a write tells its writer as RECOMPUTED. -/
def markRecomp (acts : List VisAct) (e : Engine) : List VisAct × Engine :=
  (acts.map (fun a => match a with
    | .done d s r i b => .done d s r i { b with recomp := true }
    | a => a),
   forEach acts (fun a e => match a with | .item r _ => flagJob r flRecomputed e | _ => e) e)

/-- A whole-row write is accepted by the tracker (R281, R252, R461). -/
def writeRowNow (slot row : Nat) (src : WriteSrc) (acts : List VisAct) (e : Engine) : Engine :=
  let i := imgOf slot e
  let p := place slot row e
  let k := keptOf slot row e
  let ver := nextVersion slot k.ver e
  let oc := outlierChannels slot p e
  let chans := oc.1.getD []
  let e := oc.2
  let r := match src with
    | .record v mz => recordRow i chans k ver v mz
    | .state bytes content => importedRow i chans ver bytes content
  let mk := if k.recomp then markRecomp acts (logIntegrity 2 p.slice 0x01 0 4 false e) else (acts, e)
  acceptRow slot row r.1 (if cTier i = 0 then none else some (stBytes i r.2)) none mk.1 mk.2

/-- A whole-row write at its home: it waits for the row's header where that is on another device, and for multicasts
(R259, R281). -/
def askWrite (slot row : Nat) (src : WriteSrc) (acts : List VisAct) (e : Engine) : Engine :=
  let p := place slot row e
  let queued := e.upd.waits.any (fun w => decide (w.slot = slot) && decide (w.row = row) &&
    (match w.use with | .write .. => true | _ => false))
  if cTier (imgOf slot e) ≠ 0 && !stateHere p.slice slot row e then awaitState slot row (.write src acts) e
  else if queued || decide (64 ≤ openMcasts slot row e) then
    let i := takeId e
    { i.2 with upd := { i.2.upd with waits := i.2.upd.waits ++ [⟨i.1, p.slice, slot, row, .write src acts, now e⟩] } }
  else writeRowNow slot row src acts e

/-- Writes that waited for multicasts and may go on (R259). -/
def retryWrites (e : Engine) : Engine :=
  forEach e.upd.waits (fun w e => match w.use with
    | .write src acts =>
      if (cTier (imgOf w.slot e) = 0 || stateHere w.slice w.slot w.row e) && decide (openMcasts w.slot w.row e < 64) then
        writeRowNow w.slot w.row src acts { e with upd := { e.upd with waits := e.upd.waits.filter (fun x => decide (x.id ≠ w.id)) } }
      else e
    | _ => e) e

/-! State rows that arrive (R226, R242, R246). -/

/-- A state row repaired as the table "State recovery" gives; none where master or header and working copy are both bad
(R246). -/
def repairState (slot row : Nat) (bytes : List Byte) (bad : List Nat) (wkBad : Bool) (e : Engine) :
    Option (List Byte) × Engine :=
  if bad.isEmpty then (some bytes, e)
  else
    let i := imgOf slot e
    let p := place slot row e
    let w := cWidth i
    let wk := seeRow p.slice slot p e
    let st := parseSt i bytes
    let elemBad (off k : Nat) : Bool := bad.contains ((off + 4 * k) / 32)
    let hdrBad := bad.contains 0
    let masterBad := (List.range w).any (elemBad 32)
    let momBad := (List.range st.m.length).any (elemBad (32 + 4 * w)) || (List.range st.v.length).any (elemBad (32 + 8 * w))
    if (hdrBad || masterBad) && (wkBad || !wk.2) then (none, e)
    else
      let oc := outlierChannels slot p e
      let wide := widenMaster i (oc.1.getD []) wk.1
      let e := noteRec oc.2
      let e := if masterBad then logRow 3 0x24 slot row st.tLast e else e
      let st := if masterBad then { st with master := (st.master.zipIdx).map (fun q => if elemBad 32 q.2 then wide.getD q.2 0 else q.1) } else st
      let e := if hdrBad then
          let e := logRow 3 0x26 slot row 0 e
          if cGroup i = 0 then e else multicast slot row wk.1.ver (.mcastRemove slot row false) 0 none [] e
        else e
      let st := if hdrBad then
          resetMoments i { st with ver := wk.1.ver % 256, ls := wk.1.ls, touched := false, tLast := 0, nUpd := 0, acc := 0 }
        else st
      let e := if momBad && !hdrBad then logRow 3 0x25 slot row st.tLast e else e
      let st := if momBad then resetMoments i st else st
      (some (stBytes i st), e)
where
  /-- The detection is counted and logged. -/
  noteRec (e : Engine) : Engine :=
    let n := (place slot row e).slice
    logIntegrity 2 n 0x01 0 3 false e

/-- A row request goes on with the state row that has come (R242, R458). -/
def resumeReq (id : Nat) (bytes : List Byte) (recomp : Bool) (e : Engine) : Engine :=
  match e.rowReqs.find? (fun q => decide (q.id = id)) with
  | none => e
  | some q =>
    let i := imgOf q.slot e
    let p := place q.slot q.row e
    let wk := seeRow p.slice q.slot p e
    let v := if q.wide then wideVal i bytes else { wk.1 with ver := fullVersion q.slot wk.1.ver (some bytes) e }
    let q := { q with st := some bytes, waitState := false, val := if q.wide || wk.2 then some v else none }
    let e := { e with rowReqs := e.rowReqs.map (fun x => if x.id = id then q else x) }
    if q.val.isNone then e
    else if q.both && decide (wk.1.ver % 256 ≠ v.ver % 256) then
      recoverFromMaster q bytes (logIntegrity 2 p.slice 0x02 0 1 false e)
    else serveReq q v recomp e

/-- The wait reads a state row for a request that allocates nothing (R316). -/
def noFill (e : Engine) (w : StateWait) : Bool :=
  match w.use with
  | .req id => (e.rowReqs.filter (fun q => decide (q.id = id))).all (fun q => neverFills q e)
  | _ => false

/-- What waits for a state row goes on; none: the row has no source (R242, R246). -/
def stateIn (slot row : Nat) (bytes : Option (List Byte)) (recomp : Bool) (e : Engine) : Engine :=
  let mine (w : StateWait) : Bool := decide (w.slot = slot) && decide (w.row = row)
  let ws := e.upd.waits.filter mine
  let n := (place slot row e).slice
  let e := { e with upd := { e.upd with waits := e.upd.waits.filter (fun w => !mine w) } }
  let e := noteParked n e
  let e := match bytes with
    | some bs => if ws.all (noFill e) then e else fillState n slot row bs e
    | none => e
  forEach ws (fun w e =>
    match w.use, bytes with
    | .arrival a parked, some bs =>
      -- an earlier waiter may have changed the row
      let bs := if stateLine n slot row e then (seeState n slot row e).1 else bs
      applyArrival a bs (orFlags (if parked then flParked else 0) (if recomp then flRecomputed else 0)) e
    | .arrival a _, none => noteApplied a 0 true (logRow 3 0x27 slot row a.step e)
    | .write src acts, _ => askWriteNow src acts e
    | .req id, some bs => resumeReq id bs recomp e
    | .recover id, some bs =>
      match e.rowReqs.find? (fun q => decide (q.id = id)) with
      | some q => recoverFromMaster q bs e
      | none => e
    | .req id, none | .recover id, none =>
      match e.rowReqs.find? (fun q => decide (q.id = id)) with
      | some q => loseRow q false e
      | none => e
    | .prefetch, _ => e) e
where
  /-- A write goes on whatever its row's state is (R461). -/
  askWriteNow (src : WriteSrc) (acts : List VisAct) (e : Engine) : Engine :=
    if 64 ≤ openMcasts slot row e then
      let i := takeId e
      { i.2 with upd := { i.2.upd with waits := i.2.upd.waits ++ [⟨i.1, (place slot row e).slice, slot, row, .write src acts, now e⟩] } }
    else writeRowNow slot row src acts e

/-- STATE_ROW_ARRIVAL at a home whose state device is itself or its expansion die: the read of wait `id` ends (R242);
`acc` and `d` tell how its checks went. -/
def doStateRowArrival (id : Nat) (acc : Access) (d : Datum) (e : Engine) : Engine :=
  match e.upd.waits.find? (fun w => decide (w.id = id)) with
  | none => e
  | some w =>
    if !alive e || !ownSrc (stateSrc w.slot e) e then e
    else
      let i := imgOf w.slot e
      let hs := stateHalves w.slice w.slot w.row e
      let inj := takeInjection 0x01 w.slice e
      let e := inj.2
      let named : List Nat := if acc = .badTwice ∨ acc = .portError then
          (match d with | .master => [1] | .moments => [(32 + 4 * cWidth i) / 32] | .header => [0] | .masterAndWorking => [0, 1] | _ => [])
        else []
      let bad := (badSectors w.slot w.row hs e ++ named).eraseDups
      let r := repairState w.slot w.row ((hs.map (·.bytes)).flatten) bad (decide (d = .masterAndWorking) && !named.isEmpty) e
      let again := inj.1 || decide (acc = .badOnce)
      let e := if again then logIntegrity 2 w.slice 0x01 0 0 inj.1 r.2 else r.2
      stateIn w.slot w.row r.1 (again || !bad.isEmpty) e

/-- STATE_TIMEOUT: the state of an arrival has not come in time (R244). -/
def doStateTimeout (id : Nat) (e : Engine) : Engine :=
  match e.upd.waits.find? (fun w => decide (w.id = id)) with
  | none => e
  | some w =>
    match w.use with
    | .arrival a _ =>
      if !alive e || !elapsedUs w.t0 (max 1 (getF (.slcUpdCfg w.slice) Fld.SLC_UPD_CFG_STATE_TIMEOUT e)) e then e
      else
        let e := { e with upd := { e.upd with waits := e.upd.waits.filter (fun x => decide (x.id ≠ id)) } }
        noteApplied a 0 true (logRow 3 0x28 w.slot w.row a.step (noteParked w.slice e))
    | _ => e

/-! State messages (R239). -/

/-- STATE_READ at the state device. -/
def onStateRead (h : Hdr) (row : Nat) (e : Engine) : Engine :=
  let slot := h.tableId
  let p := place slot row e
  let i := imgOf slot e
  let hs := (List.range (stateRowStride i / 32)).map (fun k => seeHalf p.slice (thisDev e) (stateAddr slot p e + 32 * k) e)
  let ok := hs.all (fun x => x.ok && decide (x.ver = (hs.map (·.ver)).headD 0))
  let e := if ok then e else logIntegrity 2 p.slice 0x01 0 7 false e
  sendAnswer { tableHdr h.srcDev h.srcSlice slot p e with ref := h.ref }
    (.stateData slot row (if ok then some ((hs.map (·.bytes)).flatten) else none)) e

/-- STATE_DATA at the home: none is a state row whose checks failed at the state device (R242, R246). -/
def onStateData (h : Hdr) (row : Nat) (bytes : Option (List Byte)) (e : Engine) : Engine :=
  let slot := h.tableId
  if !stateAsked slot row e then e
  else match bytes with
    | some bs => stateIn slot row (some bs) false e
    | none =>
      let i := imgOf slot e
      let all := List.range (stateRowStride i / 32)
      let r := repairState slot row (List.replicate (stateRowStride i) 0) all false e
      stateIn slot row r.1 true r.2

/-- STATE_WRITE at the state device. -/
def onStateWrite (h : Hdr) (row : Nat) (bytes : List Byte) (e : Engine) : Engine :=
  let slot := h.tableId
  let p := place slot row e
  let e := storePart { src := thisDev e, addr := stateAddr slot p e, bytes := padTo (stateRowStride (imgOf slot e)) bytes
                       ver := (parseHeader bytes).ver % 256 } e
  sendAnswer { tableHdr h.srcDev h.srcSlice slot p e with ref := h.ref } (.stateWriteAck slot row) e

/-- A write-back is done: its entry of the Crumb buffer may be reused (R323). -/
def finishWriteBack (w : RowW) (e : Engine) : Engine :=
  let e := forEach w.parts storePart e
  let e := setCache { e.cache with
    writes := e.cache.writes.filter (fun x => decide (x.id ≠ w.id))
    crumb := (e.cache.crumb.map (fun c => if c.wb = some w.id then { c with wb := none } else c)) } e
  noteCrumb w.slice e

/-- STATE_WRITE_ACK at the home. -/
def onStateWriteAck (h : Hdr) (row : Nat) (e : Engine) : Engine :=
  match e.cache.writes.find? (fun w => w.evict && w.parts.isEmpty && decide (w.slot = h.tableId) && decide (w.row = row)) with
  | none => e
  | some w => finishWriteBack w e

end Sys2Proof.Machine
end

