-- ==== Sys2Proof/Machine/Transfers.lean ====
section
/-! DEFINITION. Whole rows in and out of a table: ROW_WRITE, ROW_READ, STATE_EXPORT, STATE_IMPORT and the DRIFT_CHECK
sweep (09 R279 to R283; 08 R237, R238, R247 to R252). -/

namespace Sys2Proof.Machine

/-- A list of a job. -/
def listOf (j : Job) (k : Nat) : LStream := j.lists.getD k { cursor := 0 }

/-- Bytes of a list from an offset. -/
def listBytes (l : LStream) (off n : Nat) : List Byte := (l.got.drop off).take n

/-! ROW_WRITE (R280, R281, R283). -/

/-- NO_ROWS for a composed table (R283). -/
def rowXferCheck (t : Task) (e : Engine) : Option (Nat × Nat) :=
  firstOf [(cComposed (imgOf (dTable t.desc) e), stBadDesc, 0x51)]

/-- A row record breaks the rules that R281 checks when the task reaches it. -/
def recordBad (img : BitVec 1024) (bs : List Byte) : Bool :=
  let h := ofBytes (bs.take 32)
  decide (bitsOf h 48 16 ≠ 0) || decide (bitsOf h 64 192 ≠ 0) ||
  (decide (bitsOf h 40 8 ≠ 0) && !fmtScaled (cFormat img)) ||
  (decide (ofBytes ((bs.drop 32).take 32) ≠ 0) && decide (cOutliers img = 0))

/-- Elements quantised and clipped by a row that a task writes from FP32 values (R105). -/
def countWrite (r : TaskRef) (slot row : Nat) (v : RowVal) (e : Engine) : Engine :=
  if !v.wide then e
  else
    let i := imgOf slot e
    let p := place slot row e
    let chans := if p.device = thisDev e then chansOf slot p e else anyChans slot e
    let g := regen i chans (if fmtScaled (cFormat i) then v.ls else 0) (f32sAt v.data 0 (cWidth i))
    countJob r g.quantised g.clipped e

/-- One record of a ROW_WRITE goes to its home (R281). -/
def writeRecordRow (r : TaskRef) (t : Task) (k : Nat) (bs : List Byte) (e : Engine) : Engine :=
  let slot := dTable t.desc
  let i := imgOf slot e
  let row := ofBytes (bs.take 5)
  let fp := decide (dq t.desc 2 0 1 = 1)
  let mz := decide (dq t.desc 2 1 1 = 1)
  if recordBad i bs then failAt r k stBadDesc 0x02 e
  else if cRows i ≤ row then failAt r k stBadDesc 0x50 e
  else
    let v : RowVal := { data := bs.drop 64, ls := ((bs.getD 5 0)).toNat, side := (bs.drop 32).take 32, wide := fp }
    let p := place slot row e
    let e := countWrite r slot row v e
    let e := openItem r k 1 e
    if p.device = thisDev e then
      if slicePoweredOff p.slice e then failAt r k stAddrFault 0xC0 e
      else askWrite slot row (.record v mz) [.item r k] e
    else match homeReach r p.device e with
      | some e => e
      | none =>
        sendMsg { tableHdr p.device p.slice slot p e with ref := refNum r } (.rowWriteReq k row v (b2n mz)) e

/-- Records that are in, in order. `aux` holds the next record. -/
def rowWriteAdvance (r : TaskRef) : Nat → Engine → Engine
  | 0, e => e
  | fuel + 1, e =>
    match findTask r e, findJob r e with
    | some t, some j =>
      let k := j.aux.headD 0
      let sz := recordSize (imgOf (dTable t.desc) e) (decide (dq t.desc 2 0 1 = 1))
      let l := listOf j 0
      if haltsItems j || decide (j.total ≤ k) then e
      else if l.got.length < sz * (k + 1) then (if listShort l then failAt r k stBadDesc (shortDetail l) e else pump r e)
      else
        rowWriteAdvance r fuel (writeRecordRow r t k (listBytes l (sz * k) sz)
          (updJob r (fun j => { j with aux := [k + 1] }) e))
    | _, _ => e

/-- The body of a ROW_WRITE. -/
def rowWriteBody (t : Task) (e : Engine) : Engine :=
  let d := t.desc
  let n := dq d 3 0 24
  let sz := recordSize (imgOf (dTable d) e) (decide (dq d 2 0 1 = 1))
  let e := updJob t.ref (fun j => { j with
    total := n, issued := true, aux := [0], lists := if n = 0 then [] else [{ cursor := dBl d 1, need := n * sz }] }) e
  rowWriteAdvance t.ref (n + 1) (pump t.ref e)

/-- ROW_WRITE (R281). -/
def doRowWrite (r : TaskRef) (e : Engine) : Engine := startTask 0x10 r rowXferCheck rowWriteBody e

/-- ROW_WRITE_REQ at the home (R281). -/
def onRowWriteReq (h : Hdr) (item row : Nat) (v : RowVal) (mz : Nat) (e : Engine) : Engine :=
  askWrite h.tableId row (.record v (decide (mz = 1))) [.done h.srcDev h.srcSlice h.ref item {}] e

/-! ROW_READ (R282, R283). -/

/-- One entry of a ROW_READ list. -/
def rowReadEntry (r : TaskRef) (t : Task) (k : Nat) (e : Engine) : Engine :=
  match findJob r e with
  | none => e
  | some j =>
    let slot := dTable t.desc
    let w := listNat (listOf j 0) k 8
    let row := bitsOf w 0 40
    let wide := dReadWide t.desc
    if bitsOf w 40 24 ≠ 0 then failAt r k stBadDesc 0x02 e
    else if cRows (imgOf slot e) ≤ row then failAt r k stBadDesc 0x50 e
    else
      let p := place slot row e
      let ask : RowAsk := { row, wide, full := !wide && decide (cTier (imgOf slot e) ≠ 0) }
      if p.device = thisDev e then askRow (.item r k) slot ask ask.full false p.slice e
      else match homeReach r p.device e with
        | some e => e
        | none => sendMsg { tableHdr p.device p.slice slot p e with ref := refNum r, arg := k } (.rowReq k ask) e

/-- Entries that are in, in order. -/
def rowReadAdvance (r : TaskRef) : Nat → Engine → Engine
  | 0, e => e
  | fuel + 1, e =>
    match findTask r e, findJob r e with
    | some t, some j =>
      let k := j.aux.headD 0
      let l := listOf j 0
      if haltsItems j || decide (j.total ≤ k) then e
      else if l.got.length < 8 * (k + 1) then (if listShort l then failAt r k stBadDesc (shortDetail l) e else pump r e)
      else rowReadAdvance r fuel (rowReadEntry r t k (updJob r (fun j => { j with aux := [k + 1] }) e))
    | _, _ => e

/-- The body of a ROW_READ. -/
def rowReadBody (t : Task) (e : Engine) : Engine :=
  let d := t.desc
  let n := dq d 3 0 24
  let e := updJob t.ref (fun j => { j with
    total := n, issued := true, aux := [0], lists := if n = 0 then [] else [{ cursor := dBl d 1, need := 8 * n }]
    outs := [(dBl d 2, recordSize (imgOf (dTable d) e) (dReadWide d))] }) e
  rowReadAdvance t.ref (n + 1) (pump t.ref e)

/-- ROW_READ (R282). -/
def doRowRead (r : TaskRef) (e : Engine) : Engine := startTask 0x11 r rowXferCheck rowReadBody e

/-! STATE_EXPORT (R250). -/

/-- Rows that exist in a shard (R81). -/
def shardLen (img : BitVec 1024) (s : Nat) : Nat :=
  if cCyclic img then (cRows img + cShards img - 1 - s) / cShards img
  else min (cShardRows img) (cRows img - s * cShardRows img)

/-- A shard of `len` rows at region offset `base` ends, with its scale codes and its outlier region, within the slice
(R83, the last rule). -/
def shardFits (img : BitVec 1024) (len base : Nat) : Bool :=
  let n := if cInterleave img then ceilDiv len 4 else len
  decide (base + n * cSectors img * 32 ≤ 2 ^ 37) &&
  (!fmtScaled (cFormat img) || decide (base + cPraline img + n ≤ 2 ^ 37)) &&
  (decide (cOutliers img = 0) || decide (base + cOutlierOff img + 32 * (n + 1) ≤ 2 ^ 37))

/-- The start checks of a STATE_EXPORT in the order of R250. -/
def exportCheck (t : Task) (e : Engine) : Option (Nat × Nat) :=
  let d := t.desc
  let i := imgOf (dTable d) e
  let s := dq d 2 0 8
  let x := shardEntry (cShardFirst i + s) e
  let content := dq d 2 8 3
  let frag := dq d 2 16 13
  let deep := decide (bitsOf content 1 2 ≠ 0)
  firstOf [
    (decide (cShards i ≤ s) || (!seAll x && decide (seDevice x ≠ thisDev e)), stBadDesc, 0x40),
    (decide (content = 0) || (deep && (decide (cTier i = 0) || decide (podSize e = 16))), stBadDesc, 0x41),
    (decide (shardLen i s < dq d 3 0 40 + dq d 4 0 40) || decide (frag % 64 ≠ 0) || decide (cWidth i ≤ frag) ||
      decide (dq d 2 32 16 = 0), stBadDesc, 0x42)]

/-- The body of a STATE_EXPORT: every row of the range is asked for, with its state row (R250). -/
def exportBody (t : Task) (e : Engine) : Engine :=
  let d := t.desc
  let slot := dTable d
  let i := imgOf slot e
  let n := dq d 4 0 40
  let per := dq d 2 32 16
  let e := updJob t.ref (fun j => { j with
    total := ceilDiv n per, unit := per, count := n, issued := true
    outs := [(dBl d 1, exportBytes i (dq d 2 8 3) (dq d 2 16 13) per)] }) e
  forEach (List.range n) (fun k e =>
    let row := shardRow i (dq d 2 0 8) (dq d 3 0 40 + k)
    askRow (.item t.ref k) slot { row } true false (place slot row e).slice e) e

/-- STATE_EXPORT (R250). -/
def doStateExport (r : TaskRef) (e : Engine) : Engine := startTask 0x14 r exportCheck exportBody e

/-! STATE_IMPORT (R251, R252). -/

/-- The fields of a state record header that the import uses. -/
structure RecHdr where
  content : Nat
  format  : Nat
  row     : Nat
  rows    : Nat
  off     : Nat
  count   : Nat
  moments : Nat
  outl    : Nat
  width   : Nat
  payload : Nat
  deriving DecidableEq, Repr

/-- Reads a state record header (R248); none where MAGIC, VERSION or a reserved bit is wrong. -/
def parseRec (bs : List Byte) : Option RecHdr :=
  let h := ofBytes (bs.take 64)
  if bitsOf h 0 16 ≠ 0x5348 ∨ bitsOf h 16 8 ≠ 1 then none
  else some { content := bitsOf h 24 3, format := bitsOf h 52 8, row := bitsOf h 64 40, rows := bitsOf h 128 32
              off := bitsOf h 160 13, count := bitsOf h 176 13, moments := bitsOf h 256 2, outl := bitsOf h 258 5
              width := bitsOf h 264 13, payload := bitsOf h 288 32 }

/-- Bytes of one row in a record's payload (R249). -/
def recRowBytes (img : BitVec 1024) (x : RecHdr) : Nat :=
  let pad (n : Nat) : Nat := ceilDiv n 32 * 32
  (if x.off = 0 then 32 else 0)
  + (if x.off = 0 && decide (bitsOf x.content 0 1 = 1) && decide (0 < x.outl) then 32 else 0)
  + (if bitsOf x.content 0 1 = 1 then pad (packedSize (cFormat img) x.count) else 0)
  + (if bitsOf x.content 1 1 = 1 then pad (4 * x.count) else 0)
  + (if bitsOf x.content 2 1 = 1 then x.moments * pad (4 * x.count) else 0)

/-- The CRC of a state record fails (R248, check 0x0F). -/
def recordCrcBad (bs : List Byte) : Bool :=
  decide (ofBytes ((bs.drop 60).take 4) ≠ crc32 (bs.take 60 ++ bs.drop 64))

/-- A record fails the other checks of R251. `want`: the fragment that must come next: content, first row, rows, offset. -/
def recordFails (img : BitVec 1024) (x : RecHdr) (want : Option (Nat × Nat × Nat × Nat)) (e : Engine) : Bool :=
  let deep := decide (bitsOf x.content 1 2 ≠ 0)
  decide (x.width ≠ cWidth img) || decide (x.content = 0) ||
  (decide (bitsOf x.content 0 1 = 1) && (decide (x.format ≠ cFormat img) || decide (x.outl ≠ cOutliers img))) ||
  (decide (bitsOf x.content 2 1 = 1) && decide (x.moments ≠ momentCount (cRule img))) ||
  (deep && (decide (cTier img = 0) || decide (podSize e = 16))) ||
  decide (cWidth img < x.off + x.count) || decide (x.count = 0) || decide (cRows img < x.row + x.rows) ||
  decide (x.payload < x.rows * recRowBytes img x) ||
  (match want with
   | none => decide (x.off ≠ 0)
   | some w => decide (w ≠ (x.content, x.row, x.rows, x.off)))

/-- The parts of one row of a record: header, side-row, working codes, master, moments. -/
def cutRecRow (img : BitVec 1024) (x : RecHdr) (bs : List Byte) : List (List Byte) :=
  let wk := decide (bitsOf x.content 0 1 = 1)
  let pad (n : Nat) : Nat := ceilDiv n 32 * 32
  let take (on : Bool) (n size : Nat) (q : List Byte × List (List Byte)) : List Byte × List (List Byte) :=
    if on then (q.1.drop size, q.2 ++ [q.1.take n]) else (q.1, q.2 ++ [[]])
  let a := take (decide (x.off = 0)) 32 32 (bs, [])
  let a := take (decide (x.off = 0) && wk && decide (0 < x.outl)) 32 32 a
  let a := take wk (packedSize (cFormat img) x.count) (pad (packedSize (cFormat img) x.count)) a
  let a := take (decide (bitsOf x.content 1 1 = 1)) (4 * x.count) (pad (4 * x.count)) a
  let a := take (decide (bitsOf x.content 2 1 = 1) && decide (1 ≤ x.moments)) (4 * x.count) (pad (4 * x.count)) a
  (take (decide (bitsOf x.content 2 1 = 1) && decide (2 ≤ x.moments)) (4 * x.count) (pad (4 * x.count)) a).2

/-- An assembled row in the form that its home takes: header, side-row, working copy, FP32 arrays. -/
def joinImport (img : BitVec 1024) (parts : List (List Byte)) : List Byte :=
  let w := cWidth img
  padTo 32 (parts.getD 0 []) ++ padTo 32 (parts.getD 1 []) ++ padTo (cSectors img * 32) (parts.getD 2 []) ++
  padTo (4 * w) (parts.getD 3 []) ++ padTo (4 * w) (parts.getD 4 []) ++ padTo (4 * w) (parts.getD 5 [])

/-- One assembled row goes to its home (R252). -/
def importRow (r : TaskRef) (slot row item content : Nat) (bytes : List Byte) (e : Engine) : Engine :=
  let i := imgOf slot e
  let p := place slot row e
  let x := cutImport i bytes
  let e := if bitsOf content 1 1 = 1 then countWrite r slot row { data := f32Bytes x.master, ls := x.hdr.ls, wide := true } e else e
  let e := openItem r item 1 e
  if p.device = thisDev e then
    if slicePoweredOff p.slice e then failAt r item stAddrFault 0xC0 e
    else askWrite slot row (.state bytes content) [.item r item] e
  else match homeReach r p.device e with
    | some e => e
    | none => sendMsg { tableHdr p.device p.slice slot p e with ref := refNum r } (.importRow item row bytes content) e

/-- IMPORT_ROW at the home (R252). -/
def onImportRow (h : Hdr) (item row : Nat) (bytes : List Byte) (content : Nat) (e : Engine) : Engine :=
  askWrite h.tableId row (.state bytes content) [.done h.srcDev h.srcSlice h.ref item {}] e

/-- One record of a STATE_IMPORT. `aux` holds: records done, bytes done, items formed, then the group being assembled:
open or not, content, first row, rows, next offset. The parts of its rows stand in `rowsIn`, part `p` of row `k` under
8 × k + p. -/
def importRecord (r : TaskRef) (t : Task) (j : Job) (x : RecHdr) (bs : List Byte) (e : Engine) : Engine :=
  let slot := dTable t.desc
  let i := imgOf slot e
  let open_ := decide (j.aux.getD 3 0 = 1)
  let want := if open_ then some (j.aux.getD 4 0, j.aux.getD 5 0, j.aux.getD 6 0, j.aux.getD 7 0) else none
  let inj := takeInjection 0x0F j.slice e
  let crc := inj.1 || recordCrcBad bs
  let e := if crc then logIntegrity 4 j.slice 0x0F 0 7 inj.1 inj.2 else inj.2
  if crc || recordFails i x want e then failAt r (j.aux.getD 2 0) stBadDesc 0x43 e
  else
    let size := recRowBytes i x
    let parts := (List.range x.rows).map (fun k => cutRecRow i x ((bs.drop (64 + k * size)).take size))
    let add (rows : List (Nat × (RowVal × List Byte))) (key : Nat) (b : List Byte) : List (Nat × (RowVal × List Byte)) :=
      tput key ({}, (tget ({}, []) key rows).2 ++ b) rows
    let rows := (parts.zipIdx).foldl (fun a q => (q.1.zipIdx).foldl (fun a y => add a (8 * q.2 + y.2) y.1) a)
      (if open_ then j.rowsIn else [])
    let recs := j.aux.getD 0 0 + 1
    let done := x.off + x.count = cWidth i
    let items := j.aux.getD 2 0
    let e := updJob r (fun j => { j with
      rowsIn := if done then [] else rows
      total := if done then items + x.rows else j.total
      issued := done && decide (recs = dq t.desc 5 0 32)
      aux := [recs, j.aux.getD 1 0 + bs.length, if done then items + x.rows else items,
              b2n (!done), x.content, x.row, x.rows, x.off + x.count] }) e
    if done then
      forEach (List.range x.rows) (fun k e =>
        let ps := (List.range 6).map (fun p => (tget ({}, []) (8 * k + p) rows).2)
        importRow r slot (x.row + k) (items + k) x.content (joinImport i ps) e) e
    else if recs = dq t.desc 5 0 32 then failAt r items stBadDesc 0x43 e
    else e

/-- Records that are in, in order. -/
def importAdvance (r : TaskRef) : Nat → Engine → Engine
  | 0, e => e
  | fuel + 1, e =>
    match findTask r e, findJob r e with
    | some t, some j =>
      let l := listOf j 0
      let at_ := j.aux.getD 1 0
      let grow (n : Nat) (e : Engine) : Engine :=
        let u := pump r (updJob r (fun j => { j with lists := [{ listOf j 0 with need := max (listOf j 0).need n }] }) e)
        if l.need < n then importAdvance r fuel u else u
      let short := failAt r (j.aux.getD 2 0) stBadDesc (shortDetail l) e
      if haltsItems j || decide (dq t.desc 5 0 32 ≤ j.aux.getD 0 0) then e
      else if l.got.length < at_ + 64 then (if listShort l then short else grow (at_ + 64) e)
      else match parseRec (listBytes l at_ 64) with
        | none => failAt r (j.aux.getD 2 0) stBadDesc 0x43 e
        | some x =>
          if l.got.length < at_ + 64 + x.payload then
            if listShort l then short else grow (at_ + 64 + x.payload) e
          else importAdvance r fuel (importRecord r t j x (listBytes l at_ (64 + x.payload)) e)
    | _, _ => e

/-- The body of a STATE_IMPORT. -/
def importBody (t : Task) (e : Engine) : Engine :=
  let n := dq t.desc 5 0 32
  let e := updJob t.ref (fun j => { j with
    issued := decide (n = 0), aux := [0, 0, 0, 0, 0, 0, 0, 0]
    lists := if n = 0 then [] else [{ cursor := dBl t.desc 1, need := 64 }] }) e
  importAdvance t.ref (3 * n + 3) (pump t.ref e)

/-- STATE_IMPORT (R252). -/
def doStateImport (r : TaskRef) (e : Engine) : Engine := startTask 0x15 r (fun _ _ => none) importBody e

/-! DRIFT_CHECK (R237, R238). -/

/-- The engine with the update units replaced. -/
def setUpd (u : Upd) (e : Engine) : Engine := { e with upd := u }

/-- A sweep ends with a RESULT. -/
def driftEnd (n res : Nat) (e : Engine) : Engine :=
  let e := setUpd { e.upd with drifts := e.upd.drifts.filter (fun d => decide (d.slice ≠ n)) } e
  setF (.slcDriftSts n) Fld.SLC_DRIFT_STS_RESULT res (setF (.slcDriftCtl n) Fld.SLC_DRIFT_CTL_GO 0 e)

/-- The shards of a table whose home is this device and, in each, the rows of slice `n`. -/
def driftRow (slot n shard k : Nat) (e : Engine) : Option Nat :=
  let i := imgOf slot e
  let x := shardEntry (cShardFirst i + shard) e
  let rl := if cInterleave i then 4 * k + n else k
  if (seAll x || decide (seDevice x = thisDev e)) && (cInterleave i || decide (seSlice x = n)) &&
     decide (rl < shardLen i shard) then some (shardRow i shard rl) else none

/-- DRIFT_CHECK_GO: a sweep starts (R238). -/
def doDriftGo (n : Nat) (e : Engine) : Engine :=
  if !alive e || getB (.slcDriftCtl n) Fld.SLC_DRIFT_CTL_GO e then e
  else
    let slot := getF (.slcDriftCtl n) Fld.SLC_DRIFT_CTL_TABLE_ID e
    let e := setF (.slcDriftCtl n) Fld.SLC_DRIFT_CTL_GO 1 (setF (.slcDriftSts n) Fld.SLC_DRIFT_STS_MISMATCHES 0 e)
    if !(slotOf slot e).loaded then driftEnd n 2 e
    else if cTier (imgOf slot e) = 0 then driftEnd n 1 e
    else setUpd { e.upd with drifts := e.upd.drifts ++
      [{ slice := n, slot, next := getF (.slcDriftFirst n) Fld.SLC_DRIFT_FIRST_FIRST e }] } e

/-- The next row of a sweep: the rows from FIRST of one shard, then the next shard; none once all are done. Rows that do
not exist are skipped. -/
def driftNext (n : Nat) (d : Drift) (e : Engine) : Nat → Option (Drift × Nat)
  | 0 => none
  | fuel + 1 =>
    let first := getF (.slcDriftFirst n) Fld.SLC_DRIFT_FIRST_FIRST e
    let count := getF (.slcDriftCount n) Fld.SLC_DRIFT_COUNT_COUNT e
    let i := imgOf d.slot e
    if cShards i ≤ d.shard then none
    else if first + count ≤ d.next then driftNext n { d with shard := d.shard + 1, next := first } e fuel
    else match driftRow d.slot n d.shard d.next e with
      | some row => some ({ d with next := d.next + 1 }, row)
      | none => driftNext n { d with shard := d.shard + 1, next := first } e fuel

/-- DRIFT_CHECK_ROW: the next row of a sweep is read with its state row and compared with the codes regenerated from the
master (R238). A state row on another device is asked for first. -/
def doDriftRow (n : Nat) (e : Engine) : Engine :=
  match e.upd.drifts.find? (fun d => decide (d.slice = n)) with
  | none => e
  | some d =>
    if !alive e then e
    else match driftNext n d e (2 * (cShards (imgOf d.slot e)) + 2) with
      | none => driftEnd n 0 e
      | some (d', row) =>
        let slot := d.slot
        let i := imgOf slot e
        let p := place slot row e
        if !stateHere n slot row e then awaitState slot row .prefetch e
        else
          let e := setUpd { e.upd with drifts := e.upd.drifts.map (fun x => if x.slice = n then d' else x) } e
          let st := parseSt i (seeState n slot row e).1
          let wk := seeRow n slot p e
          let oc := outlierChannels slot p e
          let chans := oc.1.getD []
          let e := oc.2
          let ls := if fmtScaled (cFormat i) then st.ls else 0
          let g := regen i chans ls st.master
          if oc.1.isNone then e
          else if wk.2 && decide (g.data = wk.1.data) && decide (g.side = wk.1.side) &&
              decide (ls = wk.1.ls) && decide (st.ver % 256 = wk.1.ver) then e
          else
            let e := addCounter n 4 1 (incF (.slcDriftSts n) Fld.SLC_DRIFT_STS_MISMATCHES 1 e)
            let e := logRow 3 0x29 slot row 0 e
            let ver := (st.ver + 1) % 2 ^ 32
            acceptRow slot row { ver, data := g.data, ls, side := g.side } (some (stBytes i { st with ver })) none [] e

/-- A CTX_LOAD of a slot ends its sweeps (R238). -/
def driftAbort (slot : Nat) (e : Engine) : Engine :=
  forEach (e.upd.drifts.filter (fun d => decide (d.slot = slot))) (fun d e => driftEnd d.slice 3 e) e

end Sys2Proof.Machine
end

