-- ==== Sys2Proof/Machine/Grad.lean ====
section
/-! DEFINITION. GRAD_SCATTER (07_gradient_return.md R189 to R194). -/

namespace Sys2Proof.Machine

/-- This device takes part in steps (R190 item 1). -/
def stepMember (e : Engine) : Bool :=
  getB .stepCfg Fld.STEP_CFG_GATE_MEMBER e && decide (bitsOf (getReg .stepMembers e).toNat (thisDev e) 1 = 1)

/-- OPEN_STEP. -/
def openStep (e : Engine) : Nat := getF .stepSts Fld.STEP_STS_OPEN_STEP e

/-- The start checks of a GRAD_SCATTER (R190). -/
def gradCheck (t : Task) (e : Engine) : Option (Nat × Nat) :=
  let d := t.desc
  let mode := dq d 2 0 3
  let step := dq d 6 32 32
  firstOf [
    (!dStepMember d || !stepMember e, stBadDesc, 0x32),
    (stepBelow step (openStep e), stBadDesc, 0x30),
    (stepAbove step (openStep e), stBadDesc, 0x31),
    (decide (5 < mode) || (decide (mode = 0) && decide (dBl d 2 ≠ 0)), stBadDesc, 0x11),
    (modeWeighted mode != decide (dBl d 3 ≠ 0), stBadDesc, 0x12),
    (sliceOut (dq d 1 4 2) e, stBadDesc, 0x13),
    (ofScaled (dq d 6 24 8) != decide (dAddr3 d 5 ≠ 0), stBadDesc, 0x18)]

/-- What an index of a GRAD_SCATTER maps to, and whether it is a default hit (R77, R80, R192, R193). -/
inductive GradIdx where
  | none
  | one (m : Mapped)
  | both (a b : Mapped)

/-- The mapping of one index. -/
def gradIdx (slot x : Nat) (e : Engine) : GradIdx × Bool :=
  if cComposed (imgOf slot e) then
    match mapPair slot x e with
    | none => (.none, true)
    | some (a, b) => (.both a b, a.isDefault || b.isDefault)
  else
    let m := mapIndex slot x e
    (.one m, m.isDefault)

/-- The divisor of a bag, as the forward task forms it (R132, R134, R139, R191). -/
def gradDivisor (mode : Nat) (excl : Bool) (hits : List Bool) (ws : List F32) : F32 :=
  let counted := ((hits.zip ws).filter (fun q => !(q.1 && excl))).map (·.2)
  let d := match mode with
    | 2 => f32OfNat counted.length
    | 4 =>
      let l := counted.foldl (fun l w => (laneAdd l w f32One).1) (⟨0, 0⟩ : Lane)
      if f32IsFin l.s && f32IsFin l.c then rn false ((f32Q l.s).add (f32Q l.c)) else f32Add l.s l.c
    | 5 => f32Sqrt ⟨counted.length, 1⟩
    | _ => f32One
  if f32IsZero d then f32One else d

/-- The contribution of an index (R191). -/
def gradVec (gamma mult : List F32) (w d : F32) : List F32 :=
  (gamma.zipIdx).map (fun q =>
    gradElem (.div (.mul (.mul (.val q.1) (.val (mult.getD q.2 f32One))) (.val w)) (.val d)))

/-- The rows of a pair under COMPOSE_MUL are read: here, from a valid replica, or in a row message (R192). -/
def gradPairRead (r : TaskRef) (key slot row : Nat) (isA : Bool) (e : Engine) : Engine :=
  let p := place slot row e
  let n := match findJob r e with | some j => poolAt j e | none => 0
  if p.device = thisDev e then askRow (.grad r key isA) slot { row } false true n e
  else match findReplica slot row e with
    | some x =>
      if x.st = .valid then
        gradHalf r key isA (rowValues (imgOf slot e) x.val.chans x.val)
          (updReplica slot row (fun x => { x with refBit := true }) e)
      else ask p e
    | none => ask p e
where
  /-- The row is asked of its home. -/
  ask (p : Place) (e : Engine) : Engine :=
    match homeReach r p.device e with
    | some e => e
    | none => sendMsg { tableHdr p.device p.slice slot p e with ref := refNum r, arg := 2 * key + b2n isA }
        (.rowReq (2 * key + b2n isA) { row }) e

/-- One index contributes (R192, R193). -/
def gradOne (r : TaskRef) (t : Task) (bag pos : Nat) (m : GradIdx) (g : List F32) (e : Engine) : Engine :=
  let one (m : Mapped) (e : Engine) : Engine := match m with
    | .zero => e
    | .row s row _ => coalesce s row t.step g e
  let half (m : Mapped) : Option (Nat × Nat) := match m with | .zero => none | .row s row _ => some (s, row)
  match m with
  | .none => e
  | .one m => one m e
  | .both a b =>
    if cHash (imgOf (dTable t.desc) e) = 3 then one b (one a e)
    else
      let w := cWidth (imgOf (dTable t.desc) e)
      let zero : List F32 := List.replicate w 0
      let key := bag * 2 ^ 32 + pos
      let q : GradPair := { key, bag, g, a := half a, b := half b
                            va := if (half a).isNone then some zero else none
                            vb := if (half b).isNone then some zero else none }
      let e := openItem r bag 1 (updJob r (fun j => { j with prods := j.prods ++ [q] }) e)
      let e := match half a with | some (s, row) => gradPairRead r key s row true e | none => e
      let e := match half b with | some (s, row) => gradPairRead r key s row false e | none => e
      if (half a).isNone && (half b).isNone then gradPairDone r q e else e

/-- One bag of a GRAD_SCATTER (R191). -/
def gradBag (r : TaskRef) (t : Task) (j : Job) (b : Nat) (idx : List (Nat × F32)) (e : Engine) : Engine :=
  let d := t.desc
  let slot := dTable d
  let i := imgOf slot e
  let f := dq d 6 24 8
  let sz := streamRow f (cWidth i)
  let gamma := activationVals (cWidth i) f
    { data := listBytes (listOf j 3) (sz * b) sz, side := scaleRec f (dAddr3 d 5) b e }
  let mult := f32sAt (listOf j 4).got 0 ((listOf j 4).got.length / 4)
  let ms := idx.map (fun x => gradIdx slot x.1 e)
  let dv := gradDivisor (dq d 2 0 3) (cExclDefault i) (ms.map (·.2)) (idx.map (·.2))
  let e := if ms.any (·.2) then flagJob r flDefault e else e
  let e := openItem r b 1 e
  let e := forEach ((ms.zip idx).zipIdx) (fun q e => gradOne r t b q.2 q.1.1.1 (gradVec gamma mult q.1.2.2 dv) e) e
  itemPart r b e

/-- Bags whose inputs are in, in order. `aux` holds the next bag. -/
def gradAdvance (r : TaskRef) : Nat → Engine → Engine
  | 0, e => e
  | fuel + 1, e =>
    match findTask r e, findJob r e with
    | some t, some j =>
      let d := t.desc
      let b := j.aux.headD 0
      let mode := dq d 2 0 3
      let sz := streamRow (dq d 6 24 8) (cWidth (imgOf (dTable d) e))
      let lg := listOf j 3
      if haltsItems j || decide (j.total ≤ b) then e
      else if !listFull (listOf j 4) then pump r e
      else match lookBag (if mode = 0 then 0x02 else 0x01) j { mode } b with
        | .wait => pump r e
        | .fail st dt => failAt r b st dt e
        | .need a w =>
          let grow (k n : Nat) (l : List LStream) : List LStream := match l[k]? with
            | some x => l.set k { x with need := max x.need n }
            | none => l
          let e := pump r (updJob r (fun j => { j with lists := grow 2 w (grow 0 a j.lists) }) e)
          if lists2Short j a w then gradAdvance r fuel e else e
        | .go idx =>
          if lg.got.length < sz * (b + 1) then (if listShort lg then failAt r b stBadDesc (shortDetail lg) e else pump r e)
          else gradAdvance r fuel (gradBag r t j b idx (updJob r (fun j => { j with aux := [b + 1] }) e))
    | _, _ => e

/-- The body of a GRAD_SCATTER: lists of indices, offsets, weights and bag gradients, and the rescale table. -/
def gradBody (t : Task) (e : Engine) : Engine :=
  let d := t.desc
  let n := dq d 6 0 24
  let mode := dq d 2 0 3
  let i := imgOf (dTable d) e
  let none_ : LStream := { cursor := 0, ended := true }
  let rs := cRescale i
  let lists : List LStream :=
    [ { cursor := dBl d 1, need := if mode = 0 then 8 * n else 0 },
      (if mode = 0 then none_ else { cursor := dBl d 2, need := 4 * (n + 1) }),
      (if modeWeighted mode then { cursor := dBl d 3, need := 0 } else none_),
      { cursor := dBl d 4, need := n * streamRow (dq d 6 24 8) (cWidth i) },
      (if rs = 0 then none_ else { cursor := 0, blk := 2 ^ 62 + rs, left := 4 * cWidth i, need := 4 * cWidth i, ended := true }) ]
  let e := updJob t.ref (fun j => { j with
    total := n, issued := true, aux := [0], lists := if n = 0 then [] else lists }) e
  gradAdvance t.ref (2 * n + 2) (pump t.ref e)

/-- GRAD_SCATTER (R191). -/
def doGradScatter (r : TaskRef) (e : Engine) : Engine := startTask 0x08 r gradCheck gradBody e

end Sys2Proof.Machine
end

