-- ==== Sys2Proof/Machine/Steps.lean ====
section
/-! DEFINITION. Closing a step: the sort, the gate, chains, arrivals of the DENSE path (07_gradient_return.md R186,
R200 to R219; 13 R382). -/

namespace Sys2Proof.Machine

/-! The gate tree (R204). -/

/-- The gate members in ascending device number. -/
def members (e : Engine) : List Nat :=
  (List.range 64).filter (fun d => decide (bitsOf (getReg .stepMembers e).toNat d 1 = 1))

/-- GATE_ROOT. -/
def gateRoot (e : Engine) : Nat := getF .stepCfg Fld.STEP_CFG_GATE_ROOT e

/-- GATE_ROOT is a member. -/
def rootValid (e : Engine) : Bool := (members e).contains (gateRoot e)

/-- The members in order of relative rank: the root first. -/
def rankOrder (e : Engine) : List Nat :=
  let ms := members e
  ms.dropWhile (fun d => decide (d ≠ gateRoot e)) ++ ms.takeWhile (fun d => decide (d ≠ gateRoot e))

/-- The relative rank of this device. -/
def myRank (e : Engine) : Nat := (rankOrder e).findIdx (fun d => decide (d = thisDev e))

/-- The parent of this device, if it is not the root. -/
def gateParent (e : Engine) : Option Nat :=
  let r := myRank e
  if r = 0 then none else (rankOrder e)[(r - 1) / 4]?

/-- The children of this device. -/
def gateChildren (e : Engine) : List Nat :=
  let r := myRank e
  ((List.range 4).map (fun k => (rankOrder e)[4 * r + 1 + k]?)).filterMap id

/-- The configuration digest (R204). The manual names what it covers and not the order of the bytes: the mask, the
root, the chain entries (DESIGN CHOICE, notes/assumptions/20.md). -/
def gateDigest (e : Engine) : Nat :=
  crc16 (toBytes 8 (getReg .stepMembers e).toNat ++ toBytes 1 (gateRoot e) ++
    ((List.range 64).map (fun d => ((List.range 8).map (fun w => toBytes 8 (getReg (.chainEnt d w) e).toNat)).flatten)).flatten)

/-! Chain tables (R381, R382). -/

/-- The 64 positions of the chain sequence of a home: device, LAST, VALID. -/
def chainPositions (d : Nat) (e : Engine) : List (Nat × Bool × Bool) :=
  (List.range 64).map (fun k =>
    let r := Reg.chainEnt d (k / 8)
    (getF r (Fld.CHAIN_ENT_DEVICE (k % 8)) e, getB r (Fld.CHAIN_ENT_LAST (k % 8)) e, getB r (Fld.CHAIN_ENT_VALID (k % 8)) e))

/-- Cuts the valid positions into chains at their LAST bits. -/
def cutChains : List (Nat × Bool × Bool) → List Nat → List (List Nat)
  | [], cur => if cur.isEmpty then [] else [cur]
  | x :: r, cur => if x.2.1 then (cur ++ [x.1]) :: cutChains r [] else cutChains r (cur ++ [x.1])

/-- The chains of a home. -/
def chainsOf (d : Nat) (e : Engine) : List (List Nat) :=
  cutChains ((chainPositions d e).takeWhile (fun x => x.2.2)) []

/-- The chain sequence of a home obeys R382. -/
def chainOk (d : Nat) (e : Engine) : Bool :=
  let ps := chainPositions d e
  let v := ps.takeWhile (fun x => x.2.2)
  let rest := ps.drop v.length
  let devs := v.map (·.1)
  let want := (members e).filter (fun m => decide (m ≠ d))
  let lasts := (v.filter (fun x => x.2.1)).length
  rest.all (fun x => !x.2.2) && want.all (fun m => decide (devs.count m = 1)) && decide (devs.length = want.length) &&
  (if want.isEmpty then true
   else decide (1 ≤ lasts) && decide (lasts ≤ 8) && (match v.getLast? with | some x => x.2.1 | none => false))

/-! The closing step. -/

/-- The engine with the closing step changed. -/
def updClosing (f : Closing → Closing) (e : Engine) : Engine :=
  setGrad { e.grad with closing := e.grad.closing.map f } e

/-- CLOSING follows the closing and the arrival step (R186). -/
def noteClosing (e : Engine) : Engine :=
  setF .stepSts Fld.STEP_STS_CLOSING (b2n (e.grad.closing.isSome || e.grad.arrival.isSome)) e

/-- The arrival step ends once DENSE_COUNT arrivals have completed (R219). -/
def stepSettle (e : Engine) : Engine :=
  match e.grad.arrival with
  | none => e
  | some (k, d) =>
    if d ≤ tget 0 k e.grad.arrDone then
      noteClosing (setGrad { e.grad with
        arrival := none, arrDone := tdel k e.grad.arrDone, arrived := tdel k e.grad.arrived } e)
    else e

/-- The closing step's CLOSE has completed: what remains is the arrival step (R186, R219). -/
def closeGone (c : Closing) (e : Engine) : Engine :=
  let g := e.grad
  let e := setGrad { g with closing := none, flagsClosing := 0
                            coal := g.coal.filter (fun x => decide (x.step ≠ c.step))
                            arrival := some (c.step, c.denseCount) } e
  noteClosing (stepSettle (forEach (List.range 4) noteHeld e))

/-- The dense list of a CLOSE (R200). -/
def denseList (t : Task) (e : Engine) : List Nat :=
  (List.range (dq t.desc 4 0 8)).map (fun k => eaNat (dBl t.desc 3 + 8 * k) 8 e)

/-- The first entry of a list that fails R96. -/
def denseUse (t : Task) (slots : List Nat) (e : Engine) : Option (Nat × Nat) :=
  match slots with
  | [] => none
  | s :: r => match slotCheck t s e with
    | some x => some x
    | none => denseUse t r e

/-- The start checks of a CLOSE (R201). -/
def closeCheck (acc : Access) (t : Task) (e : Engine) : Option (Nat × Nat) :=
  let d := t.desc
  let step := dq d 1 32 32
  let n := dq d 4 0 8
  let a := dBl d 3
  let l := denseList t e
  let ids := l.map (fun w => bitsOf w 0 12)
  let bad := l.any (fun w => decide (bitsOf w 12 20 ≠ 0) || decide (bitsOf w 53 11 ≠ 0)) ||
    ids.any (fun s => !(slotOf s e).loaded || !cDense (imgOf s e)) || decide (ids.eraseDups.length ≠ ids.length)
  (firstOf [
    (!dStepMember d || !stepMember e, stBadDesc, 0x32),
    (decide (dq d 1 0 2 ≠ 0), stBadDesc, 0x34),
    (stepBelow step (openStep e), stBadDesc, 0x30),
    (stepAbove step (openStep e), stBadDesc, 0x31),
    ((decide (n = 0)) != (decide (a = 0)), stBadDesc, 0x33),
    (decide (n ≠ 0) && decide (acc = .portError), stAddrFault, 0x10),
    (decide (n ≠ 0) && decide (acc = .badTwice), stDataLost, 0x60),
    (bad, stBadDesc, 0x33)]).or (denseUse t ids e)

/-- The body of a CLOSE: the step closes, and the next one opens (R186, R202 step 1). -/
def closeBody (t : Task) (e : Engine) : Engine :=
  let d := t.desc
  let k := dq d 1 32 32
  let ids := (denseList t e).map (fun w => (bitsOf w 0 12, bitsOf w 32 21 * 64))
  let early := e.grad.early.filter (fun x => decide (x.2.1 = k))
  let dig := gateDigest e
  let upFl := early.foldl (fun f x => orFlags f (orFlags x.2.2.1 (if x.2.2.2 = dig then 0 else sfConfig))) 0
  let homes := members e
  let bad := !(homes.all (fun h => chainOk h e))
  let own := orFlags e.grad.flagsOpen (orFlags (if dq d 1 2 1 = 1 then sfVeto else 0) (if bad then sfConfig else 0))
  let c : Closing :=
    { ref := t.ref, step := k, absurd := BitVec.ofNat 32 (dq d 2 0 32), denseCount := dq d 1 8 8, dense := ids
      chains := homes.map (fun h => (h, chainsOf h e)), start := now e, progress := now e
      heard := early.map (·.1), upFlags := upFl }
  let e := setGrad { e.grad with closing := some c, flagsClosing := own, flagsOpen := 0
                                 early := e.grad.early.filter (fun x => decide (x.2.1 ≠ k)) } e
  let e := setF .stepSts Fld.STEP_STS_OPEN_STEP ((k + 1) % 2 ^ 32) e
  noteClosing (forEach (List.range 4) noteHeld e)

/-- STEP_CLOSE of kind CLOSE, or of an invalid kind: it does not start while an earlier CLOSE is in progress (R202). -/
def doStepCloseClose (r : TaskRef) (acc : Access) (e : Engine) : Engine :=
  match findTask r e with
  | none => e
  | some t =>
    if dq t.desc 1 0 2 = 1 ∨ e.grad.closing.isSome then e
    else startTask 0x09 r (closeCheck acc) closeBody e

/-! The sort (R202 step 3, R205, R217). -/

/-- A task of the closing step is still running (R188). -/
def stepBusy (k : Nat) (e : Engine) : Bool :=
  e.tasks.any (fun t => decide (t.phase = .running) && decide (t.step = k) && dStepMember t.desc &&
    [0x01, 0x02, 0x05, 0x08].contains (dOpcode t.desc))

/-- MERGE_SORT_START (R188, R202). -/
def doMergeSortStart (e : Engine) : Engine :=
  match e.grad.closing with
  | none => e
  | some c =>
    if !alive e || decide (c.phase ≠ .waiting) || stepBusy c.step e then e
    else updClosing (fun c => { c with phase := .sorting }) e

/-- Keys in ascending (TABLE_ID, physical row). -/
def keyLe (a b : Nat × Nat) : Bool := decide (a.1 < b.1) || (decide (a.1 = b.1) && decide (a.2 ≤ b.2))

/-- Two pair lists merged element by element (R210). -/
def pairsMerge (a b : List Lane) : List Lane := List.zipWith (fun x y => (laneMerge x y).1) a b

/-- Free values in place of the pairs of run records. -/
def freePairs : List RunRec → Engine → List RunRec × Engine
  | [], e => ([], e)
  | r :: rs, e =>
    let l := takeFreeLanes r.pairs.length e
    let t := freePairs rs l.2
    ({ r with pairs := l.1 } :: t.1, t.2)

/-- The rows of a step coalesced in a slice, records of one key merged (R202 step 3), in key order. -/
def mergedRows (n step : Nat) (e : Engine) : List RunRec :=
  let mine := e.grad.coal.filter (fun c => decide (c.slice = n) && decide (c.step = step))
  let keys := ((mine.map (fun c => (c.table, c.row))).eraseDups).mergeSort keyLe
  keys.filterMap (fun k =>
    match mine.filter (fun c => decide ((c.table, c.row) = k)) with
    | [] => none
    | c :: r => some { table := k.1, row := k.2
                       count := min (r.foldl (fun a x => a + x.count) c.count) (2 ^ 32 - 1)
                       pairs := r.foldl (fun a x => pairsMerge a x.pairs) c.pairs })

/-- The flags that the merge sorter raises for a row (R205). -/
def rowFlags (limit : F32) (r : RunRec) : Nat :=
  let bad := r.pairs.any (fun l => !f32IsFin l.s || !f32IsFin l.c)
  let on := f32IsFin limit && !f32IsZero limit && !f32Neg limit
  let abs := on && r.pairs.any (fun l =>
    f32IsFin l.s && f32IsFin l.c && (let v := (Ex.add (.val l.s) (.val l.c)).rn
      f32IsInf v || (f32Q limit).lt (f32Q v).abs))
  orFlags (if bad then sfNonfinite else 0) (if abs then sfAbsurd else 0)

/-- The bytes of the dense partial region of a table in one slice (R217). -/
def denseBytes (slot : Nat) (rows : List RunRec) (e : Engine) : List Byte :=
  let i := imgOf slot e
  let t := cTilesPerBag (cWidth i) * 512
  let find (r : Nat) : Option RunRec := rows.find? (fun x => decide (x.table = slot) && decide (x.row = r))
  let row (r : Nat) : List Byte := match find r with
    | some x => padTo t ((x.pairs.map (fun l => toBytes 4 l.s.toNat ++ toBytes 4 l.c.toNat)).flatten)
    | none => List.replicate t 0
  ((List.range (cRows i)).map row).flatten ++
  ((List.range (cRows i)).map (fun r => toBytes 4 (match find r with | some x => x.count | none => 0))).flatten

/-- The dense partial regions of one slice; a region that does not fit raises CONFIG (R217). -/
def writeDense (n : Nat) (rows : List RunRec) (c : Closing) (e : Engine) : Engine :=
  forEach c.dense (fun d e =>
    let bs := denseBytes d.1 rows e
    if 2 ^ 27 < d.2 + bs.length then raiseStep c.step sfConfig e
    else eaWrite (llmAddr n d.2) bs e) e

/-- After SKIP the dense partial regions hold undefined contents (R217). -/
def spoilDense (c : Closing) (e : Engine) : Engine :=
  forEach (List.range 4) (fun n e => forEach c.dense (fun d e =>
    let i := imgOf d.1 e
    let size := cRows i * (cTilesPerBag (cWidth i) * 512 + 4)
    if 2 ^ 27 < d.2 + size then e else spoil (llmAddr n d.2, size) e) e) e

/-- One slice's sort: flags, dense regions and sorted runs (R202, R205, R217). -/
def sortSlice (c : Closing) (n : Nat) (acc : List Run × Engine) : List Run × Engine :=
  let e := acc.2
  -- contributions that R199 leaves undefined
  let m := if e.grad.spoilt.contains (n, c.step) then freePairs (mergedRows n c.step e) e else (mergedRows n c.step e, e)
  let rows := m.1
  let e := m.2
  let e := raiseStep c.step ((rows.map (rowFlags c.absurd)).foldl orFlags 0) e
  let dense := rows.filter (fun r => cDense (imgOf r.table e))
  let e := if dense.any (fun r => !(c.dense.any (fun d => decide (d.1 = r.table)))) then raiseStep c.step sfConfig e else e
  let e := writeDense n dense c e
  let sparse := rows.filter (fun r => !cDense (imgOf r.table e))
  let ms := members e
  let home (r : RunRec) : Nat := (place r.table r.row e).device
  let e := if sparse.any (fun r => !ms.contains (home r)) then raiseStep c.step sfConfig e else e
  let bytes := ((sparse.map (fun r => gradRecBytes r.table e)).foldl (· + ·) 0)
  let e := if sortBytes n e < bytes then raiseStep c.step sfCapacity e else e
  let runs : List Run := ms.map (fun d =>
    let rs := sparse.filter (fun r => decide (home r = d))
    { home := d, slice := n, recs := rs, left := rs })
  (acc.1 ++ runs, e)

/-- MERGE_SORT_DONE: the runs and dense regions stand, and step 4 follows unless the step before is not fully applied
(R202). `lost`: a coalescing line or a spill record failed its check (R197). -/
def doMergeSortDone (lost : Bool) (e : Engine) : Engine :=
  match e.grad.closing with
  | none => e
  | some c =>
    if !alive e || decide (c.phase ≠ .sorting) then e
    else
      let e := if lost then raiseStep c.step sfLost e else e
      let s := (List.range 4).foldl (fun a n => sortSlice c n a) (([] : List Run), e)
      updClosing (fun c => { c with runs := s.1, phase := if s.2.grad.arrival.isSome then .held else .gate }) s.2

/-- CLOSE_HELD_RESUME (R202 step 1). -/
def doCloseHeldResume (e : Engine) : Engine :=
  match e.grad.closing with
  | none => e
  | some c =>
    if alive e && decide (c.phase = .held) && e.grad.arrival.isNone then updClosing (fun c => { c with phase := .gate }) e
    else e

/-! Chains (R209 to R216). -/

/-- The chains of a home as the CLOSE copied them. -/
def closeChains (c : Closing) (home : Nat) : List (List Nat) := tget [] home c.chains

/-- Where this device stands in the chains of a home: chain number, its position, the next device. -/
def myLink (c : Closing) (home : Nat) (e : Engine) : Option (Nat × Nat × Nat) :=
  ((closeChains c home).zipIdx).findSome? (fun q =>
    match q.1.findIdx? (fun d => decide (d = thisDev e)) with
    | some p => some (q.2, p, q.1.getD (p + 1) home)
    | none => none)

/-- The next record of an input: known, ended, or not known yet. -/
inductive NextKey where
  | rec_ (r : RunRec)
  | fin
  | unknown

/-- The next record of a stream. -/
def ChainIn.next (i : ChainIn) : NextKey := match i.queue with
  | r :: _ => .rec_ r
  | [] => if i.ended then .fin else .unknown

/-- The lowest key of inputs whose next keys are all known; none where one is unknown or all have ended. -/
def lowestKey (ns : List NextKey) : Option (Nat × Nat) :=
  if ns.any (fun n => match n with | .unknown => true | _ => false) then none
  else (ns.filterMap (fun n => match n with | .rec_ r => some (r.table, r.row) | _ => none)).foldl
    (fun a k => match a with | none => some k | some b => if keyLe b k then some b else some k) none

/-- Records of one key merged in input order (R210, R211). -/
def mergeRecs : List RunRec → Option RunRec
  | [] => none
  | r :: rs => some (rs.foldl (fun a x =>
      { a with pairs := pairsMerge a.pairs x.pairs, count := min (a.count + x.count) (2 ^ 32 - 1) }) r)

/-- The records of a key among inputs. -/
def keyRecs (k : Nat × Nat) (ns : List NextKey) : List RunRec :=
  ns.filterMap (fun n => match n with | .rec_ r => if (r.table, r.row) = k then some r else none | _ => none)

/-- A stream without its head where that has the key. -/
def ChainIn.pop (k : Nat × Nat) (i : ChainIn) : ChainIn := match i.queue with
  | r :: q => if (r.table, r.row) = k then { i with queue := q } else i
  | [] => i

/-- A run without its head where that has the key. -/
def Run.pop (k : Nat × Nat) (r : Run) : Run := match r.left with
  | x :: q => if (x.table, x.row) = k then { r with left := q } else r
  | [] => r

/-- The next record of a run. -/
def Run.next (r : Run) : NextKey := match r.left with | x :: _ => .rec_ x | [] => .fin

/-- A run of the closing step. -/
def findRun (home slice : Nat) (e : Engine) : Option Run :=
  e.grad.closing.bind (fun c => c.runs.find? (fun r => decide (r.home = home) && decide (r.slice = slice)))

/-- The engine with a run changed. -/
def updRun (home slice : Nat) (f : Run → Run) (e : Engine) : Engine :=
  updClosing (fun c => { c with runs := c.runs.map (fun r => if r.home = home ∧ r.slice = slice then f r else r) }) e

/-- The upstream inputs of a home slice. -/
def insOf (home slice : Nat) (c : Closing) : List ChainIn :=
  c.ins.filter (fun i => decide (i.home = home) && decide (i.slice = slice))

/-- The engine with the inputs of a home slice changed. -/
def updIns (home slice : Nat) (f : ChainIn → ChainIn) (e : Engine) : Engine :=
  updClosing (fun c => { c with ins := c.ins.map (fun i => if i.home = home ∧ i.slice = slice then f i else i) }) e

/-- At least the records that a device on a chain can send on now. -/
def linkFuel (home slice : Nat) (e : Engine) : Nat :=
  (match findRun home slice e with | some r => r.left.length | none => 0) +
  (match e.grad.closing with | some c => ((insOf home slice c).map (fun i => i.queue.length)).foldl (· + ·) 0 | none => 0) + 2

/-- A device on a chain merges its run with the stream from upstream and sends on what is known (R210). -/
def chainAdvance (home slice : Nat) : Nat → Engine → Engine
  | 0, e => e
  | fuel + 1, e =>
    match e.grad.closing, findRun home slice e with
    | some c, some r =>
      match myLink c home e with
      | none => e
      | some (ch, _, nxt) =>
        let ins := insOf home slice c
        let ns := ins.map ChainIn.next ++ [r.next]
        let hdr (slot row : Nat) : Hdr :=
          { tableHdr nxt slice slot (place slot row e) e with srcSlice := slice }
        match lowestKey ns with
        | some k =>
          match mergeRecs (keyRecs k ns) with
          | none => e
          | some m =>
            let e := updIns home slice (ChainIn.pop k) (updRun home slice (fun r => { r.pop k with sent := r.sent + 1 }) e)
            let e := sendMsg (hdr m.table m.row) (.chainRow c.step m.table m.row m.count home slice ch m.pairs) e
            chainAdvance home slice fuel e
        | none =>
          if r.sentEnd || ns.any (fun n => match n with | .fin => false | _ => true) then e
          else
            sendMsg { hdrTo nxt slice e with srcSlice := slice } (.chainEnd c.step home slice ch r.sent)
              (updRun home slice (fun r => { r with sentEnd := true }) e)
    | _, _ => e

/-- The home merges the streams of its chains with its own run and hands each merged key to the update unit (R211). -/
def homeAdvance (slice : Nat) : Nat → Engine → Engine
  | 0, e => e
  | fuel + 1, e =>
    let me := thisDev e
    match e.grad.closing, findRun me slice e with
    | some c, some r =>
      if c.phase ≠ .chains then e
      else
        let ns := (insOf me slice c).map ChainIn.next ++ [r.next]
        match lowestKey ns with
        | none => e
        | some k =>
          match mergeRecs (keyRecs k ns) with
          | none => e
          | some m =>
            let p := place m.table m.row e
            let pop (e : Engine) : Engine :=
              updClosing (fun c => { c with progress := now e }) (updIns me slice (ChainIn.pop k) (updRun me slice (Run.pop k) e))
            if p.device ≠ me then
              -- the row has moved since the sort: its update goes to the current home (R211)
              homeAdvance slice fuel (sendMsg (tableHdr p.device p.slice m.table p e)
                (.chainRow c.step m.table m.row m.count p.device p.slice 255 m.pairs) (pop e))
            else
              let t := takeArrival { ref := c.ref, slot := m.table, row := m.row, step := c.step, count := m.count, pairs := m.pairs } e
              if t.1 then homeAdvance slice fuel (pop t.2) else e
    | _, _ => e

/-- A home slice has applied every key of the step: all inputs have ended and no arrival of it waits (R216, R221). -/
def sliceApplied (slice : Nat) (c : Closing) (e : Engine) : Bool :=
  let own := match findRun (thisDev e) slice e with | some r => r.left.isEmpty | none => true
  own && (insOf (thisDev e) slice c).all (fun i => i.ended && i.queue.isEmpty) &&
  !(e.upd.waits.any (fun w => decide (w.slice = slice) && (match w.use with
    | .arrival a _ => decide (a.ref = c.ref) | _ => false))) &&
  -- an update counts as applied once every member has acknowledged its multicast (R267)
  !(e.hot.mcasts.any (fun m => decide (m.step = some c.step) && decide ((place m.table m.row e).slice = slice)))

/-- Home slices that are done send END_ACK to every device of their chains (R212). -/
def ackSlices (e : Engine) : Engine :=
  forEach (List.range 4) (fun n e =>
    match e.grad.closing with
    | none => e
    | some c =>
      if decide (c.phase ≠ .chains) || c.applied.contains n || !sliceApplied n c e then e
      else
        let e := updClosing (fun c => { c with applied := c.applied ++ [n] }) e
        forEach ((members e).filter (fun d => decide (d ≠ thisDev e))) (fun d e =>
          sendMsg { hdrTo d n e with srcSlice := n } (.endAck c.step) e) e) e

/-- The CLOSE completes once every run is acknowledged and every slice has applied its keys (R216). -/
def closeSettle (e : Engine) : Engine :=
  match e.grad.closing with
  | none => e
  | some c =>
    if decide (c.phase ≠ .chains) || decide (c.applied.length < 4) ||
       !(c.runs.all (fun r => decide (r.home = thisDev e) || r.acked)) then e
    else
      let out := c.fault.getD (doneStatus c.flags, 0)
      closeGone c (finishTask c.ref out.1 out.2 c.flags c.items 0 0 e)

/-! ARRIVAL (R218). -/

/-- An ARRIVAL task counts as completed against DENSE_COUNT (R218, R219). -/
def arrivalDone (k : Nat) (e : Engine) : Engine :=
  stepSettle (setGrad { e.grad with arrDone := tput k (tget 0 k e.grad.arrDone + 1) e.grad.arrDone } e)

/-- Rows of a summed region, in order: `aux` holds the next row and whether a row was lost. -/
def arrivalAdvance (r : TaskRef) : Nat → Engine → Engine
  | 0, e => e
  | fuel + 1, e =>
    match findTask r e, findJob r e with
    | some t, some j =>
      let slot := dq t.desc 1 16 12
      let i := imgOf slot e
      let sz := cTilesPerBag (cWidth i) * 512
      let a := dBl t.desc 3
      let k := j.aux.headD 0
      if cRows i ≤ k then
        if j.acks = 0 && !(e.hot.mcasts.any (fun m => decide (m.step = some t.step) && decide (m.table = slot))) then
          let lost := decide (j.aux.getD 1 0 = 1)
          arrivalDone t.step (finishTask r (if lost then stDataLost else doneStatus j.flags) (if lost then 0x32 else 0)
            j.flags j.lead 0 0 (delJob r e))
        else e
      else
        let next (e : Engine) : Engine := updJob r (fun j => { j with aux := [k + 1, j.aux.getD 1 0] }) e
        let count := eaNat (a + cRows i * sz + 4 * k) 4 e
        if count = 0 ∨ (place slot k e).device ≠ thisDev e then arrivalAdvance r fuel (next e)
        else
          let bs := eaRead (a + k * sz) sz e
          let pairs := (List.range (cWidth i)).map (fun c =>
            (⟨BitVec.ofNat 32 (ofBytes ((bs.drop (8 * c)).take 4)), BitVec.ofNat 32 (ofBytes ((bs.drop (8 * c + 4)).take 4))⟩ : Lane))
          if (gradOf pairs).any (fun x => !f32IsFin x) then
            arrivalAdvance r fuel (next (logRow 3 0x22 slot k t.step e))
          else
            let e1 := updJob r (fun j => { j with acks := j.acks + 1 }) e
            let x := takeArrival { ref := r, slot, row := k, step := t.step, count, pairs } e1
            if x.1 then arrivalAdvance r fuel (next x.2) else e
    | _, _ => e

/-- Every deliverer of arrivals goes on as far as it can: ARRIVAL tasks, home merges, the CLOSE. -/
def feedAll (e : Engine) : Engine :=
  let arr := (e.jobs.filter (fun j => decide (j.opcode = 0x09))).map (·.ref)
  let e := forEach arr (fun r e =>
    match findTask r e with
    | some t => arrivalAdvance r (cRows (imgOf (dq t.desc 1 16 12) e) + 1) e
    | none => e) e
  let recs (e : Engine) : Nat := match e.grad.closing with
    | some c => (c.runs.map (fun r => r.left.length)).foldl (· + ·) 0 + (c.ins.map (fun i => i.queue.length)).foldl (· + ·) 0 + 1
    | none => 0
  let e := forEach (List.range 4) (fun n e => homeAdvance n (recs e) e) e
  closeSettle (ackSlices e)

/-- An ARRIVAL whose step has decided PROCEED reads its region (R218). -/
def arrivalRun (r : TaskRef) (acc : Access) (e : Engine) : Engine :=
  match findTask r e with
  | none => e
  | some t =>
    if acc = .portError ∨ acc = .badTwice then arrivalDone t.step (finishTask r stAddrFault 0x30 0 0 0 0 e)
    else
      let e := addJob { ref := r, opcode := 0x09, aux := [0, 0], prog := now e } e
      feedAll (if acc = .badOnce then flagJob r flRecomputed e else e)

/-- The decision of a step among the last four. -/
def decisionOf (k : Nat) (e : Engine) : Option (Bool × Nat) :=
  (e.grad.decided.find? (fun d => decide (d.1 = k))).map (·.2)

/-- ARRIVAL tasks that waited for a step's decision go on (R201, R218). -/
def releaseArrivals (k : Nat) (e : Engine) : Engine :=
  match decisionOf k e with
  | none => e
  | some (go, fl) =>
    let ws := e.grad.arrWait.filter (fun w => match findTask w.1 e with | some t => decide (t.step = k) | none => true)
    let e := setGrad { e.grad with arrWait := e.grad.arrWait.filter (fun w => !ws.contains w) } e
    forEach ws (fun w e =>
      if go then arrivalRun w.1 w.2 e
      else arrivalDone k (finishTask w.1 stSkipped (0x80 + fl) 0 0 0 0 e)) e

/-- The start checks of an ARRIVAL (R201). -/
def arrivalCheck (t : Task) (e : Engine) : Option (Nat × Nat) :=
  let d := t.desc
  let step := dq d 1 32 32
  let slot := dq d 1 16 12
  let cur : Option Nat := match e.grad.closing, e.grad.arrival with
    | some c, a => if c.step = step then some c.denseCount
        else match a with | some (k, n) => if k = step then some n else none | none => none
    | none, some (k, n) => if k = step then some n else none
    | none, none => none
  (firstOf [
    (!dStepMember d || !stepMember e, stBadDesc, 0x32),
    ((match cur with | none => true | some n => decide (n ≤ tget 0 step e.grad.arrived)), stBadDesc, 0x35),
    (!(slotOf slot e).loaded || !cDense (imgOf slot e), stBadDesc, 0x33)]).or (slotCheck t slot e)

/-- The body of an ARRIVAL. -/
def arrivalBody (acc : Access) (t : Task) (e : Engine) : Engine :=
  let k := dq t.desc 1 32 32
  let e := updTask t.ref (fun t => { t with step := k }) e
  let e := setGrad { e.grad with arrived := tput k (tget 0 k e.grad.arrived + 1) e.grad.arrived
                                 arrWait := e.grad.arrWait ++ [(t.ref, acc)] } e
  releaseArrivals k e

/-- STEP_CLOSE of kind ARRIVAL (R218); `acc`: the outcome of the read of its region. -/
def doStepCloseArrival (r : TaskRef) (acc : Access) (e : Engine) : Engine :=
  match findTask r e with
  | none => e
  | some t => if dq t.desc 1 0 2 ≠ 1 then e else startTask 0x09 r arrivalCheck (arrivalBody acc) e

/-! The decision (R204 to R207). -/

/-- After PROCEED each device sends its runs into the chains, and as a home merges (R202 step 6). A run record that fails
its CRC is rebuilt from the coalesced row (R212). -/
def startChains (e : Engine) : Engine :=
  match e.grad.closing with
  | none => e
  | some c =>
    let me := thisDev e
    let inj := takeInjection 0x0D 0 e
    let e := inj.2
    let homeIns := ((List.range 4).map (fun n => (List.range (closeChains c me).length).map (fun ch =>
      ({ home := me, slice := n, chain := ch, t0 := now e } : ChainIn)))).flatten
    let chainIns := (((members e).filter (fun d => decide (d ≠ me))).map (fun d =>
      match myLink c d e with
      | some (ch, p, _) => if p = 0 then [] else (List.range 4).map (fun n => ({ home := d, slice := n, chain := ch, t0 := now e } : ChainIn))
      | none => [])).flatten
    let e := updClosing (fun c => { c with
      phase := .chains, progress := now e
      ins := homeIns ++ chainIns
      flags := if inj.1 then orFlags c.flags flRecomputed else c.flags }) e
    let e := if inj.1 then logIntegrity 3 0 0x0D 0 2 true e else e
    let e := forEach (members e) (fun d e =>
      if d = me then e else forEach (List.range 4) (fun n e =>
        chainAdvance d n (linkFuel d n e) e) e) e
    feedAll e

/-- A member acts on the decision of the closing step and forwards it to its children (R202, R204, R206). -/
def decideStep (go : Bool) (fl : Nat) (e : Engine) : Engine :=
  match e.grad.closing with
  | none => e
  | some c =>
    let e := setGrad { e.grad with decided := ((c.step, go, fl) :: e.grad.decided).take 4 } e
    let e := setF .stepSts Fld.STEP_STS_LAST_SKIPPED (b2n (!go)) e
    let e := setF .stepSts Fld.STEP_STS_LAST_FLAGS fl e
    let e := logEvent { cluster := 3, slice := 0, typ := 0x20, ref := c.step, code := b2n (!go), arg := fl } e
    let e := if rootValid e then forEach (gateChildren e) (fun d e =>
        sendMsg (hdrTo d 0 e) (.gateDown c.step go fl) e) e else e
    let e := if go then startChains e
      else closeGone c (finishTask c.ref stSkipped (0x80 + fl) 0 0 0 0 (spoilDense c e))
    releaseArrivals c.step e

/-- A member sends GATE_UP, or as root decides; a device whose root is no member decides SKIP by itself (R204). -/
def gateUp (e : Engine) : Engine :=
  match e.grad.closing with
  | none => e
  | some c =>
    let fl := orFlags e.grad.flagsClosing c.upFlags
    if !rootValid e then decideStep false (orFlags fl sfConfig) (raiseStep c.step sfConfig e)
    else match gateParent e with
      | none => decideStep (decide (fl = 0)) fl (updClosing (fun c => { c with sentUp := true }) e)
      | some p =>
        sendMsg (hdrTo p 0 e) (.gateUp c.step fl (gateDigest e)) (updClosing (fun c => { c with sentUp := true, sentAt := now e }) e)

/-- GATE_UP_SEND: the member's sort is done and every child has reported (R204). -/
def doGateUpSend (e : Engine) : Engine :=
  match e.grad.closing with
  | none => e
  | some c =>
    if !alive e || decide (c.phase ≠ .gate) || c.sentUp ||
       (rootValid e && !((gateChildren e).all (fun d => c.heard.contains d))) then e
    else gateUp e

/-- GATE_TIMEOUT: the gate timer has expired before GATE_UP was sent (R207). -/
def doGateTimeout (e : Engine) : Engine :=
  match e.grad.closing with
  | none => e
  | some c =>
    let us := max 1 (getF .stepCfg Fld.STEP_CFG_GATE_TIMEOUT e)
    if !alive e || c.sentUp || decide (c.phase = .chains) || e.grad.arrival.isSome || !elapsedUs c.start us e then e
    else gateUp (updClosing (fun c => { c with timeout := true }) (raiseStep c.step sfTimeout e))

/-- GATE_ASK_TIMER: no decision 100 µs after GATE_UP or the last request (R204). -/
def doGateAskTimer (e : Engine) : Engine :=
  match e.grad.closing with
  | none => e
  | some c =>
    if !alive e || !c.sentUp || decide (c.phase = .chains) || !elapsedUs c.sentAt 100 e then e
    else match gateParent e with
      | none => e
      | some p => sendMsg (hdrTo p 0 e) (.gateAsk c.step) (updClosing (fun c => { c with sentAt := now e }) e)

/-- GATE_UP at a parent (R204, R207). -/
def onGateUp (h : Hdr) (step fl dig : Nat) (e : Engine) : Engine :=
  match decisionOf step e with
  | some (go, f) => sendMsg (hdrTo h.srcDev 0 e) (.gateDown step go f) e
  | none =>
    match e.grad.closing with
    | some c =>
      if c.step = step then
        if c.sentUp || c.heard.contains h.srcDev then e
        else updClosing (fun c => { c with
          heard := c.heard ++ [h.srcDev]
          upFlags := orFlags c.upFlags (orFlags fl (if dig = gateDigest e then 0 else sfConfig)) }) e
      else early e
    | none => early e
where
  /-- The CLOSE of the step has not started here: the report is kept. -/
  early (e : Engine) : Engine :=
    if stepBelow step (openStep e) then e
    else
      let rest := e.grad.early.filter (fun x => decide (x.1 ≠ h.srcDev) || decide (x.2.1 ≠ step))
      setGrad { e.grad with early := (h.srcDev, step, fl, dig) :: rest } e

/-- GATE_DOWN at a member (R204, R207). -/
def onGateDown (step : Nat) (go : Bool) (fl : Nat) (e : Engine) : Engine :=
  match e.grad.closing with
  | none => e
  | some c => if decide (c.step = step) && decide (c.phase ≠ .chains) && (!go || c.sentUp) then decideStep go fl e else e

/-- GATE_ASK at a parent (R207). -/
def onGateAsk (h : Hdr) (step : Nat) (e : Engine) : Engine :=
  match decisionOf step e with
  | some (go, f) => sendMsg (hdrTo h.srcDev 0 e) (.gateDown step go f) e
  | none => e

/-! Chain messages (R210 to R215). -/

/-- The last key that a home slice has taken from a chain, and the REPLAY of that chain to each of its devices (R212). -/
def sendReplay (slice chain : Nat) (one : Bool) (e : Engine) : Engine :=
  match e.grad.closing with
  | none => e
  | some c =>
    match (insOf (thisDev e) slice c).find? (fun i => decide (i.chain = chain)) with
    | none => e
    | some i =>
      let k := i.lastKey.getD (0, 0)
      let e := updIns (thisDev e) slice (fun i => if i.chain = chain then { i with queue := [], ended := false, rows := 0 } else i) e
      forEach ((closeChains c (thisDev e)).getD chain []) (fun d e =>
        sendMsg { hdrTo d slice e with srcSlice := slice, arg := b2n one }
          (.replay c.step k.1 k.2 one (thisDev e) slice chain i.lastKey.isNone) e) e

/-- CHAIN_ROW (R210, R211). -/
def onChainRow (h : Hdr) (step row count home slice chain : Nat) (pairs : List Lane) (e : Engine) : Engine :=
  match e.grad.closing with
  | none => e
  | some c =>
    if c.step ≠ step then e
    else if chain = 255 then
      -- a row that moved since the sort (R211)
      let a : Arrival := { ref := c.ref, slot := h.tableId, row, step, count, pairs }
      let t := takeArrival a e
      feedAll (if t.1 then t.2 else awaitState h.tableId row (.arrival a false) e)
    else
      let key := (h.tableId, row)
      match (insOf home slice c).find? (fun i => decide (i.chain = chain)) with
      | none => e
      | some i =>
        let last := (i.queue.getLast?).map (fun r => (r.table, r.row))
        let ok := match last.or i.lastKey with | some k => keyLe k key && decide (k ≠ key) | none => true
        let e := updClosing (fun c => { c with progress := now e }) e
        if !ok then
          if home = thisDev e then sendReplay slice chain false (logIntegrity 3 slice 0x0B 0 2 false e) else e
        else
          let e := updIns home slice (fun i => if i.chain = chain then
            { i with queue := i.queue ++ [⟨h.tableId, row, count, pairs⟩], rows := i.rows + 1, lastKey := some key, t0 := now e } else i) e
          if home = thisDev e then feedAll e
          else chainAdvance home slice (linkFuel home slice e) e

/-- CHAIN_END (R210). A stream that lacks rows is asked for again (R212). -/
def onChainEnd (step home slice chain rows : Nat) (e : Engine) : Engine :=
  match e.grad.closing with
  | none => e
  | some c =>
    if c.step ≠ step then e
    else match (insOf home slice c).find? (fun i => decide (i.chain = chain)) with
      | none => e
      | some i =>
        if home = thisDev e && decide (i.rows < rows) then sendReplay slice chain false e
        else
          let e := updIns home slice (fun i => if i.chain = chain then { i with ended := true, t0 := now e } else i) e
          if home = thisDev e then feedAll e else chainAdvance home slice (linkFuel home slice e) e

/-- REPLAY at a device of the chain: its part of the stream starts again above the key, or `one` row of it (R212, R397). -/
def onReplay (step table row : Nat) (one : Bool) (home slice chain : Nat) (fromStart : Bool) (e : Engine) : Engine :=
  match e.grad.closing, findRun home slice e with
  | some c, some r =>
    if c.step ≠ step ∨ c.phase ≠ .chains then e
    else
      let above := r.recs.filter (fun x => fromStart || (keyLe (table, row) (x.table, x.row) && decide ((x.table, x.row) ≠ (table, row))))
      let recs := if one then above.take 1 else above
      let first : Bool := match myLink c home e with | some (_, p, _) => decide (p = 0) | none => true
      let e := updRun home slice (fun r => { r with left := recs, sentEnd := false, sent := 0 }) e
      let e := if first then e else updIns home slice (fun i =>
        if i.chain = chain then { i with queue := [], ended := false, rows := 0
                                         lastKey := if fromStart then none else some (table, row) } else i) e
      chainAdvance home slice (linkFuel home slice e) e
  | _, _ => e

/-- END_ACK at a device of a chain (R212). -/
def onEndAck (h : Hdr) (step : Nat) (e : Engine) : Engine :=
  match e.grad.closing with
  | none => e
  | some c =>
    if c.step ≠ step then e
    else closeSettle (updRun h.srcDev h.srcSlice (fun r => { r with acked := true }) e)

/-- CHAIN_TIMEOUT: a chain of a home slice has made no progress; its members are treated as lost, and the home applies
what it has (R215). -/
def doChainTimeout (slice chain : Nat) (e : Engine) : Engine :=
  match e.grad.closing with
  | none => e
  | some c =>
    match (insOf (thisDev e) slice c).find? (fun i => decide (i.chain = chain)) with
    | none => e
    | some i =>
      if !alive e || decide (c.phase ≠ .chains) || i.ended ||
         !elapsedUs i.t0 (max 1 (getF .stepCfg Fld.STEP_CFG_CHAIN_TIMEOUT e)) e then e
      else
        let e := updIns (thisDev e) slice (fun i => if i.chain = chain then { i with ended := true } else i) e
        let e := updClosing (fun c => { c with fault := c.fault.or (some (stDataLost, 0x31)) }) e
        feedAll e

/-! Commands that let arrivals go on. -/

/-- STATE_ROW_ARRIVAL, with the deliverers that go on behind it (R242, R243). -/
def stateRowArrival (id : Nat) (acc : Access) (d : Datum) (e : Engine) : Engine := feedAll (doStateRowArrival id acc d e)

/-- STATE_TIMEOUT, with the deliverers that go on behind it (R243, R244). -/
def stateTimeout (id : Nat) (e : Engine) : Engine := feedAll (doStateTimeout id e)

/-- FIRST_STEP_WRITE (R186). -/
def doFirstStep (k : Nat) (e : Engine) : Engine :=
  let busy := e.tasks.any (fun t => dStepMember t.desc && decide (t.phase ≠ .ended))
  let held := (List.range 4).any (fun n => decide (getF (.slcGradSts n) Fld.SLC_GRAD_STS_HELD e ≠ 0))
  if getB .stepSts Fld.STEP_STS_CLOSING e || busy || held then e
  else forEach (List.range 4) noteHeld (setF .stepSts Fld.STEP_STS_OPEN_STEP (k % 2 ^ 32)
    (setF .stepBase Fld.STEP_BASE_FIRST_STEP (k % 2 ^ 32) e))

end Sys2Proof.Machine
end

