-- ==== Sys2Proof/Machine/Hot.lean ====
section
/-! DEFINITION. Hot rows and live tables: replicas and their receipt table, REPLICA_SET, multicast acknowledgement, drop
and rejoin, MIGRATE, lost members (09_hot_rows_and_live_tables.md; 14 R410). -/

namespace Sys2Proof.Machine

/-- A sector message to or from the expansion die is in flight (R371). -/
def dieBusy (e : Engine) : Bool :=
  e.upd.waits.any (fun w => decide (stateSrc w.slot e = 64)) ||
  e.rowReqs.any (fun q => (q.wide || q.both) && decide (stateSrc q.slot e = 64)) ||
  e.cache.writes.any (fun w => w.parts.any (fun p => decide (p.src = 64)))

/-- EJECT ends the admission of the expansion die once no message is in flight (R371). -/
def settleEject (e : Engine) : Engine :=
  if getB .ucieCtl Fld.UCIE_CTL_EJECT e && !dieBusy e then
    setF .ucieSts Fld.UCIE_STS_ADMITTED 0 (setF .ucieCtl Fld.UCIE_CTL_EJECT 0 e)
  else e

/-- Work that an event may let go on: held writes, arrivals and merges, home runs, jobs whose items are all visible. -/
def settle (e : Engine) : Engine :=
  let e := settleEject (nearSettle (startAllHeld (feedAll (retryWrites (settleWrites e)))))
  saveSettle (forEach (e.jobs.map (·.ref)) settleDone e)

/-! Replicas at the holder (R258 to R261, R270). -/

/-- Version a is newer than b (R259). -/
def verNewer (a b : Nat) : Bool :=
  let d := (a % 256 + 256 - b % 256) % 256
  decide (1 ≤ d) && decide (d ≤ 127)

/-- A record of the replica cluster: REF a version, ARG the home device (R417). -/
def logReplica (typ table row ver : Nat) (e : Engine) : Engine :=
  let p := place table row e
  logEvent { cluster := 5, slice := p.slice, typ, tableId := table, row, ref := ver % 256, arg := p.device } e

/-- A replica becomes VALID at a version. -/
def validate (table row : Nat) (v : RowVal) (e : Engine) : Engine :=
  updReplica table row (fun r => { r with st := .valid, val := v, tries := 0, dropped := false }) e

/-- A VALID replica and its home disagree: the home wins (R270). The fetch that follows tells the home. -/
def disagree (table row : Nat) (v : RowVal) (e : Engine) : Engine :=
  let p := place table row e
  let f := takeFree e
  let e := logEvent { cluster := 5, slice := p.slice, typ := 0x11, tableId := table, row, ref := v.ver % 256
                      code := f.1.toNat % 256, arg := thisDev e } f.2
  let e := updReplica table row (fun r => { r with st := .pending, tries := 0, t0 := now e }) e
  sendMsg { tableHdr p.device p.slice table p e with arg := 1 } (.replicaFetch table row) e

/-- The row message of an install to a device that holds no replica of the row (R263). -/
def acceptInstall (table row : Nat) (v : RowVal) (e : Engine) : Engine :=
  let y := (place table row e).slice
  match truffleWay y table row e with
  | some w =>
    let r : Replica := { slice := y, table, row, way := w, set := rowSet table row, lines := replicaLines table e
                         st := .valid, val := v, t0 := now e }
    noteReplicas y (setHot { e.hot with replicas := e.hot.replicas ++ [r] } e)
  | none => logReplica 0x31 table row v.ver (incF (.slcReplSts y) Fld.SLC_REPL_STS_DECLINED 1 e)

/-- A row message at a replica holder, by the table "Replica receipt" (R260). -/
def receiveRow (table row : Nat) (v : RowVal) (install : Bool) (e : Engine) : Engine :=
  match findReplica table row e with
  | none => if install then acceptInstall table row v e else e
  | some r =>
    match r.st with
    | .invalid => e
    | .pending => validate table row v e
    | .valid =>
      if verNewer v.ver r.val.ver then validate table row v e
      else if v.ver % 256 = r.val.ver % 256 then
        if r.val.data = v.data ∧ r.val.ls = v.ls ∧ r.val.side = v.side then e else disagree table row v e
      else e

/-- REPLICA_FETCH_TIMEOUT (R261). -/
def doReplicaFetchTimeout (table row : Nat) (e : Engine) : Engine :=
  match findReplica table row e with
  | none => e
  | some r =>
    if !alive e || decide (r.st ≠ .pending) || !elapsedUs r.t0 (max 1 (getF .replCfg Fld.REPL_CFG_MCAST_WINDOW e)) e then e
    else if r.tries = 0 then sendFetch table row (updReplica table row (fun r => { r with tries := 1, t0 := now e }) e)
    else logReplica 0x30 table row r.val.ver (updReplica table row (fun r => { r with st := .invalid }) e)

/-- The multicast has been acted upon here (R378): the acknowledgement leaves. -/
def ackMcast (h : Hdr) (table row : Nat) (e : Engine) : Engine :=
  let e := setHot { e.hot with acted := tput (h.srcDev, table, row) (h.ref % 256) e.hot.acted } e
  sendMsg { hdrTo h.srcDev h.srcSlice e with tableId := table, ref := mcastItem row h.ref } (.mcastAck table row (h.ref % 256)) e

/-- MCAST_ROW at a member (R260, R263, R266). -/
def onMcastRow (h : Hdr) (table row kind : Nat) (v : RowVal) (e : Engine) : Engine :=
  ackMcast h table row (receiveRow table row v (decide (kind = 1)) e)

/-- MCAST_REMOVE at a member (R263, R266). -/
def onMcastRemove (h : Hdr) (table row : Nat) (all : Bool) (e : Engine) : Engine :=
  ackMcast h table row (freeReplicas (fun r => decide (r.table = table) && (all || decide (r.row = row))) e)

/-- DROP at a member (R268). -/
def onDrop (h : Hdr) (table : Nat) (e : Engine) : Engine :=
  let ack (e : Engine) : Engine := sendMsg { hdrTo h.srcDev 0 e with tableId := table } (.dropAck table) e
  if e.hot.rejoin.contains (table, h.srcDev) then ack e
  else
    let hit (r : Replica) : Bool := decide (r.table = table) && decide ((place table r.row e).device = h.srcDev)
    let e := setHot { e.hot with
      replicas := e.hot.replicas.map (fun r => if hit r then { r with st := .invalid, dropped := true } else r)
      rejoin := e.hot.rejoin ++ [(table, h.srcDev)] } e
    logEvent { cluster := 5, slice := 0, typ := 0x32, tableId := table, arg := h.srcDev } (ack e)

/-- The current homes of the rows of a table whose replicas a drop made INVALID (R269). -/
def droppedHomes (table : Nat) (e : Engine) : List Nat :=
  (((e.hot.replicas.filter (fun r => decide (r.table = table) && r.dropped && decide (r.st = .invalid))).map
    (fun r => (place table r.row e).device)).eraseDups)

/-- REJOIN_START: the receive queue from the home that dropped this device has drained (R269). -/
def doRejoinStart (table home : Nat) (e : Engine) : Engine :=
  let asked := e.net.waits.any (fun w => decide (w.answer = 0x0B) && decide (w.table = table))
  if !alive e || !e.hot.rejoin.contains (table, home) || asked || e.net.heldIn.any (fun m => decide (m.h.srcDev = home)) then e
  else
    let hs := droppedHomes table e
    forEach (if hs.isEmpty then [home] else hs) (fun d e => sendMsg { hdrTo d 0 e with tableId := table } (.rejoin table) e) e

/-- REJOIN_ACK at a member: the replicas that the drop made INVALID are fetched (R269). -/
def onRejoinAck (h : Hdr) (table : Nat) (e : Engine) : Engine :=
  let mine := e.hot.replicas.filter (fun r => decide (r.table = table) && r.dropped && decide (r.st = .invalid) &&
    decide ((place table r.row e).device = h.srcDev))
  let e := forEach mine (fun r e => refetch table r.row e) e
  if e.net.waits.any (fun w => decide (w.answer = 0x0B) && decide (w.table = table)) then e
  else setHot { e.hot with rejoin := e.hot.rejoin.filter (fun x => decide (x.1 ≠ table)) } e

/-! Multicast at the home (R259, R267 to R269). -/

/-- Changes the members awaited by multicasts; those with none left do what waited on them (R267). -/
def mcastStep (f : Mcast → List Nat) (e : Engine) : Engine :=
  let ms := e.hot.mcasts.map (fun m => { m with members := f m })
  let done := ms.filter (fun m => m.members.isEmpty)
  let e := setHot { e.hot with mcasts := ms.filter (fun m => !m.members.isEmpty) } e
  settle (forEach done (fun m e => forEach m.acts fireAct e) e)

/-- A member has acknowledged a multicast: the oldest one of that version that awaits it (R267). -/
def mcastAcked (dev table row ver : Nat) (e : Engine) : Engine :=
  let hit (m : Mcast) : Bool := decide (m.table = table) && decide (m.row = row) && decide (m.ver = ver % 256) && m.members.contains dev
  match e.hot.mcasts.findIdx? hit with
  | none => e
  | some k =>
    let ms := e.hot.mcasts.zipIdx.map (fun x => if x.2 = k then { x.1 with members := x.1.members.erase dev } else x.1)
    mcastStep (·.members) (setHot { e.hot with mcasts := ms } e)

/-- A multicast that a member has rejected under R95: the tasks that issued it learn so, and it is settled. -/
def mcastRejected (dev table item st dt : Nat) (e : Engine) : Engine :=
  let hit (m : Mcast) : Bool := decide (m.table = table) && decide (mcastItem m.row m.ver = item) && m.members.contains dev
  match e.hot.mcasts.find? hit with
  | none => e
  | some m =>
    let e := forEach m.acts (fun a e => match a with | .item r _ => failTask r st dt e | _ => e) e
    mcastAcked dev table m.row m.ver e

/-- The members this home has dropped for a table. -/
def isDropped (table dev : Nat) (e : Engine) : Bool :=
  e.hot.dropped.any (fun x => decide (x.table = table) && decide (x.member = dev))

/-- MCAST_LAG_EXPIRY (R268). -/
def doMcastLagExpiry (table dev : Nat) (e : Engine) : Engine :=
  let us := max 1 (getF .replCfg Fld.REPL_CFG_MCAST_WINDOW e)
  let late := e.hot.mcasts.any (fun m => decide (m.table = table) && m.members.contains dev && elapsedUs m.t0 us e)
  if !alive e || !late || isDropped table dev e then e
  else
    let e := setHot { e.hot with dropped := e.hot.dropped ++ [{ table, member := dev, t0 := now e }] } e
    sendMsg { hdrTo dev 0 e with tableId := table } (.drop table) (incF .replSts Fld.REPL_STS_DROPS 1 e)

/-- DROP_ACK at the home: what waited on the member is applied (R267, R268). -/
def onDropAck (h : Hdr) (table : Nat) (e : Engine) : Engine :=
  if !isDropped table h.srcDev e then e
  else
    let e := setHot { e.hot with dropped := e.hot.dropped.map (fun x =>
      if x.table = table ∧ x.member = h.srcDev then { x with acked := true } else x) } e
    mcastStep (fun m => if m.table = table then m.members.erase h.srcDev else m.members) e

/-- REJOIN at the home (R269). -/
def onRejoin (h : Hdr) (table : Nat) (e : Engine) : Engine :=
  let e := if isDropped table h.srcDev e then
      let e := setHot { e.hot with dropped := e.hot.dropped.filter (fun x => decide (x.table ≠ table) || decide (x.member ≠ h.srcDev)) } e
      mcastStep (fun m => if m.table = table then m.members.erase h.srcDev else m.members) (incF .replSts Fld.REPL_STS_REJOINS 1 e)
    else e
  sendMsg { hdrTo h.srcDev 0 e with tableId := table } (.rejoinAck table) e

/-! Lost members (R410). -/

/-- A member is lost: each operation that waits on it takes its own course (R410, R304, R268, R377). -/
def loseMember (d cause : Nat) (e : Engine) : Engine :=
  if memberIsLost d e || decide (d = thisDev e) then e
  else
    let e := setReg .podLost (getReg .podLost e ||| BitVec.ofNat 64 (2 ^ d)) e
    let e := logEvent { cluster := 6, slice := 0, typ := 0x17, ref := d, code := cause } (setAlert Fld.FAULT_STS_MEMBER_LOST e)
    let refs := ((e.net.awaits.filter (fun a => decide (a.2 = d))).map (·.1)).eraseDups
    let e := setNet { e.net with
      awaits := e.net.awaits.filter (fun a => decide (a.2 ≠ d))
      waits := e.net.waits.filter (fun w => decide (w.peer ≠ d))
      unacked := e.net.unacked.filter (fun u => decide (u.msg.h.dstDev ≠ d)) } e
    let e := forEach refs (fun r e => failTask (refOf r) stDataLost 0xA0 e) e
    let e := setHot { e.hot with migs := e.hot.migs.map (fun m =>
      if m.mapWait.contains d then { m with mapWait := m.mapWait.erase d, tAck := now e } else m) } e
    mcastStep (fun m => m.members.erase d) e

/-- DROP_ACK_TIMEOUT (R268). -/
def doDropAckTimeout (table dev : Nat) (e : Engine) : Engine :=
  match e.hot.dropped.find? (fun x => decide (x.table = table) && decide (x.member = dev)) with
  | none => e
  | some x =>
    if !alive e || x.acked || !elapsedUs x.t0 (max 1 (getF .replCfg Fld.REPL_CFG_MCAST_WINDOW e)) e then e
    else loseMember dev 1 e

/-! REPLICA_SET (R262, R263, R285). -/

/-- ACTION of a REPLICA_SET descriptor. -/
def replAction (d : BitVec 512) : Nat := dq d 2 0 3

/-- The start checks (R285). -/
def replicaCheck (t : Task) (e : Engine) : Option (Nat × Nat) :=
  let i := imgOf (dTable t.desc) e
  firstOf [(cComposed i, stBadDesc, 0x51), (decide (cGroup i = 0), stBadDesc, 0x52),
    (decide (4 ≤ replAction t.desc), stBadDesc, 0x53)]

/-- A multicast whose acknowledgements are awaited by `acts`; with no member they follow at once. -/
def multicastFor (slot row ver : Nat) (b : Body) (arg : Nat) (acts : List VisAct) (e : Engine) : Engine :=
  if (mcastTo slot e).isEmpty then forEach acts fireAct e else multicast slot row ver b arg none acts e

/-- A REPLICA_SET action on a row at its home (R263). -/
def homeAction (slot row action : Nat) (acts : List VisAct) (e : Engine) : Engine :=
  let p := place slot row e
  if action = 1 then
    let ver := (seeRow p.slice slot p e).1.ver
    multicastFor slot row ver (.mcastRemove slot row false) 0 acts e
  else askRow (.action action acts) slot { row } false false p.slice e

/-- REPLICA_ACTION at a home (R263). -/
def onReplicaAction (h : Hdr) (row action item : Nat) (e : Engine) : Engine :=
  homeAction h.tableId row action [.done h.srcDev h.srcSlice h.ref item {}] e

/-- One row of a REPLICA_SET list (R263, R283). -/
def replicaEntry (r : TaskRef) (t : Task) (k : Nat) (e : Engine) : Engine :=
  match findJob r e with
  | none => e
  | some j =>
    let slot := dTable t.desc
    let w := listNat (listOf j 0) k 8
    let row := bitsOf w 0 40
    if bitsOf w 40 24 ≠ 0 then failAt r k stBadDesc 0x02 e
    else if cRows (imgOf slot e) ≤ row then failAt r k stBadDesc 0x50 e
    else
      let p := place slot row e
      let act := replAction t.desc
      if p.device = thisDev e then homeAction slot row act [.item r k] (openItem r k 1 e)
      else match homeReach r p.device e with
        | some e => e
        | none =>
          sendMsg { tableHdr p.device p.slice slot p e with ref := refNum r, arg := k } (.replicaAction slot row act) (openItem r k 1 e)

/-- List entries that are in, in order. -/
def replicaAdvance (r : TaskRef) : Nat → Engine → Engine
  | 0, e => e
  | fuel + 1, e =>
    match findTask r e, findJob r e with
    | some t, some j =>
      let k := j.aux.headD 0
      let l := listOf j 0
      if haltsItems j || decide (j.total ≤ k) then e
      else if l.got.length < 8 * (k + 1) then (if listShort l then failAt r k stBadDesc (shortDetail l) e else pump r e)
      else replicaAdvance r fuel (replicaEntry r t k (updJob r (fun j => { j with aux := [k + 1] }) e))
    | _, _ => e

/-- The body of a REPLICA_SET of a listed action. -/
def replicaBody (t : Task) (e : Engine) : Engine :=
  let d := t.desc
  let n := dq d 3 0 24
  let e := updJob t.ref (fun j => { j with
    total := n, issued := true, aux := [0], lists := if n = 0 then [] else [{ cursor := dBl d 1, need := 8 * n }] }) e
  replicaAdvance t.ref (n + 1) (pump t.ref e)

/-- The body of a REPLICA_SET REMOVE_TABLE: every member frees every replica of the table (R263). -/
def removeTableBody (t : Task) (e : Engine) : Engine :=
  let slot := dTable t.desc
  let e := freeReplicas (fun x => decide (x.table = slot)) e
  let e := openItem t.ref 0 1 (updJob t.ref (fun j => { j with issued := true }) e)
  multicastFor slot (2 ^ 40) 0 (.mcastRemove slot (2 ^ 40) true) 0 [.item t.ref 0] e

/-- A REPLICA_SET of one action; a descriptor with another action is left to its own command, and an invalid ACTION is
reported by any of them. -/
def doReplicaSet (act : Nat) (r : TaskRef) (e : Engine) : Engine :=
  match findTask r e with
  | none => e
  | some t =>
    let a := replAction t.desc
    if a ≠ act ∧ a < 4 then e
    else startTask 0x13 r replicaCheck (if act = 3 then removeTableBody else replicaBody) e

/-! MIGRATE (R272 to R278). -/

/-- A shard-map entry (R81). -/
def makeEntry (dev slice epoch base : Nat) : BitVec 64 :=
  BitVec.ofNat 64 (dev + slice * 2 ^ 8 + epoch * 2 ^ 16 + base / 4096 * 2 ^ 24)

/-- Replaces the shard-map entry of a shard. -/
def setShard (slot shard : Nat) (x : BitVec 64) (e : Engine) : Engine :=
  { e with shards := tput (cShardFirst (imgOf slot e) + shard) ⟨slot, x⟩ e.shards }

/-- The start checks of MIGRATE (R273). -/
def migrateCheck (t : Task) (e : Engine) : Option (Nat × Nat) :=
  let slot := dTable t.desc
  let i := imgOf slot e
  let s := dq t.desc 1 8 8
  let dev := dq t.desc 1 16 6
  let nsl := dq t.desc 1 22 2
  let x := shardEntry (cShardFirst i + s) e
  let same := decide (dev = seDevice x) && (cInterleave i || decide (nsl = seSlice x))
  firstOf [
    (cComposed i, stBadDesc, 0x51),
    (decide (cShards i ≤ s) || (!seAll x && decide (seDevice x ≠ thisDev e)), stBadDesc, 0x54),
    (seAll x || decide (cTier i = 3) || (decide (cTier i = 2) && (partnerOf dev e).isNone), stBadDesc, 0x56),
    (decide (podSize e ≤ dev) || (cInterleave i && decide (nsl ≠ 0)) || same ||
      !shardFits i (shardLen i s) (dq t.desc 2 0 25 * 4096), stBadDesc, 0x55),
    (e.hot.migs.any (fun m => decide (m.slot = slot)), stBadDesc, 0x57)]

/-- A MIGRATE takes its stream slot on every slice of the shard and reads the rows in ascending order (R272, R274). -/
def migrateEnter (t : Task) (e : Engine) : Engine :=
  let d := t.desc
  let slot := dTable d
  let i := imgOf slot e
  let s := dq d 1 8 8
  let x := shardEntry (cShardFirst i + s) e
  let st := dq d 1 0 4
  let slices := if cInterleave i then [0, 1, 2, 3] else [seSlice x]
  if slices.any (fun n => slotBusy n st e) then e
  else
    let n := shardLen i s
    let e := forEach slices (fun k e => setBit (.slcStreamSts k) Fld.SLC_STREAM_STS_SLOT_BUSY st true e) e
    let e := updJob t.ref (fun j => { j with
      slot := some st, waitSlot := false, slice := slices.headD 0, aux := slices, total := n, prog := now e }) e
    let e := setHot { e.hot with migs := e.hot.migs ++ [{
      ref := t.ref, slot, shard := s, newDev := dq d 1 16 6, newSlice := dq d 1 22 2
      newBase := dq d 2 0 25 * 4096, next := n, old := x }] } e
    forEach (List.range n) (fun rl e =>
      let row := shardRow i s rl
      askRow (.migrate t.ref rl) slot { row } (decide (cTier i ≠ 0)) false (place slot row e).slice e) e

/-- The body of a MIGRATE. -/
def migrateBody (t : Task) (e : Engine) : Engine := migrateEnter t (addJob { newJob t e with waitSlot := true } e)

/-- MIGRATE (R274). Given again, it goes on once its stream slot is free (R20). -/
def doMigrate (r : TaskRef) (e : Engine) : Engine :=
  match findJob r e, findTask r e with
  | some j, some t => if j.waitSlot && enabled e && decide (dOpcode t.desc = 0x12) then migrateEnter t e else e
  | _, _ => startTask 0x12 r migrateCheck migrateBody e

/-- MIGRATE_COPY at the new home (R274): the newer of two copies stays. The copy carries the outlier channels of its shard,
which the new region's header takes (DEDUCED, notes/assumptions/26.md). -/
def onMigrateCopy (h : Hdr) (item row base : Nat) (v : RowVal) (st : Option (List Byte)) (e : Engine) : Engine :=
  let slot := h.tableId
  let i := imgOf slot e
  let act := VisAct.done h.srcDev h.srcSlice h.ref item {}
  match tfind (slot, row) e.hot.copied with
  | some old => if verNewer v.ver old then write slot i act e else fireAct act e
  | none => write slot i act e
where
  /-- The write at the new place: the entry that the switch will install holds while it is formed. -/
  write (slot : Nat) (i : BitVec 1024) (act : VisAct) (e : Engine) : Engine :=
    let p := place slot row e
    let k := cShardFirst i + p.shard
    let old := shardEntry k e
    let e := setShard slot p.shard (makeEntry (thisDev e) (if cInterleave i then 0 else h.dstSlice) p.epoch base) e
    let q := place slot row e
    let e := if cOutliers i = 0 then e
      else storePart { src := thisDev e, addr := outlierHdr slot q e, bytes := padTo 32 (v.chans.map (toBytes 2)).flatten } e
    let e := storeRow slot row v st [act] e
    setHot { e.hot with copied := tput (slot, row) (v.ver % 256) e.hot.copied } (setShard slot p.shard old e)

/-- Work on a shard that the old home accepted and has not finished (R274, R275). -/
def shardBusy (slot shard : Nat) (e : Engine) : Bool :=
  let mine (s row : Nat) : Bool := decide (s = slot) && decide ((place s row e).shard = shard)
  e.rowReqs.any (fun q => mine q.slot q.row) || e.upd.waits.any (fun w => mine w.slot w.row) ||
  e.homeRuns.any (fun h => decide (h.slot = slot) && !h.rows.isEmpty)

/-- The lines of a slot's shard that satisfy a test. -/
def shardLine (slot shard : Nat) (e : Engine) (l : Line) : Bool :=
  decide (l.table = slot) &&
  (if l.kind = .state then decide ((place slot (stateRowAt slot (l.base * 512) e) e).shard = shard)
   else
     let x := shardEntry (cShardFirst (imgOf slot e) + shard) e
     let i := imgOf slot e
     let a := l.base * 512
     let n := shardLen i shard
     let off := a % 2 ^ 37 - seBase x
     decide (seBase x ≤ a % 2 ^ 37) &&
     decide (off < max (n * cSectors i * 32) (max (cPraline i + n) (cOutlierOff i + 32 * (n + 1)))))

/-- MIGRATE_SWITCH: the new home becomes the home, and the new entry goes to every device (R274). -/
def doMigrateSwitch (r : TaskRef) (e : Engine) : Engine :=
  match e.hot.migs.find? (fun m => decide (m.ref = r)), findJob r e with
  | some m, some j =>
    let ready := decide (m.phase = .copy) && decide (m.open_ = 0) && decide (j.total ≤ j.lead) && j.fault.isNone && j.slot.isSome
    if !alive e || !ready || shardBusy m.slot m.shard e then e
    else
      -- dirty state rows reach their memory, and copies under R86 go (R275)
      let i := imgOf m.slot e
      let e := flushLines (fun l => decide (l.kind = .state ∨ l.kind = .copy) && shardLine m.slot m.shard e l) e
      let epoch := (seEpoch m.old + 1) % 256
      let x := makeEntry m.newDev (if cInterleave i then 0 else m.newSlice) epoch m.newBase
      let e := setShard m.slot m.shard x e
      let others := (List.range (podSize e)).filter (fun d => decide (d ≠ thisDev e) && reachable d e)
      let lost := (e.hot.dropped.filter (fun y => decide (y.table = m.slot))).map (·.member)
      let e := setHot { e.hot with migs := e.hot.migs.map (fun y =>
        if y.ref = r then { y with phase := .forward, mapWait := others, tAck := now e } else y) } e
      forEach others (fun d e =>
        sendMsg { hdrTo d 0 e with tableId := m.slot, epoch, gen := cGen i }
          (.shardMap m.slot m.shard x (if d = m.newDev then lost else [])) e) e
  | _, _ => e

/-- SHARD_MAP at a device: the entry is installed and acknowledged (R274). -/
def onShardMap (h : Hdr) (table shard : Nat) (x : BitVec 64) (lost : List Nat) (e : Engine) : Engine :=
  let i := imgOf table e
  let known := (slotOf table e).loaded && !cComposed i && decide (shard < cShards i)
  let e := if known && decide (shardEntry (cShardFirst i + shard) e ≠ x) then
      let e := setShard table shard x e
      let add := (lost.filter (fun d => !isDropped table d e)).map (fun d => ({ table, member := d, t0 := now e, acked := true } : Dropped))
      setHot { e.hot with
        dropped := e.hot.dropped ++ add
        copied := e.hot.copied.filter (fun c => decide (c.1.1 ≠ table) || decide ((place table c.1.2 e).shard ≠ shard)) } e
    else e
  sendMsg { hdrTo h.srcDev 0 e with tableId := table } (.shardMapAck table shard (seEpoch x)) e

/-- SHARD_MAP_ACK at the old home (R274). -/
def onShardMapAck (h : Hdr) (table shard : Nat) (e : Engine) : Engine :=
  setHot { e.hot with migs := e.hot.migs.map (fun m =>
    if m.slot = table ∧ m.shard = shard ∧ m.mapWait.contains h.srcDev then
      { m with mapWait := m.mapWait.erase h.srcDev, tAck := now e } else m) } e

/-- FWD_WINDOW_EXPIRY: forwarding ends, the old region and its lines are free, and the task completes (R274). -/
def doFwdWindowExpiry (r : TaskRef) (e : Engine) : Engine :=
  match e.hot.migs.find? (fun m => decide (m.ref = r)) with
  | none => e
  | some m =>
    if !alive e || decide (m.phase ≠ .forward) || !m.mapWait.isEmpty ||
       !elapsedUs m.tAck (max 1 (getF .replCfg Fld.REPL_CFG_FWD_WINDOW e)) e then e
    else
      let cur := shardEntry (cShardFirst (imgOf m.slot e) + m.shard) e
      let e0 := setShard m.slot m.shard m.old e
      let gone (l : Line) : Bool := shardLine m.slot m.shard e0 l
      let e := if m.newDev = thisDev e then e
        else setCache { e.cache with lines := e.cache.lines.filter (fun l => !gone l)
                                     crumb := e.cache.crumb.filter (fun c => !(gone c.line && c.wb.isNone)) } e
      let e := setShard m.slot m.shard cur e
      let e := setHot { e.hot with migs := e.hot.migs.filter (fun y => decide (y.ref ≠ r)) } e
      match findJob r e with
      | none => e
      | some j => finishTask r (doneStatus j.flags) 0 j.flags j.total 0 0 (dropJob j e)

/-! Answers at the writer and the requester. -/

/-- WRITE_DONE (R281, R263, R274). -/
def onWriteDone (h : Hdr) (item : Nat) (bits : StatusBits) (e : Engine) : Engine :=
  let r := refOf h.ref
  match findJob r e with
  | none => e
  | some j =>
    if bits.lost then failTask r stDataLost 0x10 e
    else
      let e := progress r (if bits.recomp then flagJob r flRecomputed e else e)
      let e := if j.opcode = 0x12 then
          setHot { e.hot with migs := e.hot.migs.map (fun m => if m.ref = r then { m with open_ := m.open_ - 1 } else m) } e
        else e
      if j.opcode = 0x12 then (if item < 2 ^ 40 then itemPart r item e else e)
      else settleDone r (itemPart r item e)

/-- The answer of a replica holder to a home without a source of its own (R397). -/
def onReplicaAnswer (h : Hdr) (row : Nat) (val : Option RowVal) (e : Engine) : Engine :=
  match e.rowReqs.find? (fun q => decide (q.id = h.ref) && decide (q.row = row) && q.waitState) with
  | none => e
  | some q =>
    let p := place q.slot row e
    let want := (seeRow p.slice q.slot p e).1.ver
    match val with
    | some v =>
      if v.ver % 256 = want % 256 then
        let e := noteRecovery q 0x01 2 (dropReq q.id e)
        deliverRow q v true (storeRow q.slot row v none [] e)
      else next q e
    | none => next q e
where
  /-- The next member of the group is asked; none is left: the row is lost. -/
  next (q : RowReq) (e : Engine) : Engine :=
    match (mcastTo q.slot e).find? (fun d => decide (h.srcDev < d)) with
    | some d =>
      let p := place q.slot row e
      sendMsg { tableHdr d p.slice q.slot p e with ref := q.id, arg := 2 } (.replicaFetch q.slot row) e
    | none => loseRow q false e

/-- ROW: the answer to a row request, to a replica fetch, or to a home's recovery (R145, R260, R261, R397). -/
def onRow (h : Hdr) (bag row : Nat) (val : Option RowVal) (bits : StatusBits) (e : Engine) : Engine :=
  match h.arg with
  | 0 => ownerRow h bag row val bits e
  | 1 => match val with | some v => receiveRow h.tableId row v false e | none => e
  | _ => onReplicaAnswer h row val e

/-- REPLICA_FETCH at the home, or at a replica holder that a home asks for a row it has lost (R261, R270, R397). -/
def onReplicaFetch (h : Hdr) (table row : Nat) (e : Engine) : Engine :=
  let p := place table row e
  if h.arg = 2 then
    let v := match findReplica table row e with
      | some r => if r.st = .valid then some r.val else none
      | none => none
    sendAnswer { tableHdr h.srcDev h.srcSlice table p e with ref := h.ref, arg := 2 } (.row 0 row v { lost := v.isNone }) e
  else
    let e := if h.arg = 1 then incF .replSts Fld.REPL_STS_DISAGREE 1 e else e
    askRow (.reply h.srcDev h.srcSlice h.ref 0 true) table { row } false false p.slice e

/-- A state read that was rejected: the requests that need the row end; arrivals keep waiting, and R244 ends that (R437). -/
def rejectState (slot row st dt : Nat) (e : Engine) : Engine :=
  forEach (e.upd.waits.filter (fun w => decide (w.slot = slot) && decide (w.row = row))) (fun w e =>
    let fail (id : Nat) (e : Engine) : Engine :=
      let e := { e with upd := { e.upd with waits := e.upd.waits.filter (fun x => decide (x.id ≠ w.id)) } }
      match e.rowReqs.find? (fun q => decide (q.id = id)) with
      | some q => failUse q st dt (dropReq q.id e)
      | none => e
    match w.use with
    | .req id | .recover id => fail id e
    | _ => e) e

/-- REJECT at the sender, by the TYPE it rejects, which ARG carries (R95, R213, R277, R437). -/
def onReject (h : Hdr) (reason : Nat) (e : Engine) : Engine :=
  let r := refOf h.ref
  let (st, dt) := if reason = 1 then (stAddrFault, 0xC0) else (stBadTable, 0x11)
  if h.arg = 0x50 then closeSettle (updClosing (fun c => { c with fault := c.fault.or (some (st, dt)) }) e)
  else if h.arg = 0x52 ∨ h.arg = 0x53 then mcastRejected h.srcDev h.tableId h.ref st dt e
  else if h.arg = 0x20 then rejectState h.tableId h.ref st dt e
  else if h.arg = 0x22 ∨ h.arg = 0x32 ∨ h.arg = 0x33 then e
  else if reason = 1 ∧ h.arg = 0x56 then failTask r stAddrFault 0x50 e
  else failTask r st dt e

end Sys2Proof.Machine
end

