-- ==== Sys2Proof/Machine/Memory.lean ====
section
/-! DEFINITION. The row cache's ways and write completions, the memory-side adders and SCATTER_ADD, thermal throttling
(11_row_cache_and_memory.md R319, R323 to R342; 03 R86). -/

namespace Sys2Proof.Machine

/-! Ways (R325, R326, R329). -/

/-- The kind that a value of SHD_SLC_WAY_CFG gives a way. -/
def cfgKind (v : Word) (w : Nat) : Nat := getFld v (Fld.SLC_WAY_CFG_KIND w)

/-- A write of SHD_SLC_WAY_CFG takes effect (R325); a disabled way counts toward no limit (R329). -/
def wayCfgOk (n : Nat) (v : Word) (e : Engine) : Bool :=
  let ws := List.range 24
  let counted := ws.filter (fun w => !wayDisabled n w e)
  let held := decide (getF .stepSts Fld.STEP_STS_CLOSING e = 1) || decide (getF (.slcGradSts n) Fld.SLC_GRAD_STS_HELD e ≠ 0)
  !(ws.any (fun w => decide (12 ≤ w) && decide (cfgKind v w = 3))) &&
  decide ((counted.filter (fun w => decide (cfgKind v w = 2))).length ≤ 3) &&
  decide (2 ≤ (counted.filter (fun w => decide (cfgKind v w = 0))).length) &&
  !(held && ws.any (fun w => decide (wayKind n w e = 1) && decide (cfgKind v w ≠ 1))) &&
  !getB (.slcWaySts n) Fld.SLC_WAY_STS_RECONF_BUSY e

/-- The replicas of a way are freed (R326, R329). -/
def freeWay (n w : Nat) (e : Engine) : Engine := freeReplicas (fun r => decide (r.slice = n) && decide (r.way = w)) e

/-- A write of SHD_SLC_WAY_CFG: the changed ways are emptied (R326). The register reads its old value until they are. -/
def doWayCfgWrite (n : Nat) (v : Word) (e : Engine) : Engine :=
  if !alive e || decide (4 ≤ n) || !wayCfgOk n v e then e
  else
    let old := getReg (.slcWayCfg n) e
    let v := v &&& 0xFFFFFFFFFFFF
    let changed := (List.range 24).filter (fun w => decide (cfgKind v w ≠ cfgKind old w))
    let e := setF (.slcWaySts n) Fld.SLC_WAY_STS_RECONF_BUSY 1 e
    let e := setCache { e.cache with reconf := tput n v e.cache.reconf } e
    let e := flushLines (fun l => decide (l.slice = n) && changed.contains l.way) e
    forEach (changed.filter (fun w => decide (cfgKind old w = 3))) (freeWay n) e

/-- WAY_RECONF_DONE: the write-backs of the slice are done, and each way takes its new kind (R326). -/
def doWayReconfDone (n : Nat) (e : Engine) : Engine :=
  match tfind n e.cache.reconf with
  | none => e
  | some v =>
    if !alive e || e.cache.writes.any (fun w => w.evict && decide (w.slice = n)) then e
    else
      setF (.slcWaySts n) Fld.SLC_WAY_STS_RECONF_BUSY 0
        (setReg (.slcWayCfg n) v (setCache { e.cache with reconf := tdel n e.cache.reconf } e))

/-- WAY_ACCESS_COUNT_WRAP: W has reached 2^20, and D returns to 0 (R329). -/
def doWayAccessCountWrap (n w : Nat) (e : Engine) : Engine :=
  if alive e && decide ((tget (0, 0) (n, w) e.cache.ways).2 = 2 ^ 20) then
    setCache { e.cache with ways := tput (n, w) (0, 0) e.cache.ways } e
  else e

/-- The coalesced rows of a way that disables itself move to another coalescing way or to the spill region; what fits
nowhere raises CAPACITY, as any row that is not held does (R197, R329). -/
def moveCoalesced (n w : Nat) (e : Engine) : Engine :=
  let here (c : Coal) : Bool := decide (c.slice = n) && (match c.way with | some (v, _) => decide (v = w) | none => false)
  let rows := e.grad.coal.filter here
  let e := setGrad { e.grad with coal := e.grad.coal.filter (fun c => !here c) } e
  noteHeld n (forEach rows (fun c e =>
    match coalWay n c.table c.row e with
    | some v => setGrad { e.grad with coal := e.grad.coal ++ [{ c with way := some (v, rowSet c.table c.row) }] } e
    | none =>
      let used := ((e.grad.coal.filter (fun x => decide (x.slice = n) && x.way.isNone)).map
        (fun x => gradRecBytes x.table e)).foldl (· + ·) 0
      if used + gradRecBytes c.table e ≤ spillBytes n e then
        setGrad { e.grad with coal := e.grad.coal ++ [{ c with way := none }] } e
      else raiseStep c.step sfCapacity (logEvent { cluster := 3, slice := n, typ := 0x21, tableId := c.table, row := c.row, ref := c.step } e)) e)

/-- A way disables itself by its detections (R329). -/
def disableWay (n w : Nat) (e : Engine) : Engine :=
  if wayDisabled n w e then e
  else
    let e := flushLines (fun l => decide (l.slice = n) && decide (l.way = w)) e
    let e := setBit (.slcWaySts n) Fld.SLC_WAY_STS_DISABLED w true e
    let e := freeWay n w (moveCoalesced n w e)
    setAlert Fld.FAULT_STS_WAY_DISABLED (logEvent { cluster := 2, slice := n, typ := 0x13, ref := w } e)

/-- A failed CRC-16 in a way (R328, R329): the sector is read again from its memory. -/
def wayDetection (n w : Nat) (injected : Bool) (e : Engine) : Engine :=
  let e := incF (.slcCacheCnt n) Fld.SLC_CACHE_CNT_DETECTIONS 1 e
  let e := logIntegrity 2 n 0x03 0 0 injected e
  let x := tget (0, 0) (n, w) e.cache.ways
  let x := if x.1 = 0 then (1, 0) else (x.1 + 1, x.2)
  let e := setCache { e.cache with ways := tput (n, w) x e.cache.ways } e
  if 4 ≤ x.1 then disableWay n w e else e

/-- Replicas of a way lost to a failed check of a key line are fetched again from their homes (R258). -/
def refetchWay (n w : Nat) (e : Engine) : Engine :=
  match e.hot.replicas.find? (fun r => decide (r.slice = n) && decide (r.way = w) && decide (r.st = .valid)) with
  | some r => refetch r.table r.row e
  | none => e

/-- A detection that a command reports in a way, and what its kind asks for (R258, R328). -/
def cacheDetection (n : Nat) (way : Option Nat) (e : Engine) : Engine :=
  let i := takeInjection 0x03 n e
  match way with
  | some w => if w < 24 ∧ !wayDisabled n w i.2 then wayDetection n w i.1 (if wayKind n w i.2 = 3 then refetchWay n w i.2 else i.2) else i.2
  | none => if i.1 then wayDetection n 0 true i.2 else i.2

/-! Completions of reads and writes (R319, R323, R333, R86). -/

/-- SECTOR_READ_DONE (R333). `way`: a cache sector of the row failed its CRC-16 in that way and was read again, and its
task sets RECOMPUTED (R328). -/
def sectorReadDone (id : Nat) (acc : Access) (d : Datum) (way : Option Nat) (e : Engine) : Engine :=
  if !alive e then e
  else match e.rowReqs.find? (fun q => decide (q.id = id)) with
    | none => e
    | some q =>
      let e := cacheDetection (place q.slot q.row e).slice way e
      let e := { e with rowReqs := e.rowReqs.map (fun x => if x.id = id then { x with recomp := x.recomp || way.isSome } else x) }
      settle (doSectorReadDone id acc d e)

/-- HBM_WRITE_DONE: the HBM write of a row completes; its cache sectors become clean (R319). `way`: a sector found bad,
read again from HBM after this write (R328). -/
def doHbmWriteDone (id : Nat) (way : Option Nat) (e : Engine) : Engine :=
  match e.cache.writes.find? (fun w => decide (w.id = id) && !w.evict && w.hbm) with
  | none => e
  | some w =>
    if !alive e then e
    else
      let e := cacheDetection w.slice way e
      let e := forEach w.parts (fun p e => cleanPart w.slice p (storePart p e)) e
      settle (setCache { e.cache with writes := e.cache.writes.map (fun x =>
        if x.id = id then { x with hbm := false, parts := [] } else x) } e)

/-- CRUMB_WRITEBACK_DONE: a write-back completes, and its entry may be reused (R323). -/
def doCrumbWritebackDone (id : Nat) (e : Engine) : Engine :=
  match e.cache.writes.find? (fun w => decide (w.id = id) && w.evict && !w.parts.isEmpty) with
  | none => e
  | some w => if alive e then settle (finishWriteBack w e) else e

/-- INVALIDATION: another slice drops its copy of a REMOTE_CACHE row and acknowledges (R86). -/
def doInvalidation (id n : Nat) (e : Engine) : Engine :=
  match e.cache.writes.find? (fun w => decide (w.id = id) && w.inv.contains n) with
  | none => e
  | some w =>
    if !alive e then e
    else
      let p := place w.slot w.row e
      let bases := reqBases w.slot p e
      let hit (l : Line) : Bool := decide (l.slice = n) && decide (l.kind = .copy) && bases.contains (l.src, l.base)
      setCache { e.cache with
        lines := e.cache.lines.filter (fun l => !hit l)
        writes := e.cache.writes.map (fun x =>
          if x.id = id then { x with inv := x.inv.erase n, invAck := x.invAck ++ [n] } else x) } e

/-- INVALIDATION_ACK: the home slice receives an acknowledgement (R86). -/
def doInvalidationAck (id n : Nat) (e : Engine) : Engine :=
  if !alive e || !(e.cache.writes.any (fun w => decide (w.id = id) && w.invAck.contains n)) then e
  else
    settle (setCache { e.cache with writes := e.cache.writes.map (fun x =>
      if x.id = id then { x with invAck := x.invAck.erase n } else x) } e)

/-! SCATTER_ADD (R335 to R339). -/

/-- One index entry of a SCATTER_ADD. -/
def scatterEntry (r : TaskRef) (t : Task) (j : Job) (k : Nat) (e : Engine) : Engine :=
  let d := t.desc
  let ty := dq d 2 0 3
  let size := dq d 4 32 13 * addSize ty
  let x := addEntry ty (eaAddr (dq d 3 0 64)) (dq d 5 0 32) (listNat (listOf j 0) k 8)
    (listBytes (listOf j 1) (size * k) size) j.slice t.domain (decide (t.priv ≠ 3)) e
  match x.1 with
  | .skip => itemDone r k x.2
  | .range => failAt r k stAddrFault 0x70 x.2
  | .window => failAt r k stPrivilege 0x70 x.2
  | .lost => failAt r k stDataLost 0x70 x.2
  | .ok q c again => itemDone r k (countJob r q c (if again then flagJob r flRecomputed x.2 else x.2))

/-- Entries whose index and values are in, in order. -/
def scatterAdvance (r : TaskRef) : Nat → Engine → Engine
  | 0, e => e
  | fuel + 1, e =>
    match findTask r e, findJob r e with
    | some t, some j =>
      let k := j.aux.headD 0
      let size := dq t.desc 4 32 13 * addSize (dq t.desc 2 0 3)
      let l := listOf j 0
      let v := listOf j 1
      if haltsItems j || decide (j.total ≤ k) then e
      else if l.got.length < 8 * (k + 1) ∨ v.got.length < size * (k + 1) then
        (if listShort l || listShort v then failAt r k stBadDesc (shortDetail (if listShort l then l else v)) e else pump r e)
      else scatterAdvance r fuel (scatterEntry r t j k (updJob r (fun j => { j with aux := [k + 1] }) e))
    | _, _ => e

/-- The body of SCATTER_ADD. -/
def scatterBody (t : Task) (e : Engine) : Engine :=
  let d := t.desc
  let n := dq d 4 0 32
  let size := dq d 4 32 13 * addSize (dq d 2 0 3)
  let lists : List LStream := if n = 0 then [] else
    [{ cursor := dBl d 1, need := 8 * n }, { cursor := dBl d 2, need := size * n }]
  let e := updJob t.ref (fun j => { j with total := n, issued := true, aux := [0], lists }) e
  scatterAdvance t.ref 1 (pump t.ref e)

/-- SCATTER_ADD (R335 to R339). -/
def doScatterAdd (r : TaskRef) (e : Engine) : Engine := startTask 0x0A r scatterCheck scatterBody e

/-! Thermal throttling (R340). -/

/-- STEP as it acts. -/
def thrStep (e : Engine) : Nat :=
  let s := getF .hbmThrCfg Fld.HBM_THR_CFG_STEP e
  if s = 0 then 1 else min s 4

/-- Lmax. -/
def thrMax (e : Engine) : Nat := min (max 1 (getF .hbmThrCfg Fld.HBM_THR_CFG_MAX_LEVEL e)) (14 / thrStep e)

/-- The stack's last report is above its threshold, or could not be read (R340). -/
def thrAbove (s : Nat) (e : Engine) : Bool :=
  getB (.hbmStackSts s) Fld.HBM_STACK_STS_STALE e ||
  decide (getF (.hbmStackSts s) Fld.HBM_STACK_STS_THRESH e < getF (.hbmStackSts s) Fld.HBM_STACK_STS_TEMP e)

/-- The stack's last report is at or below its threshold less HYST. -/
def thrBelow (s : Nat) (e : Engine) : Bool :=
  !getB (.hbmStackSts s) Fld.HBM_STACK_STS_STALE e &&
  decide (getF (.hbmStackSts s) Fld.HBM_STACK_STS_TEMP e + getF .hbmThrCfg Fld.HBM_THR_CFG_HYST e ≤
    getF (.hbmStackSts s) Fld.HBM_STACK_STS_THRESH e)

/-- The throttle LEVEL of a stack changes (R340). -/
def setLevel (s l : Nat) (e : Engine) : Engine :=
  let old := getF (.hbmStackSts s) Fld.HBM_STACK_STS_LEVEL e
  if l = old then e
  else
    let e := setF (.hbmStackSts s) Fld.HBM_STACK_STS_LEVEL l e
    let e := if old = 0 then setF .sts Fld.STS_HBM_THROTTLE 1 e else e
    logEvent { cluster := 2, slice := s / 2, typ := 0x40, ref := s, code := l
               arg := getF (.hbmStackSts s) Fld.HBM_STACK_STS_TEMP e } e

/-- LEVEL rises by one, up to Lmax. -/
def riseLevel (s : Nat) (e : Engine) : Engine :=
  setLevel s (max (getF (.hbmStackSts s) Fld.HBM_STACK_STS_LEVEL e)
    (min (thrMax e) (getF (.hbmStackSts s) Fld.HBM_STACK_STS_LEVEL e + 1))) e

/-- HBM_TEMP_SAMPLE: a report of a stack, none where it cannot be read; the first one above the threshold raises LEVEL. -/
def doHbmTempSample (s : Nat) (report : Option (Nat × Nat)) (e : Engine) : Engine :=
  if !alive e || decide (8 ≤ s) then e
  else
    let was := thrAbove s e
    let e := match report with
      | some (t, th) =>
        setF (.hbmStackSts s) Fld.HBM_STACK_STS_STALE 0
          (setF (.hbmStackSts s) Fld.HBM_STACK_STS_TEMP t (setF (.hbmStackSts s) Fld.HBM_STACK_STS_THRESH th e))
      | none => setF (.hbmStackSts s) Fld.HBM_STACK_STS_STALE 1 e
    if thrAbove s e && !was then riseLevel s e else e

/-- THROTTLE_RISE_PERIOD: UP_MS more above the threshold. -/
def doThrottleRise (s : Nat) (e : Engine) : Engine :=
  if alive e && decide (s < 8) && thrAbove s e then riseLevel s e else e

/-- THROTTLE_FALL_PERIOD: DOWN_MS at or below the threshold less HYST. -/
def doThrottleFall (s : Nat) (e : Engine) : Engine :=
  if alive e && decide (s < 8) && thrBelow s e then setLevel s (getF (.hbmStackSts s) Fld.HBM_STACK_STS_LEVEL e - 1) e else e

/-! The sketch (R256). -/

/-- SKETCH_CLEAR: every counter and LOOKUPS are zero. -/
def doSketchClear (n : Nat) (e : Engine) : Engine :=
  if !alive e then e
  else
    let e := setF (.slcSketchSts n) Fld.SLC_SKETCH_STS_LOOKUPS 0 e
    setHot { e.hot with sketch := e.hot.sketch.filter (fun x => decide (x.1.1 ≠ n)) } e

/-- SKETCH_HALVING: LOOKUPS has reached 2^24. -/
def doSketchHalving (n : Nat) (e : Engine) : Engine :=
  if alive e && decide (2 ^ 24 ≤ getF (.slcSketchSts n) Fld.SLC_SKETCH_STS_LOOKUPS e) then halveSketch n e else e

end Sys2Proof.Machine
end

