-- ==== Sys2Proof/Machine/Contexts.lean ====
section
/-! DEFINITION. CTX_LOAD and the tasks FENCE, NOP and STATS_READ (03_table_contexts.md R63 to R97; 02 R41, R42; 08 R227;
14 R422). -/

namespace Sys2Proof.Machine

/-! Checks of an image (R63 to R88, in the order of R90 and R97). -/

/-- DEVICE, SLICE and reserved bits of a shard-map entry (R81). -/
def entryReserved (x : Nat) : Bool :=
  decide (bitsOf x 7 1 ≠ 0) || decide (bitsOf x 10 6 ≠ 0) || decide (bitsOf x 49 15 ≠ 0)

/-- A reserved bit of an image, or a bit that R63 checks with them, is set (R63, R76, R109). -/
def imageReserved (i : BitVec 1024) : Bool :=
  [(0, 56, 8), (1, 13, 3), (1, 26, 6), (1, 41, 7), (1, 62, 2), (2, 53, 11), (5, 56, 8), (6, 6, 2), (6, 16, 48), (7, 2, 10),
   (8, 32, 32), (9, 37, 27), (10, 37, 27), (12, 42, 22), (13, 0, 64), (14, 0, 64), (15, 0, 64), (11, 0, 6)].any
    (fun f => decide (cq i f.1 f.2.1 f.2.2 ≠ 0)) ||
  (!cComposed i && decide (2 < cFormat i) && (decide (cPraline i % 4096 ≠ 0) || decide (cq i 10 0 37 % 4096 ≠ 0)))

/-- BAD_COMPOSE of a composed image (R76). -/
def composeBad (slot : Nat) (i : BitVec 1024) : Bool :=
  [(0, 0, 40), (0, 40, 8), (0, 51, 1), (0, 53, 1), (1, 16, 10), (1, 32, 9), (1, 48, 14), (2, 0, 40), (2, 40, 8), (2, 48, 5),
   (5, 0, 40), (6, 0, 4), (6, 8, 8), (7, 0, 2), (7, 12, 52), (8, 0, 32), (9, 0, 37), (10, 0, 37)].any
    (fun f => decide (cq i f.1 f.2.1 f.2.2 ≠ 0)) ||
  decide (cComposeM i = 0) || decide (cSubA i = slot) || decide (cSubB i = slot)

/-- BAD_HASH (R64, R75). -/
def hashBad (i : BitVec 1024) : Bool :=
  decide (5 ≤ cHash i) || (decide (cHash i = 2) && decide (cHashKey i % 2 = 0)) ||
  (decide (cHash i = 0) && decide (cRows i < cLimit i)) || (decide (cHash i ≤ 1) && decide (cHashKey i ≠ 0))

/-- BAD_SHARDS (R83). -/
def shardsBad (i : BitVec 1024) (ents : List (BitVec 64)) (e : Engine) : Bool :=
  let n := cShards i
  let sr := cShardRows i
  decide (cRows i = 0) || decide (n = 0) || decide (256 < n) || decide (16384 < cShardFirst i + n) ||
  (if cCyclic i then decide (sr ≠ 0)
   else decide (sr = 0) || decide (sr * n < cRows i) || decide (cRows i ≤ sr * (n - 1))) ||
  ents.any (fun x => (cInterleave i && decide (seSlice x ≠ 0)) || decide (podSize e ≤ seDevice x) ||
    (seAll x && (decide (seDevice x ≠ 0) || decide (n ≠ 1)))) ||
  ents.zipIdx.any (fun x => decide (0 < shardLen i x.2) && !shardFits i (shardLen i x.2) (seBase x.1))

/-- The range holds an entry of another loaded slot (R84). -/
def shardOverlap (slot : Nat) (i : BitVec 1024) (e : Engine) : Bool :=
  e.shards.any (fun x => decide (cShardFirst i ≤ x.1) && decide (x.1 < cShardFirst i + cShards i) &&
    decide (x.2.owner ≠ slot) && (slotOf x.2.owner e).loaded)

/-- BAD_STATE (R88, R227). -/
def stateBad (i : BitVec 1024) (ents : List (BitVec 64)) (e : Engine) : Bool :=
  let tier := cTier i
  let all := ents.any seAll
  let ends (s : Nat) : Nat := cStateBase i + s * cStateStride i * 4096 + shardLen i s * stateRowStride i
  let limit := if tier = 3 then getF .ucieCap Fld.UCIE_CAP_CAPACITY e * 2 ^ 30 else 2 ^ 37
  decide (7 ≤ cRule i) || decide (cClipMode i = 3) || decide (cPriv i = 2) ||
  (!cComposed i && (
    (decide (cRule i ≠ 0) && decide (tier = 0)) ||
    (decide (tier = 2) && (all || ents.any (fun x => (partnerOf (seDevice x) e).isNone))) ||
    (decide (tier = 3) && ents.any (fun x => seAll x || decide (seDevice x = thisDev e)) && !dieAdmitted e) ||
    (decide (tier ≠ 0) && (decide (tier ≠ 3) || dieAdmitted e) &&
      (List.range (cShards i)).any (fun s => decide (0 < shardLen i s) && decide (limit < ends s)))))

/-- The BAD_TABLE detail of an image: the first that applies in the order of R97. -/
def imageDetail (slot : Nat) (i : BitVec 1024) (ents : List (BitVec 64)) (e : Engine) : Option Nat :=
  let comp := cComposed i
  let w := cWidth i
  let minSec := ceilDiv (packedSize (cFormat i) w) 32
  (firstOf [
    (!comp && !fmtValid (cFormat i), 0, 0x12),
    (decide (w < 16) || decide (4096 < w) || (!comp && (decide (cSectors i < minSec) || decide (512 < cSectors i) ||
      decide (cSectors i = 0) || (fmtScaled (cFormat i) && decide (16 < cq i 2 48 5)))), 0, 0x13),
    (hashBad i, 0, 0x14),
    (comp && composeBad slot i, 0, 0x15),
    (!comp && shardsBad i ents e, 0, 0x16),
    (!comp && shardOverlap slot i e, 0, 0x17),
    (!comp && ents.any seAll && decide (cRule i ≠ 0) && !cDense i, 0, 0x18),
    (!comp && (decide (cRows i ≤ cDefRow i) || (decide (cDefKind i = 0) && decide (cDefRow i ≠ 0))), 0, 0x19),
    (stateBad i ents e, 0, 0x1A)]).map (·.2)

/-! Quiet slots (R91, R92). -/

/-- The slot is used by a started persistent task, or holds contributions of a step not yet closed (R92). -/
def slotInUse (slot : Nat) (r : TaskRef) (e : Engine) : Bool :=
  let closing := e.grad.closing.map (·.step)
  e.tasks.any (fun u => decide (u.phase = .running) && decide (u.ref ≠ r) && dPersist u.desc && (slotsOf u e).contains slot) ||
  e.grad.coal.any (fun c => decide (c.table = slot) && decide (some c.step ≠ closing))

/-- The slot is quiet (R91). -/
def slotQuiet (slot : Nat) (r : TaskRef) (e : Engine) : Bool :=
  !(e.tasks.any (fun u => decide (u.phase = .running) && decide (u.ref ≠ r) && (slotsOf u e).contains slot)) &&
  !(e.homeRuns.any (fun h => decide (h.slot = slot))) && !(e.rowReqs.any (fun q => decide (q.slot = slot))) &&
  !(e.upd.waits.any (fun w => decide (w.slot = slot))) &&
  !(e.cache.writes.any (fun w => decide (w.slot = slot) && !w.evict)) &&
  !(e.hot.mcasts.any (fun m => decide (m.table = slot))) &&
  !(e.grad.coal.any (fun c => decide (c.table = slot))) &&
  (match e.grad.closing with
   | none => true
   | some c => !(c.runs.any (fun u => u.left.any (fun x => decide (x.table = slot)))) &&
       !(c.ins.any (fun u => u.queue.any (fun x => decide (x.table = slot)))))

/-! CTX_LOAD (R89 to R93). -/

/-- An earlier fetched CTX_LOAD of the same slot has not ended (R93). -/
def loadBefore (t : Task) (e : Engine) : Bool :=
  e.tasks.any (fun u => decide (dOpcode u.desc = 0x18) && decide (u.ref ≠ t.ref) && decide (dTable u.desc = dTable t.desc) &&
    decide (u.order < t.order) && decide (u.phase ≠ .ended))

/-- The image that a CTX_LOAD reads. -/
def readImage (t : Task) (e : Engine) : BitVec 1024 := BitVec.ofNat 1024 (hostNat (dq t.desc 1 0 64) 128 e)

/-- The shard-map entries that a CTX_LOAD reads; none for a composed table (R89). -/
def readEntries (t : Task) (e : Engine) : List (BitVec 64) :=
  let i := readImage t e
  if cComposed i then []
  else (List.range (cShards i)).map (fun k => BitVec.ofNat 64 (hostNat (dq t.desc 2 0 64 + 8 * k) 8 e))

/-- Step 3 of R90 for the slot's current domain. -/
def domainRefused (t : Task) (e : Engine) : Bool :=
  let c := slotOf (dTable t.desc) e
  c.loaded && decide (cDomain c.img ≠ t.domain) && decide (t.priv ≠ 3)

/-- Steps 1 to 4 of R90: the first failure. -/
def loadCheck (acc : Access) (t : Task) (e : Engine) : Option (Nat × Nat) :=
  let i := readImage t e
  let ents := readEntries t e
  firstOf [
    (decide (acc = .portError) || decide (acc = .badTwice), stAddrFault, 0),
    (imageReserved i || ents.any (fun x => entryReserved x.toNat), stBadTable, 0x02),
    (decide (cPriv i ≠ 2) && decide (privRank t.priv < privRank (cPriv i)), stPrivilege, 0x04),
    (decide (cDomain i ≠ t.domain) && decide (t.priv ≠ 3), stPrivilege, 0x02),
    (domainRefused t e, stPrivilege, 0x02),
    ((imageDetail (dTable t.desc) i ents e).isSome, stBadTable, (imageDetail (dTable t.desc) i ents e).getD 0)]

/-- Step 7 of R90 and what R107, R115, R238, R240 and R321 add: the device forgets all it held of the slot. -/
def forgetSlot (slot : Nat) (e : Engine) : Engine :=
  let e := flushLines (fun l => decide (l.table = slot)) (driftAbort slot e)
  let e := freeReplicas (fun x => decide (x.table = slot)) e
  let e := setHot { e.hot with copied := e.hot.copied.filter (fun x => decide (x.1.1 ≠ slot)) } e
  { e with shards := e.shards.filter (fun x => decide (x.2.owner ≠ slot)) }

/-- A CTX_LOAD or an unload waits for its slot to become quiet, or ends at once (R90 step 5, R92). The image and its
entries are held in the job. -/
def loadWait (held : List Nat) (t : Task) (e : Engine) : Engine :=
  if slotInUse (dTable t.desc) t.ref e then finishTask t.ref stBadTable 0x1B 0 0 0 0 e
  else addJob { newJob t e with aux := held } e

/-- The body of a CTX_LOAD with UNLOAD = 0. -/
def loadBody (acc : Access) (t : Task) (e : Engine) : Engine :=
  match loadCheck acc t e with
  | some (st, dt) =>
    let i := readImage t e
    let ringNo := match t.ref with | .ring r _ => r | _ => 0
    let e := if dt = 0x04 ∧ st = stPrivilege then
        logEvent { cluster := 0, slice := 0, typ := 0x02, ref := ringNo, code := dt, arg := cPriv i + cDomain i * 256 } e
      else e
    finishTask t.ref st dt 0 0 0 0 e
  | none => loadWait ((readImage t e).toNat :: (readEntries t e).map (·.toNat)) t e

/-- The body of a CTX_LOAD with UNLOAD = 1 (R90). -/
def unloadBody (t : Task) (e : Engine) : Engine :=
  if !(slotOf (dTable t.desc) e).loaded then finishTask t.ref stDone 0 0 1 0 0 e
  else if domainRefused t e then finishTask t.ref stPrivilege 0x02 0 0 0 0 e
  else loadWait [] t e

/-- A CTX_LOAD of one kind starts. -/
def startLoad (unload : Bool) (r : TaskRef) (body : Task → Engine → Engine) (e : Engine) : Engine :=
  match findTask r e with
  | none => e
  | some t =>
    if decide (dq t.desc 3 0 1 = 1) != unload || loadBefore t e then e
    else startTask 0x18 r (fun _ _ => none) body e

/-- CTX_LOAD: steps 1 to 5 of R90. `acc`: how the reads of image and shard map end. -/
def doCtxLoad (r : TaskRef) (acc : Access) (e : Engine) : Engine := startLoad false r (loadBody acc) e

/-- CTX_LOAD with UNLOAD = 1 (R90). -/
def doCtxUnload (r : TaskRef) (e : Engine) : Engine := startLoad true r unloadBody e

/-- Steps 6 to 8 of R90 for a held image; an entry range taken by another load meanwhile is refused (R84). -/
def installHeld (t : Task) (held : List Nat) (e : Engine) : Engine :=
  let slot := dTable t.desc
  match held with
  | [] => setSlot slot {} (forgetSlot slot e)
  | img :: ents =>
    let i := BitVec.ofNat 1024 img
    let e := setSlot slot { loaded := true, img := i } (forgetSlot slot e)
    { e with shards := (ents.zipIdx).foldl (fun m x => tput (cShardFirst i + x.2) ⟨slot, BitVec.ofNat 64 x.1⟩ m) e.shards }

/-- CTX_LOAD_INSTALL: the slot is quiet, and steps 6 to 8 of R90 follow. -/
def doCtxLoadInstall (r : TaskRef) (e : Engine) : Engine :=
  match findTask r e, findJob r e with
  | some t, some j =>
    let slot := dTable t.desc
    if !alive e || decide (dOpcode t.desc ≠ 0x18) then e
    else if slotInUse slot r e then finishTask r stBadTable 0x1B 0 0 0 0 (delJob r e)
    else if !slotQuiet slot r e then e
    else
      let i := BitVec.ofNat 1024 (j.aux.headD 0)
      if !j.aux.isEmpty && !cComposed i && shardOverlap slot i e then finishTask r stBadTable 0x17 0 0 0 0 (delJob r e)
      else finishTask r stDone 0 0 1 0 0 (installHeld t j.aux (delJob r e))
  | _, _ => e

/-! FENCE and NOP (R41, R42). -/

/-- FENCE starts and waits (R41). -/
def doFence (r : TaskRef) (e : Engine) : Engine := startTask 0x1E r (fun _ _ => none) (fun _ e => e) e

/-- A task that a FENCE of SCOPE DOMAIN or ENGINE waits for. -/
def fenceWaits (t u : Task) : Bool :=
  let own := match t.ref, u.ref with | .ring a _, .ring b _ => decide (a = b) | _, _ => false
  let scope := dq t.desc 1 0 2
  let near := match u.ref with | .near _ => true | _ => false
  decide (u.ref ≠ t.ref) && !own && !near && decide (u.order < t.order) && !dPersist u.desc &&
  (decide (scope = 2) || (decide (scope = 1) && decide (u.domain = t.domain)))

/-- FENCE_RELEASE: all tasks the FENCE waits for have completed (R41). -/
def doFenceRelease (r : TaskRef) (e : Engine) : Engine :=
  match findTask r e with
  | none => e
  | some t =>
    let turn := match r with
      | .ring n pos => decide ((ringOf n e).cplPos = pos) && (ringOf n e).broken.isNone
      | _ => true
    if alive e && decide (dOpcode t.desc = 0x1E) && decide (t.phase = .running) && turn && !(e.tasks.any (fenceWaits t)) then
      finishTask r stDone 0 0 1 0 0 e
    else e

/-- NOP completes (R42); a descriptor whose OPCODE is not assigned ends at its first start check (R39). -/
def doNop (r : TaskRef) (e : Engine) : Engine :=
  match findTask r e with
  | none => e
  | some t =>
    let op := dOpcode t.desc
    if decide (op = 0x1F) || (opcodes.lookup op).isNone then
      startTask op r (fun _ _ => none) (fun t e => finishTask t.ref stDone 0 0 1 0 0 e) e
    else e

/-! STATS_READ (R422). -/

/-- The start checks of STATS_READ. -/
def statsCheck (t : Task) (e : Engine) : Option (Nat × Nat) :=
  let d := t.desc
  let set := dq d 1 0 1
  (firstOf [
    (decide (dq d 2 0 6 ≠ 0), stBadDesc, 0x65),
    (decide (set = 0) && decide (dq d 1 16 12 ≠ 0), stBadDesc, 0xB0),
    (decide (dq d 1 1 1 = 1) && decide (t.priv = 0), stPrivilege, 0xB0)]).or
  (if set = 1 then slotCheck t (dq d 1 16 12) e else none)

/-- The 128 bytes of a slice's counters; a power-gated slice reads as zeros. -/
def counterBytes (n : Nat) (e : Engine) : List Byte :=
  ((List.range 16).map (fun k =>
    toBytes 8 (if slicePoweredOff n e ∨ k = 15 then 0 else tget 0 (n, k) e.counters))).flatten

/-- The body of STATS_READ; `ok`: the write to OUT succeeds. -/
def statsBody (ok : Bool) (t : Task) (e : Engine) : Engine :=
  let d := t.desc
  let s := dq d 1 16 12
  let c := slotOf s e
  let bytes := if dq d 1 0 1 = 0 then ((List.range 4).map (fun n => counterBytes n e)).flatten
    else toBytes 8 c.regenQ ++ toBytes 8 c.regenC ++ List.replicate 48 0
  let e := if dq d 1 1 1 = 0 then e
    else if dq d 1 0 1 = 0 then { e with counters := [] }
    else setSlot s { c with regenQ := 0, regenC := 0, markQ := 0, markC := 0 } e
  if ok then finishTask t.ref stDone 0 0 1 0 0 (eaWrite (dq d 2 0 64) bytes e)
  else finishTask t.ref stAddrFault 0x11 0 0 0 0 e

/-- STATS_READ (R422). -/
def doStatsRead (r : TaskRef) (ok : Bool) (e : Engine) : Engine := startTask 0x20 r statsCheck (statsBody ok) e

end Sys2Proof.Machine
end

