-- ==== Sys2Proof/Machine/Power.lean ====
section
/-! DEFINITION. Resets, start-up, clocks, power states, the power cap, telemetry and the package pins
(15_bring_up_clocks_power.md). -/

namespace Sys2Proof.Machine

/-- STATE of SHD_INIT_STS (R429). -/
def initState (e : Engine) : Nat := getF .initSts Fld.INIT_STS_STATE e

/-- The engine with its power part replaced. -/
def setPower (p : Power) (e : Engine) : Engine := { e with power := p }

/-! Time (R384, R428, R429). -/

/-- SHD_TIME counts: no reset in progress and PLL of base die 0 locked (R424, R428; DEDUCED, notes/assumptions/32.md). -/
def timeRuns (e : Engine) : Bool :=
  e.inReset.isNone && decide (bitsOf (getF .clkCfg Fld.CLK_CFG_LOCKED e) 0 1 = 1)

/-- No task, near-path instruction, unfetched position, closing step, message, write-back, copy or sweep is open (R434). -/
def quietNow (e : Engine) : Bool :=
  e.tasks.isEmpty && e.near.ins.all (·.retired) && !getB .stepSts Fld.STEP_STS_CLOSING e &&
  e.front.rings.all (fun r => decide (r.2.state ≠ .running) || decide (r.2.nextPos = r.2.pLast)) &&
  e.net.unacked.isEmpty && e.net.heldIn.isEmpty && e.net.waits.isEmpty &&
  e.cache.writes.isEmpty && e.hot.migs.isEmpty && e.upd.drifts.isEmpty && e.upd.waits.isEmpty && e.rowReqs.isEmpty

/-- The time advances by one period of CLK_TS, which the slew of R384 lengthens or shortens, never below zero
(notes/assumptions/33.md). -/
def slewTick (e : Engine) : Engine :=
  let k : Int := Int.ofNat (min e.net.rate e.net.slew.natAbs)
  let d : Int := max (-32) (if e.net.slew < 0 then -k else k)
  let f := (Int.ofNat e.net.frac + 32 + d).toNat
  setReg .time (getReg .time e + BitVec.ofNat 64 (f / 32))
    { e with net := { e.net with frac := f % 32, slew := e.net.slew - d } }

/-- One period of CLK_TS: what the block does while no command waits (DESIGN CHOICE, notes/assumptions/5.md). -/
def tick (e : Engine) : Engine :=
  if e.inReset.isSome then e
  else
    let up := e.power.up + 1
    let e := setPower { e.power with up } e
    let e := setF .initSts Fld.INIT_STS_ELAPSED (min (up * 4 / 375) (2 ^ 32 - 1)) e
    let e := if timeRuns e then slewTick e else e
    if quietNow e then e else setPower { e.power with quiet := now e } e

/-! IDLE (R434, R435). -/

/-- Work reaches the engine: it leaves IDLE, and the quiet time starts again. -/
def touch (e : Engine) : Engine :=
  let e := setPower { e.power with quiet := now e } e
  if getB .pwrSts Fld.PWR_STS_IDLE e then setF .pwrSts Fld.PWR_STS_IDLE 0 e else e

/-- IDLE_ENTRY. -/
def doIdleEntry (e : Engine) : Engine :=
  if alive e && getB .pwrCtl Fld.PWR_CTL_IDLE_EN e && getB .ctl Fld.CTL_ENABLE e && quietNow e &&
     elapsedUs e.power.quiet (max 1 (getF .pwrCtl Fld.PWR_CTL_IDLE_US e)) e
  then setF .pwrSts Fld.PWR_STS_IDLE 1 e else e

/-- IDLE_WAKE. -/
def doIdleWake (e : Engine) : Engine :=
  if e.inReset.isNone && getB .pwrSts Fld.PWR_STS_IDLE e then touch e else e

/-! Pins (R443 to R445). -/

/-- ALIVE_HALF_PERIOD: SHD_ALIVE toggles once die 0 is locked, unless it is switched off or the engine is in the fault
state (R444, R445). -/
def doAliveHalf (e : Engine) : Engine :=
  if alive e && timeRuns e then
    { e with pinAlive := if getB .aliveCfg Fld.ALIVE_CFG_ENABLE e then (if e.pinAlive = .high then .low else .high) else .low }
  else e

/-! Resets (R426 to R428). -/

/-- A reset in progress: registers and state at their reset values; the memories outside the engine keep their contents. -/
def resetTo (k : ResetKind) (e : Engine) : Engine :=
  let old := getF .nearSts Fld.NEAR_STS_EPOCH e
  let f := takeFree e
  let epoch := if k = .powerOn then f.1.toNat % 2 ^ 16 else (old + 1) % 2 ^ 16
  let e := if k = .powerOn then f.2 else e
  let fresh : Engine := { mem := e.mem, freeCtr := e.freeCtr, inReset := some k }
  setF .nearSts Fld.NEAR_STS_EPOCH epoch fresh

/-- RESET_ENGINE. -/
def doResetEngine (e : Engine) : Engine := if e.inReset.isSome then e else resetTo .engine e

/-- RESET_FULL. -/
def doResetFull (e : Engine) : Engine := if e.inReset.isSome then e else resetTo .full e

/-- POWER_ON_RESET. -/
def doPowerOn (e : Engine) : Engine := resetTo .powerOn e

/-- Start-up enters a step; its work and its timeout begin. -/
def enterStep (st : Nat) (e : Engine) : Engine :=
  let e := setPower { e.power with stepAt := e.power.up, done := [] } (setF .initSts Fld.INIT_STS_STATE st e)
  let e := if st = 7 then
      { e with safe := { e.safe with latent := now e, rotate := (List.range 4).map (fun n => (n, 0, now e)) } } else e
  driveAlert e

/-- RESET_RELEASE: start-up enters PLL_LOCK, or D2D_SELECT after an ENGINE reset, whose PLLs stayed locked (R428). -/
def doResetRelease (e : Engine) : Engine :=
  match e.inReset with
  | none => e
  | some k =>
    let e := { e with inReset := none, pinFault := .low, pinAlive := .low }
    if k = .engine then enterStep 2 (setF .clkCfg Fld.CLK_CFG_LOCKED 15 e) else enterStep 1 e

/-! Start-up (R429 to R431, R462). -/

/-- A slice has failed a step (FAIL_SLICES). -/
def sliceFailed (n : Nat) (e : Engine) : Bool := decide (bitsOf (getF .initSts Fld.INIT_STS_FAIL_SLICES e) n 1 = 1)

/-- A slice fails a step; FAIL_CAUSE is that of the first failure. -/
def failSlice (n cause : Nat) (e : Engine) : Engine :=
  let first := decide (getF .initSts Fld.INIT_STS_FAIL_SLICES e = 0)
  let e := setBit .initSts Fld.INIT_STS_FAIL_SLICES n true e
  if first then setF .initSts Fld.INIT_STS_FAIL_CAUSE cause e else e

/-- The step that follows in start-up. -/
def stepAfter (st : Nat) : Nat := match st with | 1 => 2 | 2 => 3 | 4 => 5 | 5 => 6 | _ => 7

/-- The edges that join two slices (the section on the base die). -/
def edgesOf : List (Nat × Nat) := [(0, 1), (0, 2), (1, 3), (2, 3)]

/-- Edge x is in service. -/
def edgeUp (x : Nat) (e : Engine) : Bool := decide (0 < getF (.d2dEdgeSts x) Fld.D2D_EDGE_STS_BUNDLES_UP e)

/-- The slices that reach base die 0 over edges in service (R367). -/
def dieReached (e : Engine) : List Nat :=
  (List.range 4).foldl (fun s _ =>
    (edgesOf.zipIdx).foldl (fun s x =>
      if !edgeUp x.2 e then s
      else if s.contains x.1.1 && !s.contains x.1.2 then s ++ [x.1.2]
      else if s.contains x.1.2 && !s.contains x.1.1 then s ++ [x.1.1] else s) s) [0]

/-- The running step ends once every slice has finished or failed it (R429). -/
def endStep (e : Engine) : Engine :=
  let st := initState e
  let finished := decide (1 ≤ st ∧ st ≤ 6 ∧ st ≠ 3) && (List.range 4).all (fun n => e.power.done.contains n || sliceFailed n e)
  if !finished then e
  else
    -- a slice that the selection leaves without a path to die 0 fails step 2
    let e := if st = 2 then forEach (List.range 4) (fun n e =>
        if sliceFailed n e || (dieReached e).contains n then e else failSlice n 2 e) e else e
    if (List.range 4).any (fun n => sliceFailed n e && !slicePoweredOff n e)
    then setPower { e.power with failStep := st } (enterStep 15 e)
    else enterStep (stepAfter st) e

/-- Every field of a slice's own registers, in the slice block and in the log block (R450, R456, R457). -/
def regSlice : Reg → Option Nat
  | .slcProfCtl n _ | .slcProfHome n _ | .slcProfScratch n _ | .slcProfBias n _ | .slcMoeCtl n _ | .slcMoeSlots n _
  | .slcMoeCount n _ | .slcGradSpill n | .slcGradSort n | .slcGradSts n | .slcDriftCtl n | .slcDriftFirst n
  | .slcDriftCount n | .slcDriftSts n | .slcPark n | .slcUpdCfg n | .slcUpdSts n | .slcSketchCfg n | .slcSketchRpt n
  | .slcSketchSts n | .slcTruffleBudget n | .slcReplSts n | .slcSketchClr n | .slcStreamCfg n | .slcStreamSts n
  | .slcQueueSts n | .slcWdog n | .slcWdogSts n | .slcWayCfg n | .slcWaySts n | .slcCacheCnt n | .slcSts n | .slcCtl n
  | .slcCoreMap n _ | .slcSpareSts n | .logHost n | .logPiAddr n | .logCi n | .logSts n | .logPi n => some n
  | _ => none

/-- A slice without power keeps nothing (R433): its registers, cache, coalesced rows (whose steps are then LOST, R397),
replicas, sketch counters, tiles, counters and log. -/
def loseSlice (n : Nat) (e : Engine) : Engine :=
  let e := forEach (e.grad.coal.filter (fun c => decide (c.slice = n))) (fun c e => raiseStep c.step sfLost e) e
  let other (k : Nat) : Bool := decide (k ≠ n)
  { e with
    regs := e.regs.filter (fun r => decide (regSlice r.1 ≠ some n))
    lostRegs := e.lostRegs.filter (fun r => decide (regSlice r ≠ some n))
    tiles := e.tiles.filter (fun t => other t.1.1)
    counters := e.counters.filter (fun c => other c.1.1)
    logs := e.logs.filter (fun l => other l.1)
    grad := { e.grad with coal := e.grad.coal.filter (fun c => other c.slice) }
    cache := { e.cache with
      lines := e.cache.lines.filter (fun l => other l.slice), crumb := e.cache.crumb.filter (fun c => other c.line.slice)
      ways := e.cache.ways.filter (fun w => other w.1.1), reconf := e.cache.reconf.filter (fun r => other r.1) }
    upd := { e.upd with drifts := e.upd.drifts.filter (fun d => other d.slice) }
    hot := { e.hot with sketch := e.hot.sketch.filter (fun s => other s.1.1)
                        replicas := e.hot.replicas.filter (fun r => other r.slice) }
    safe := { e.safe with
      detects := e.safe.detects.filter (fun d => other d.1), failed := e.safe.failed.filter (fun d => other d.1)
      mismatch := e.safe.mismatch.filter (fun d => other d.1.1), autoOff := e.safe.autoOff.filter (fun d => other d.1)
      moving := e.safe.moving.filter (fun d => other d.1), testing := e.safe.testing.filter other } }

/-- A slice is gated: STATE reads POWER_OFF (R436). -/
def gateSlice (n : Nat) (e : Engine) : Engine :=
  let e := loseSlice n e
  let e := setBit .clkCfg Fld.CLK_CFG_LOCKED n false e
  let e := setPower { e.power with gating := e.power.gating.erase n, ups := e.power.ups.filter (fun u => decide (u.1 ≠ n)) } e
  enterSliceState n 3 0 false (setBit .pwrSlice Fld.PWR_SLICE_OFF (n - 1) true e)

/-- The step of a slice that powers up (R436). -/
def upStep (n : Nat) (e : Engine) : Nat := (tget (0, 0) n e.power.ups).1

/-- A slice that powers up fails: it returns to POWER_OFF (R436). -/
def upFail (n cause : Nat) (e : Engine) : Engine :=
  let e := setF .initSts Fld.INIT_STS_FAIL_CAUSE cause (setBit .initSts Fld.INIT_STS_FAIL_SLICES n true e)
  gateSlice n e

/-- A slice that powers up has ended a step: the next one, or OFFLINE after step 6 (R436). -/
def upDone (n : Nat) (e : Engine) : Engine :=
  let st := upStep n e
  if st = 2 ∧ !(dieReached e).contains n then upFail n 2 e
  else
    let next := match st with | 1 => 2 | 2 => 4 | 4 => 5 | 5 => 6 | _ => 0
    if next ≠ 0 then setPower { e.power with ups := tput n (next, e.power.up) e.power.ups } e
    else
      let e := setPower { e.power with ups := e.power.ups.filter (fun u => decide (u.1 ≠ n)) } e
      let e := setBit .initSts Fld.INIT_STS_FAIL_SLICES n false e
      let si := (standInOf n e).getD 0
      let e := setF (.slcSts n) Fld.SLC_STS_STAND_IN si (setF (.slcSts n) Fld.SLC_STS_STATE 2 e)
      logEvent { cluster := 7, slice := n, typ := 0x06, ref := 2, arg := si } (setF (.slcCtl n) Fld.SLC_CTL_OFFLINE 1 e)

/-- A slice runs a step now: in the engine's start-up, or while it powers up. -/
def inStep (st n : Nat) (e : Engine) : Bool :=
  alive e && decide (n < 4) &&
  ((decide (initState e = st) && !e.power.done.contains n && !sliceFailed n e) || decide (upStep n e = st))

/-- A slice has finished a step. -/
def finishStep (n : Nat) (e : Engine) : Engine :=
  if upStep n e ≠ 0 then upDone n e else endStep (setPower { e.power with done := e.power.done ++ [n] } e)

/-- A slice has failed a step. -/
def breakStep (n cause : Nat) (e : Engine) : Engine :=
  if upStep n e ≠ 0 then upFail n cause e else endStep (failSlice n cause e)

/-- PLL_LOCK_DONE: the PLL of base die n has locked after `us` µs. -/
def doPllLock (n us : Nat) (e : Engine) : Engine :=
  if !inStep 1 n e then e
  else
    let e := setBit .clkCfg Fld.CLK_CFG_LOCKED n true e
    finishStep n (setF .clkCfg Fld.CLK_CFG_LOCK_TIME (min (max us (getF .clkCfg Fld.CLK_CFG_LOCK_TIME e)) 65535) e)

/-- What the lane selection of an edge found: bundles in service, spare lanes used, lanes that differ from the fuses. -/
def noteEdge (x up spares diff : Nat) (e : Engine) : Engine :=
  let up := min up 16
  let r := Reg.d2dEdgeSts x
  let e := setF r Fld.D2D_EDGE_STS_UNREPAIRED (16 - up) (setF r Fld.D2D_EDGE_STS_BUNDLES_UP up e)
  let e := setF r Fld.D2D_EDGE_STS_FUSE_DIFF (min diff 255) (setF r Fld.D2D_EDGE_STS_SPARES_USED (min spares 128) e)
  setBit .d2dPath Fld.D2D_PATH_EDGE_DOWN x (decide (up = 0)) e

/-- D2D_SELECT_DONE: the adapters of slice n have selected their lanes (R367). -/
def doD2dSelect (n : Nat) (edges : List (Nat × Nat × Nat × Nat)) (e : Engine) : Engine :=
  if !inStep 2 n e then e
  else
    let mine := edges.filter (fun x => match edgesOf[x.1]? with
      | some p => decide (p.1 = n) || decide (p.2 = n)
      | none => false)
    finishStep n (forEach mine (fun x e => noteEdge x.1 x.2.1 x.2.2.1 x.2.2.2 e) e)

/-- TRAIN: training starts in WAIT_TRAIN; the bit is clear again as step 4 begins (R429, R446). -/
def doTrain (e : Engine) : Engine := if alive e && decide (initState e = 3) then enterStep 4 e else e

/-- Training leaves a stack's contents undefined: as if nothing had written it (R427; notes/assumptions/1.md). -/
def blankHbm (n : Nat) (e : Engine) : Engine :=
  let mine (a : Nat) : Bool := decide (n * 2 ^ 37 ≤ a) && decide (a < (n + 1) * 2 ^ 37)
  setMem { e.mem with hbm := e.mem.hbm.filter (fun c => !mine c.1), hbmSide := e.mem.hbmSide.filter (fun c => !mine (32 * c.1)) } e

/-- HBM_TRAINING_DONE of slice n (R341, R371, R429): its two stacks (spares used, unrepaired), its four ports (up, lanes,
peer) and, on slice 3 with the UCIe port enabled, the link (rate, lanes repaired) with the die's capability (R370). -/
def doHbmTraining (n : Nat) (trained : List (Nat × Bool)) (ports : List (Bool × Nat × Nat))
    (link : Option (Nat × Nat × Option (List Byte))) (e : Engine) : Engine :=
  if !inStep 4 n e then e
  else
    let e := blankHbm n e
    let e := forEach ((trained.take 2).zipIdx) (fun s e =>
      let r := Reg.hbmStackSts (2 * n + s.2)
      setF r Fld.HBM_STACK_STS_TRAINED (b2n (!s.1.2)) (setF r Fld.HBM_STACK_STS_UNREPAIRED (b2n s.1.2)
        (setF r Fld.HBM_STACK_STS_SPARES_USED (min s.1.1 255) e))) e
    let e := forEach ((ports.take 4).zipIdx) (fun p e =>
      let r := Reg.nlPortSts (4 * n + p.2)
      setF r Fld.NL_PORT_STS_UP (b2n p.1.1) (setF r Fld.NL_PORT_STS_LANES_UP (p.1.2.1 % 64)
        (setF r Fld.NL_PORT_STS_PEER_DEV (p.1.2.2 % 64) e))) e
    let e := if n = 3 ∧ getB .ucieCtl Fld.UCIE_CTL_ENABLE e then
        match link with
        | some l =>
          let e := setF .ucieSts Fld.UCIE_STS_RATE (l.1 % 3) (setF .ucieSts Fld.UCIE_STS_LINK_UP 1 e)
          setMem { e.mem with expCap := l.2.2 } (setF .ucieSts Fld.UCIE_STS_LANES_REPAIRED (min l.2.1 255) e)
        | none => setF .ucieSts Fld.UCIE_STS_LINK_UP 0 e
      else e
    if trained.any (·.2) then breakStep n 3 e else finishStep n e

/-- CACHE_TEST_DONE of slice n: failing ways are disabled; fewer than 16 passing ways fail the slice (R429, R417). -/
def doCacheTest (n : Nat) (ways : List Nat) (e : Engine) : Engine :=
  if !inStep 5 n e then e
  else
    let bad := (List.range 24).filter (fun w => ways.contains w)
    let e := forEach bad (fun w e => logEvent { cluster := 2, slice := n, typ := 0x13, ref := w, code := 1 }
      (setBit (.slcWaySts n) Fld.SLC_WAY_STS_DISABLED w true e)) e
    if 24 - bad.length < 16 then breakStep n 5 e else finishStep n e

/-- The assignment of cores to positions and spares (R462). -/
def assignCores (n : Nat) (pass : List Nat) (e : Engine) : Engine :=
  let e := forEach ((pass.take 64).zipIdx) (fun x e => setCore n x.2 x.1 e) e
  let sp := Reg.slcSpareSts n
  let rest := pass.drop 64
  let e := setF sp Fld.SLC_SPARE_STS_STANDBY_VALID (b2n (!rest.isEmpty)) (setF sp Fld.SLC_SPARE_STS_STANDBY (rest.headD 0) e)
  let e := setF sp Fld.SLC_SPARE_STS_TEST_VALID (b2n (decide (2 ≤ rest.length))) (setF sp Fld.SLC_SPARE_STS_TEST (rest.getD 1 0) e)
  setF (.slcSts n) Fld.SLC_STS_POSITIONS 64 e

/-- CORE_TEST_DONE of slice n with the cores that failed (R429, R462). -/
def doCoreTest (n : Nat) (cores : List Nat) (e : Engine) : Engine :=
  if !inStep 6 n e then e
  else
    let bad := (List.range 66).filter (fun c => cores.contains c)
    let pass := (List.range 66).filter (fun c => !cores.contains c)
    let sp := Reg.slcSpareSts n
    let e := setF sp Fld.SLC_SPARE_STS_FAILED (min bad.length 3) e
    let e := match bad.getLast? with | some c => setF sp Fld.SLC_SPARE_STS_LAST_FAILED c e | none => e
    if 2 < bad.length then breakStep n 6 e
    else
      let e := assignCores n pass e
      let e := forEach bad.zipIdx (fun x e =>
        let e := { e with safe := { e.safe with failed := (n, x.1) :: e.safe.failed } }
        setAlert Fld.FAULT_STS_SPARE_USED
          (logEvent { cluster := 7, slice := n, typ := 0x05, ref := x.1, arg := x.2 + 1 } e)) e
      finishStep n e

/-- The timeout of a start-up step in µs, and the cause of a slice that exceeds it (R429). -/
def stepLimit (st : Nat) : Option (Nat × Nat) :=
  match st with
  | 1 => some (200, 1) | 2 => some (1000, 2) | 4 => some (25000, 4) | 5 => some (4000, 7) | 6 => some (1000, 7)
  | _ => none

/-- STARTUP_STEP_TIMEOUT: of the engine's start-up, or of one slice that powers up (R429, R436). -/
def doStepTimeout (n : Option Nat) (e : Engine) : Engine :=
  let late (t0 us : Nat) : Bool := decide (us * 375 ≤ (e.power.up - t0) * 4)
  if !alive e then e
  else match n with
    | some n =>
      let u := tget (0, 0) n e.power.ups
      match stepLimit u.1 with
      | some l => if u.1 ≠ 0 ∧ late u.2 l.1 then upFail n l.2 e else e
      | none => e
    | none =>
      match stepLimit (initState e) with
      | some l =>
        if late e.power.stepAt l.1 then
          endStep (forEach (List.range 4) (fun n e =>
            if e.power.done.contains n || sliceFailed n e then e else failSlice n l.2 e) e)
        else e
      | none => e

/-- CONTINUE in FAILED: the failed slices, whose OFF bits are set, are gated, and start-up goes on after the step that
failed (R430). -/
def doContinue (e : Engine) : Engine :=
  let bad := (List.range 4).filter (fun n => sliceFailed n e)
  let offs := getF .pwrSlice Fld.PWR_SLICE_OFF e
  if !alive e || decide (initState e ≠ 15) || bad.contains 0 || bad.any (fun n => decide (bitsOf offs (n - 1) 1 = 0)) then e
  else
    let st := e.power.failStep
    enterStep (stepAfter st) (forEach (bad.filter (fun n => !slicePoweredOff n e)) gateSlice e)

/-- Fetching resumes: the producer indices recorded meanwhile are judged (R36, R453). -/
def resumeFetch (e : Engine) : Engine :=
  if enabled e then
    forEach ((e.front.rings.filter (fun q => decide (q.2.state = .running) && q.2.broken.isNone)).map (·.1)) judgeRecorded e
  else e

/-- ENABLE_SET: it takes effect in READY, or while ENABLE is 1 already; SHD_FAULT_N goes high (R431, R444). -/
def doEnableSet (e : Engine) : Engine :=
  if e.inReset.isSome then e
  else if decide (initState e = 7) || getB .ctl Fld.CTL_ENABLE e then
    let e := resumeFetch (setF .ctl Fld.CTL_ENABLE 1 e)
    if inFault e then e else driveAlert { e with pinFault := .high }
  else e

/-- ENABLE_CLEAR (R453). -/
def doEnableClear (e : Engine) : Engine := if e.inReset.isSome then e else setF .ctl Fld.CTL_ENABLE 0 e

/-! Gated slices (R436, R450). -/

/-- SLICE_POWER_OFF: a write of 1 to an OFF bit. In FAILED the bit of a failed slice waits for CONTINUE (R430). -/
def doSlicePowerOff (n : Nat) (e : Engine) : Engine :=
  if e.inReset.isSome || decide (n = 0) || decide (3 < n) then e
  else if initState e = 15 then
    if sliceFailed n e then setBit .pwrSlice Fld.PWR_SLICE_OFF (n - 1) true e else e
  else if decide (getF (.slcSts n) Fld.SLC_STS_STATE e ≠ 2) || getB .stepSts Fld.STEP_STS_CLOSING e || e.power.gating.contains n then e
  else
    let e := setBit .pwrSlice Fld.PWR_SLICE_OFF (n - 1) true e
    let e := setPower { e.power with gating := e.power.gating ++ [n] } e
    flushLines (fun l => decide (l.slice = n)) e

/-- SLICE_GATE_DONE: the write-back has finished and traffic has stopped (R436). -/
def doSliceGateDone (n : Nat) (e : Engine) : Engine :=
  if !alive e || !e.power.gating.contains n || e.cache.writes.any (fun w => decide (w.slice = n)) then e
  else gateSlice n e

/-- SLICE_POWER_UP: a write of 0 to an OFF bit; the slice runs steps 1, 2, 4, 5 and 6 (R436). -/
def doSlicePowerUp (n : Nat) (e : Engine) : Engine :=
  if e.inReset.isSome || decide (n = 0) || decide (3 < n) then e
  else if slicePoweredOff n e && decide (upStep n e = 0) && alive e && decide (initState e = 7) then
    setPower { e.power with ups := tput n (1, e.power.up) e.power.ups } (setBit .pwrSlice Fld.PWR_SLICE_OFF (n - 1) false e)
  else if initState e = 15 then setBit .pwrSlice Fld.PWR_SLICE_OFF (n - 1) false e
  else e

/-! Cooling profiles, the power cap and telemetry (R438 to R442). -/

/-- A profile's CAP, RAMP, TJ_MAX, STEP and MAX_LEVEL. -/
def profileVals (p : Nat) : Option (Nat × Nat × Nat × Nat × Nat) :=
  match p with
  | 0 => some (180, 20, 95, 3, 4)
  | 1 => some (250, 40, 105, 2, 7)
  | 2 => some (250, 40, 100, 1, 7)
  | _ => none

/-- PROFILE_SELECT. -/
def doProfile (p : Nat) (e : Engine) : Engine :=
  if e.inReset.isSome then e
  else
    let e := setF .pwrProfile Fld.PWR_PROFILE_PROFILE (p % 4) e
    match profileVals (p % 4) with
    | none => e
    | some (cap, ramp, tj, st, lv) =>
      let e := setF .pwrCap Fld.PWR_CAP_CAP cap (setF .pwrCap Fld.PWR_CAP_RAMP ramp (setF .pwrCap Fld.PWR_CAP_TJ_MAX tj e))
      setF .hbmThrCfg Fld.HBM_THR_CFG_STEP st (setF .hbmThrCfg Fld.HBM_THR_CFG_MAX_LEVEL lv e)

/-- The cap in force in 0.1 W: 60 to 250 W (R446). -/
def capNow (e : Engine) : Nat := 10 * min 250 (max 60 (getF .pwrCap Fld.PWR_CAP_CAP e))

/-- POWER_CAP_COMPARE (R439). -/
def doCapCompare (e : Engine) : Engine :=
  let l := getF .pwrSts Fld.PWR_STS_LEVEL e
  let hot := decide (getF .pwrCap Fld.PWR_CAP_TJ_MAX e < getF .pwrSts Fld.PWR_STS_TJ e)
  if alive e && (decide (capNow e < getF .pwrSts Fld.PWR_STS_POWER e) || hot) && decide (l < 8) then
    let e := if l = 0 then incF .pwrSts Fld.PWR_STS_CAP_EVENTS 1 e else e
    setF .pwrSts Fld.PWR_STS_LEVEL (l + 1) e
  else e

/-- POWER_LEVEL_FALL (R439). -/
def doLevelFall (e : Engine) : Engine :=
  let l := getF .pwrSts Fld.PWR_STS_LEVEL e
  let p := getF .pwrSts Fld.PWR_STS_POWER e
  if alive e && decide (0 < l) && decide (p * (17 - l) ≤ capNow e * (16 - l)) &&
     decide (getF .pwrSts Fld.PWR_STS_TJ e + 5 ≤ getF .pwrCap Fld.PWR_CAP_TJ_MAX e)
  then setF .pwrSts Fld.PWR_STS_LEVEL (l - 1) e else e

/-- TELEMETRY_SAMPLE: voltage in mV, current in 0.1 A and temperature of each rail, none for a rail that cannot be read.
Rail power and the average are rounded down to 0.1 W (R441; DESIGN CHOICE, notes/assumptions/34.md). -/
def doTelemetry (rails : List (Option (Nat × Nat × Nat))) (e : Engine) : Engine :=
  if e.inReset.isSome then e
  else
    let e := forEach ((rails.take 4).zipIdx) (fun x e =>
      let r := Reg.pwrTelem x.2
      match x.1 with
      | none => setF r Fld.PWR_TELEM_VALID 0 e
      | some (v, i, t) =>
        setF r Fld.PWR_TELEM_VOLT (min v 65535) (setF r Fld.PWR_TELEM_CURR (min i 65535)
          (setF r Fld.PWR_TELEM_POWER (min (v * i / 1000) 65535) (setF r Fld.PWR_TELEM_TEMP (min t 255)
            (setF r Fld.PWR_TELEM_VALID 1 e))))) e
    let sum := ((List.range 4).map (fun d => getF (.pwrTelem d) Fld.PWR_TELEM_POWER e)).foldl (· + ·) 0
    let sums := (sum :: e.power.sums).take 10
    let e := setPower { e.power with sums } e
    let e := setF .pwrSts Fld.PWR_STS_POWER (min (sums.foldl (· + ·) 0 / sums.length) 65535) e
    setF .pwrSts Fld.PWR_STS_TJ (((List.range 4).map (fun d => getF (.pwrTelem d) Fld.PWR_TELEM_TEMP e)).foldl max 0) e

/-! Monitors (R425, R442). -/

/-- CLOCK_MONITOR_TRIP on a die; `lost`: its PLL is out of lock. -/
def doClockTrip (d : Nat) (lost : Bool) (e : Engine) : Engine :=
  if e.inReset.isSome || decide (3 < d) then e
  else
    let e := setBit .clkCfg Fld.CLK_CFG_CLK_FAULT d true e
    let e := if lost then setBit .clkCfg Fld.CLK_CFG_LOCKED d false e else e
    enterFault 0x13 d false false e

/-- RAIL_MONITOR_TRIP on a die; the rail of base die 0 holds the engine in power-on reset (R426, R442). -/
def doRailTrip (d : Nat) (e : Engine) : Engine :=
  if d = 0 then resetTo .powerOn e
  else if e.inReset.isSome || decide (3 < d) then e
  else enterFault 0x14 d false false e

end Sys2Proof.Machine
end

