-- ==== Sys2Proof/Machine/Integrity.lean ====
section
/-! DEFINITION. Spares, offline slices, latent tests and fault injection (14_integrity_recovery_log.md R401 to R412). -/

namespace Sys2Proof.Machine

/-! Position moves and rotation (R14, R406, R407). -/

/-- A task uses the position now: a pooling job with open bags there, or a home run in its tiles (R14). -/
def posBusy (n pos : Nat) (e : Engine) : Bool :=
  e.jobs.any (fun j => match j.pool with
    | some p => decide (poolSlice j.slice e = n) && decide (p.cfg.pos ≤ pos) && decide (pos < p.cfg.pos + max 1 p.cfg.posCount) &&
        !p.bags.isEmpty
    | none => false) ||
  e.homeRuns.any (fun h => decide (h.at_.1 = n) && decide (h.at_.2.1 = pos) && !h.held)

/-- The position moves onto the standby spare, with its tiles; `code`: 0 rotation, 1 failure. -/
def movePosition (n pos code : Nat) (e : Engine) : Engine :=
  let sp := Reg.slcSpareSts n
  let old := coreAt n pos e
  let new := getF sp Fld.SLC_SPARE_STS_STANDBY e
  let e := { e with safe := { e.safe with moving := e.safe.moving.erase (n, pos) } }
  let e := setF sp Fld.SLC_SPARE_STS_STANDBY_VALID 0 (setCore n pos new e)
  let e := promoteTest n e
  let e := if code = 0 then
      let e := { e with safe := { e.safe with testing := n :: e.safe.testing.erase n } }
      let e := setF sp Fld.SLC_SPARE_STS_TEST old (setF sp Fld.SLC_SPARE_STS_TEST_VALID 1 e)
      incF sp Fld.SLC_SPARE_STS_ROTATIONS 1 e
    else e
  logEvent { cluster := 7, slice := n, typ := 0x04, ref := pos, code, arg := old + new * 256 } e

/-- POSITION_MOVE: at a task boundary a position moves if its core has failed or a rotation waits for it (R14, R406, R407). -/
def doPositionMove (n pos : Nat) (e : Engine) : Engine :=
  if !alive e || decide (3 < n) || decide (63 < pos) || !hasStandby n e || posBusy n pos e then e
  else if e.safe.failed.contains (n, coreAt n pos e) then movePosition n pos 1 e
  else if e.safe.moving.contains (n, pos) then movePosition n pos 0 e
  else e

/-- SPARE_ROTATION: every ROTATE_MS the next position in cyclic order moves onto the standby spare, at once or at its next
task boundary (R406). -/
def doSpareRotation (n : Nat) (e : Engine) : Engine :=
  let sp := Reg.slcSpareSts n
  let last := tget (0, 0) n e.safe.rotate
  let ms := max 1 (getF .safeCfg Fld.SAFE_CFG_ROTATE_MS e)
  let ready := alive e && decide (n < 4) && decide (initState e = 7) && getB .safeCfg Fld.SAFE_CFG_ROTATE_EN e &&
    hasStandby n e && getB sp Fld.SLC_SPARE_STS_TEST_VALID e && !e.safe.testing.contains n &&
    !e.safe.moving.any (fun m => decide (m.1 = n)) && !slicePoweredOff n e && elapsedUs last.2 (1000 * ms) e
  if !ready then e
  else
    let e := touch { e with safe := { e.safe with rotate := tput n ((last.1 + 1) % 64, now e) e.safe.rotate
                                                  moving := e.safe.moving ++ [(n, last.1)] } }
    doPositionMove n last.1 e

/-- CORE_SELF_TEST_DONE of the test spare (R406, R407). -/
def doCoreSelfTest (n : Nat) (ok : Bool) (e : Engine) : Engine :=
  let sp := Reg.slcSpareSts n
  if !alive e || decide (3 < n) || !getB sp Fld.SLC_SPARE_STS_TEST_VALID e then e
  else
    let e := { e with safe := { e.safe with testing := e.safe.testing.erase n } }
    if ok then promoteTest n e else failCore n (getF sp Fld.SLC_SPARE_STS_TEST e) 0 e

/-! Latent tests (R401). -/

/-- LATENT_TEST: every checker is tested; `bad`: check code, instance and slice of each that fails. -/
def doLatentTest (bad : List (Nat × Nat × Nat)) (e : Engine) : Engine :=
  if !alive e || decide (initState e ≠ 7) then e
  else
    let e := touch { e with safe := { e.safe with latent := now e } }
    forEach bad (fun b e =>
      if inFault e then e
      else enterFault b.1 (b.2.2 % 4) true false
        (logEvent { cluster := 7, slice := b.2.2 % 4, typ := 0x14, ref := b.2.1, code := b.1 } e)) e

/-! Offline slices (R408). -/

/-- The slice's tasks in flight have completed. -/
def sliceIdle (n : Nat) (e : Engine) : Bool :=
  e.jobs.all (fun j => decide (j.slice ≠ n) || j.between || j.waitSlot) && e.near.ins.all (·.retired)

/-- SLICE_OFFLINE_WRITE. -/
def doSliceOffline (n : Nat) (e : Engine) : Engine :=
  if e.inReset.isSome || decide (3 < n) || slicePoweredOff n e then e
  else
    let e := setF (.slcCtl n) Fld.SLC_CTL_OFFLINE 1 e
    if getF (.slcSts n) Fld.SLC_STS_STATE e = 0 then enterSliceState n 1 0 false e else e

/-- SLICE_OFFLINE_REACHED. -/
def doSliceReached (n : Nat) (e : Engine) : Engine :=
  if !alive e || decide (3 < n) || decide (getF (.slcSts n) Fld.SLC_STS_STATE e ≠ 1) || !sliceIdle n e then e
  else enterSliceState n 2 (tget 0 n e.safe.autoOff) (getB (.slcSts n) Fld.SLC_STS_AUTO e) e

/-- SLICE_ONLINE_WRITE: a host-offlined slice returns to service; an automatic offline lasts until reset. -/
def doSliceOnline (n : Nat) (e : Engine) : Engine :=
  if e.inReset.isSome || decide (3 < n) || slicePoweredOff n e then e
  else
    let e := setF (.slcCtl n) Fld.SLC_CTL_OFFLINE 0 e
    let st := getF (.slcSts n) Fld.SLC_STS_STATE e
    if (st = 1 ∨ st = 2) ∧ !getB (.slcSts n) Fld.SLC_STS_AUTO e ∧ !e.power.gating.contains n
    then enterSliceState n 0 0 false e else e

/-! Injection (R412). -/

/-- A write of SHD_SAFE_INJECT: TARGET and SLICE, and ARM where a 1 is written. An armed global check finds its next datum
at once: it leads to the fault state. -/
def injectWrite (target slice : Nat) (arm : Bool) (e : Engine) : Engine :=
  if e.inReset.isSome then e
  else
    let t := target % 256
    let e := setF .safeInject Fld.SAFE_INJECT_TARGET t (setF .safeInject Fld.SAFE_INJECT_SLICE (slice % 4) e)
    let e := if arm then setF .safeInject Fld.SAFE_INJECT_ARM 1 e else e
    if getB .safeInject Fld.SAFE_INJECT_ARM e && decide (t = 0x0A ∨ t = 0x13 ∨ t = 0x14) && !inFault e then
      let e := setF .safeInject Fld.SAFE_INJECT_ARM 0 e
      let e := if t = 0x13 then setBit .clkCfg Fld.CLK_CFG_CLK_FAULT 0 true e else e
      enterFault t 0 false true e
    else e

/-- INJECT_ARM. -/
def doInjectArm (target slice : Nat) (e : Engine) : Engine := injectWrite target slice true e

end Sys2Proof.Machine
end

