-- ==== Sys2Proof/Machine/EventLog.lean ====
section
/-! DEFINITION. The log rings and the host log rings (14_integrity_recovery_log.md R415 to R419). -/

namespace Sys2Proof.Machine

/-- Log words of a record: four event words to each (R415). -/
def logWords (r : LogRec) : Nat := ceilDiv (recWords r) 4

/-- Log words in a log ring. -/
def ringWords (q : List LogRec) : Nat := (q.map logWords).foldl (· + ·) 0

/-- Reports the words held (RING_WORDS). -/
def noteRing (n : Nat) (e : Engine) : Engine := setF (.logSts n) Fld.LOG_STS_RING_WORDS (ringWords (logOf n e).ring) e

/-- The bytes of a record, padded to whole log words (R415, R416). -/
def recBytes (dev : Nat) (r : LogRec) : List Byte :=
  let bytes := 16 * recWords r
  let q0 := r.typ % 256 + (logWords r - 1) * 2 ^ 8 + b2n r.injected * 2 ^ 11 + ((bytes - 1) % 64 + 1) * 2 ^ 12 +
    r.cluster * 2 ^ 19 + r.slice * 2 ^ 22 + dev * 2 ^ 24 + r.seq * 2 ^ 32
  let q2 := r.tableId % 2 ^ 12 + r.row % 2 ^ 40 * 2 ^ 12 + r.peer % 64 * 2 ^ 52 + r.peerSlice % 4 * 2 ^ 58
  let q3 := r.ref % 2 ^ 32 + r.code % 2 ^ 8 * 2 ^ 32 + r.arg % 2 ^ 24 * 2 ^ 40
  padTo (64 * logWords r)
    (toBytes 8 q0 ++ toBytes 8 r.time ++ toBytes 8 q2 ++ toBytes 8 q3 ++ (r.details.map (fun d => toBytes 16 d.toNat)).flatten)

/-- Removes the oldest whole records until `need` log words fit in the 4,096 of the ring (R415). -/
def makeRoom (n need : Nat) : Nat → Engine → Engine
  | 0, e => e
  | fuel + 1, e =>
    let l := logOf n e
    if ringWords l.ring + need ≤ 4096 then e
    else match l.ring with
      | [] => e
      | r :: rest =>
        let e := setLog n { l with ring := rest } e
        makeRoom n need fuel (if r.drained then e else logLost n e)

/-- The next cluster, in cyclic order, that holds a record. -/
def nextCluster (l : LogSlice) : Option Nat :=
  ((List.range 8).map (fun k => (l.nextCluster + k) % 8)).find? (fun c => !(tget [] c l.fifos).isEmpty)

/-- LOG_PACK: a whole record goes from a front FIFO into the log ring (R415). -/
def packOne (n : Nat) (e : Engine) : Engine :=
  let l := logOf n e
  match nextCluster l with
  | none => e
  | some c =>
    match tget [] c l.fifos with
    | [] => e
    | r :: rest =>
      let e := makeRoom n (logWords r) 4096 e
      let l := logOf n e
      noteRing n (setLog n { l with fifos := tput c rest l.fifos, ring := l.ring ++ [r], nextCluster := (c + 1) % 8 } e)

/-- LOG2_SIZE allows draining (R418). -/
def drains (n : Nat) (e : Engine) : Bool :=
  let k := getF (.logHost n) Fld.LOG_HOST_LOG2_SIZE e
  decide (6 ≤ k) && decide (k ≤ 20)

/-- FLUSH returns to 0 once every slice has nothing left of what it flushes (R419). -/
def flushDone (e : Engine) : Engine :=
  if (List.range 4).all (fun n => (logOf n e).flushTo.isNone) then setF .logCtl Fld.LOG_CTL_FLUSH 0 e else e

/-- A slice has flushed: no record older than its mark waits in a FIFO or undrained in the ring. -/
def flushNote (n : Nat) (e : Engine) : Engine :=
  let l := logOf n e
  match l.flushTo with
  | none => e
  | some m =>
    let old (r : LogRec) : Bool := decide (r.seq < m) && !r.drained
    if l.ring.any old || l.fifos.any (fun f => f.2.any old) then e
    else flushDone (setLog n { l with flushTo := none } e)

/-- Marks the first undrained record of a ring as drained. -/
def markDrained : List LogRec → List LogRec
  | [] => []
  | r :: rest => if r.drained then r :: markDrained rest else { r with drained := true } :: rest

/-- The room of the host log ring in log words (R418). -/
def hostRoom (n : Nat) (e : Engine) : Nat :=
  2 ^ getF (.logHost n) Fld.LOG_HOST_LOG2_SIZE e -
    (getF (.logPi n) Fld.LOG_PI_PI e + 2 ^ 32 - getF (.logCi n) Fld.LOG_CI_CI e) % 2 ^ 32

/-- The next record can be drained: it, where the host ring is set and has room for it. -/
def drainable (n : Nat) (e : Engine) : Option LogRec :=
  if e.inReset.isSome || (inFault e && decide (thisDev e ≠ 0)) then none
  else if !drains n e then none
  else match (logOf n e).ring.find? (fun r => !r.drained) with
    | none => none
    | some r => if logWords r ≤ hostRoom n e then some r else none

/-- LOG_DRAIN: one record goes to the host log ring; PI advances, and PI with LOST_COUNT is written at PI_ADDR (R418). -/
def drainOne (n : Nat) (e : Engine) : Engine :=
  match drainable n e with
  | none => e
  | some r =>
    let size := 2 ^ getF (.logHost n) Fld.LOG_HOST_LOG2_SIZE e
    let base := getF (.logHost n) Fld.LOG_HOST_BASE e * 4096
    let pi := getF (.logPi n) Fld.LOG_PI_PI e
    let bs := recBytes (thisDev e) r
    let e := forEach (List.range (logWords r)) (fun i e =>
      hostWrite (base + 64 * ((pi + i) % size)) ((bs.drop (64 * i)).take 64) e) e
    let pi := (pi + logWords r) % 2 ^ 32
    let e := setF (.logPi n) Fld.LOG_PI_PI pi e
    let l := logOf n e
    let e := setLog n { l with ring := markDrained l.ring } e
    let a := getF (.logPiAddr n) Fld.LOG_PI_ADDR_PI_ADDR e * 8
    let e := if a = 0 then e
      else hostWrite a (toBytes 4 pi ++ toBytes 4 (getF (.logSts n) Fld.LOG_STS_LOST_COUNT e)) e
    flushNote n e

/-- LOG_HOST_WRITE_FAULT: the record counts as lost, and the next one uses its slots (R418). -/
def doLogWriteFault (n : Nat) (e : Engine) : Engine :=
  match drainable n e with
  | none => e
  | some _ =>
    let l := logOf n e
    flushNote n (logLost n (setLog n { l with ring := markDrained l.ring } e))

/-- LOG_PACK. -/
def doLogPack (n : Nat) (e : Engine) : Engine := if e.inReset.isSome || decide (3 < n) then e else packOne n e

/-- LOG_DRAIN. -/
def doLogDrain (n : Nat) (e : Engine) : Engine := if e.inReset.isSome || decide (3 < n) then e else drainOne n e

/-- Discards what a slice whose host ring is not set would flush (R419). -/
def flushDiscard (n : Nat) (e : Engine) : Engine :=
  let k := ((logOf n e).ring.filter (fun r => !r.drained)).length
  let e := forEach (List.range k) (fun _ e => logLost n e) e
  let l := logOf n e
  noteRing n (setLog n { l with ring := l.ring.filter (·.drained) } e)

/-- LOG_FLUSH: every record in a front FIFO is packed, and drained as far as the host rings have room; the rest follows
with LOG_DRAIN (R419). -/
def doLogFlush (e : Engine) : Engine :=
  if e.inReset.isSome || getB .logCtl Fld.LOG_CTL_FLUSH e then e
  else
    let e := setF .logCtl Fld.LOG_CTL_FLUSH 1 e
    let e := forEach (List.range 4) (fun n e => setLog n { logOf n e with flushTo := some (logOf n e).nextSeq } e) e
    forEach (List.range 4) (fun n e =>
      let k := ((logOf n e).fifos.map (fun f => f.2.length)).foldl (· + ·) 0
      let e := forEach (List.range k) (fun _ e => packOne n e) e
      let e := if drains n e then forEach (List.range (logOf n e).ring.length) (fun _ e => drainOne n e) e
        else flushDiscard n e
      flushNote n e) e

end Sys2Proof.Machine
end

