-- ==== Sys2Proof/Machine/Link.lean ====
section
/-! DEFINITION. Ports and edges, end-to-end delivery, control repeats, time exchange and the UCIe port
(13_pods_and_links.md). -/

namespace Sys2Proof.Machine

/-! Forwarding and flits (R374, R379). -/

/-- A message addressed to another device leaves by this device's own route table; with seven hops it is discarded (R379). -/
def forwardMsg (m : Msg) (e : Engine) : Engine :=
  if !alive e || !routeValid m.h.dstDev e then e
  else if 6 ≤ m.h.hops then incF .nlE2eSts Fld.NL_E2E_STS_LOOP_DROPS 1 e
  else emit (portTo m.h.dstDev e) { m with h := { m.h with hops := m.h.hops + 1 } } e

/-- The bytes of a flit pass its link check (R374). -/
def flitOk (bytes : List Byte) : Bool :=
  decide (bytes.length = 256) && decide (crc64 (bytes.take 248) = ofBytes (bytes.drop 248))

/-- FLIT on link 0 to 15 (the Nimrus Link ports) or 16 to 19 (the edges). `nack`: the peer has rejected a flit of this
device, which replays from it on; otherwise a flit arrives. Messages that flits carry arrive as commands of their own. -/
def doFlit (link : Nat) (bytes : List Byte) (nack : Bool) (e : Engine) : Engine :=
  if !alive e || decide (20 ≤ link) then e
  else if nack then
    if link < 16 then incF (.nlPortSts link) Fld.NL_PORT_STS_LINK_RETRIES 1 e
    else incF (.d2dEdgeSts (link - 16)) Fld.D2D_EDGE_STS_LINK_RETRIES 1 e
  else
    let n := if link < 16 then link / 4 else (edgesOf.getD (link - 16) (0, 0)).1
    let inj := takeInjection 0x0C n e
    if inj.1 || !flitOk bytes then
      let e := logIntegrity 6 n 0x0C 0 5 inj.1 inj.2
      if link < 16 then incF (.nlPortSts link) Fld.NL_PORT_STS_CRC_ERRORS 1 e else e
    else inj.2

/-- A device is reachable over a port that is up (R379, R410). -/
def portsReach (d : Nat) (e : Engine) : Bool :=
  let up (p : Nat) : Bool := getB (.nlPortSts p) Fld.NL_PORT_STS_UP e
  up (getF (.nlRoute d) Fld.NL_ROUTE_PORT e) ||
  (getB (.nlRoute d) Fld.NL_ROUTE_ALT_EN e && up (getF (.nlRoute d) Fld.NL_ROUTE_ALT_PORT e))

/-- PORT_LINK_DOWN: a port is down (R374, R410). -/
def doPortDown (p : Nat) (e : Engine) : Engine :=
  if !alive e || decide (16 ≤ p) || !getB (.nlPortSts p) Fld.NL_PORT_STS_UP e then e
  else
    let e := setAlert Fld.FAULT_STS_LINK_DEGRADED (setF (.nlPortSts p) Fld.NL_PORT_STS_UP 0 e)
    let e := logEvent { cluster := 6, slice := p / 4, typ := 0x46, ref := p, code := 1 } e
    settle (forEach (List.range (podSize e)) (fun d e =>
      if routeValid d e && !portsReach d e then loseMember d 3 e else e) e)

/-- D2D_BUNDLE_FAIL: a bundle leaves service; an edge without any is down, and a slice without a path to base die 0 puts the
engine into the fault state. The manual gives that cause no check code: a free value (R367, R402, R410). -/
def doBundleFail (x : Nat) (e : Engine) : Engine :=
  let r := Reg.d2dEdgeSts x
  let up := getF r Fld.D2D_EDGE_STS_BUNDLES_UP e
  if !alive e || decide (4 ≤ x) || decide (up = 0) then e
  else
    let e := setF r Fld.D2D_EDGE_STS_BUNDLES_UP (up - 1) e
    if up ≠ 1 then e
    else
      let e := setAlert Fld.FAULT_STS_LINK_DEGRADED (setBit .d2dPath Fld.D2D_PATH_EDGE_DOWN x true e)
      let e := logEvent { cluster := 6, slice := (edgesOf.getD x (0, 0)).1, typ := 0x46, ref := x } e
      match (List.range 4).find? (fun n => !(dieReached e).contains n && !slicePoweredOff n e) with
      | some n =>
        let f := takeFree e
        enterFault (f.1.toNat % 256) n false false f.2
      | none => e

/-! End-to-end delivery (R377). -/

/-- Sequence number a comes after b. -/
def seqAfter (a b : Nat) : Bool :=
  let d := (a % 2 ^ 32 + 2 ^ 32 - b % 2 ^ 32) % 2 ^ 32
  decide (d ≠ 0) && decide (d < 2 ^ 31)

/-- E2E_ACK: everything up to the number is released. -/
def onE2eAck (h : Hdr) (cls seq : Nat) (e : Engine) : Engine :=
  setNet { e.net with unacked := e.net.unacked.filter (fun u =>
    decide (u.msg.h.dstDev ≠ h.srcDev) || decide (u.cls ≠ cls) || seqAfter u.msg.h.seq seq) } e

/-- A held message is sent again. -/
def resend (u : Unacked) (e : Engine) : Engine :=
  let e := setNet { e.net with unacked := e.net.unacked.map (fun x =>
    if x = u then { x with resends := x.resends + 1, t0 := now e } else x) } e
  let e := addCounter (u.msg.h.srcSlice % 4) 12 1 (incF .nlE2eSts Fld.NL_E2E_STS_RESENDS 1 e)
  emit (portTo u.msg.h.dstDev e) u.msg e

/-- The held message of a number. -/
def findUnacked (dev cls seq : Nat) (e : Engine) : Option Unacked :=
  e.net.unacked.find? (fun u => decide (u.msg.h.dstDev = dev) && decide (u.cls = cls) && decide (u.msg.h.seq = seq))

/-- E2E_NACK: the message is resent, at most three times. -/
def onE2eNack (h : Hdr) (cls seq : Nat) (e : Engine) : Engine :=
  match findUnacked h.srcDev cls seq e with
  | some u => if u.resends < 3 then resend u e else e
  | none => e

/-- A relayed access of the head is reported lost or timed out (R385); `code`: 0 read, 1 write. -/
def relayReport (slot code : Nat) (e : Engine) : Engine :=
  let e := incF .sts Fld.STS_RELAY_TIMEOUTS 1 (setF .sts Fld.STS_RELAY_TIMEOUT 1 e)
  logEvent { cluster := 0, slice := 0, typ := 0x44, ref := slot, code } e

/-- The course of the operation that sent an undelivered message (R377): chain, state and multicast messages have their own
rules; a relayed write is reported; every other task ends with LINK_LOST. -/
def undelivered (u : Unacked) (e : Engine) : Engine :=
  match u.msg.b with
  | .regWrite .. => relayReport u.msg.h.dstDev 1 e
  | .subList .. | .rowReq .. | .rowWriteReq .. | .token .. | .importRow .. | .replicaAction .. | .migrateCopy .. =>
    failTask (refOf u.msg.h.ref) stDataLost 0xA0 e
  | _ => e

/-- E2E_RESEND_TIMEOUT: resent three times, then undelivered, and its destination is lost (R377, R410). -/
def doResendTimeout (dev cls seq : Nat) (e : Engine) : Engine :=
  match findUnacked dev cls seq e with
  | none => e
  | some u =>
    if !alive e || !elapsedUs u.t0 (max 1 (getF .nlE2eCfg Fld.NL_E2E_CFG_E2E_TIMEOUT e)) e then e
    else if u.resends < 3 then resend u e
    else
      let others := e.net.unacked.filter (fun x => decide (x.msg.h.dstDev = dev))
      let e := setNet { e.net with unacked := e.net.unacked.filter (fun x => decide (x ≠ u)) } e
      let e := incF .nlE2eSts Fld.NL_E2E_STS_UNDELIVERED 1 e
      let e := logEvent { cluster := 6, slice := u.msg.h.srcSlice % 4, typ := 0x42, peer := dev, ref := seq, code := cls } e
      settle (forEach others undelivered (loseMember dev 0 e))

/-! Control repeats (R378). -/

/-- An awaited CONTROL answer has come from a device. -/
def answered (peer answer table item : Nat) (e : Engine) : Engine :=
  setNet { e.net with waits := e.net.waits.filter (fun w =>
    decide (w.peer ≠ peer) || decide (w.answer ≠ answer) || decide (w.table ≠ table) || decide (w.item ≠ item)) } e

/-- A chain row or END answers every REPLAY of its chain (R212). -/
def replayAnswered (slice item : Nat) (e : Engine) : Engine :=
  setNet { e.net with waits := e.net.waits.filter (fun w =>
    decide (w.answer ≠ 0x51) || decide (w.table ≠ slice) || decide (w.item ≠ item)) } e

/-- The request may be repeated now: an ASK for END_ACK waits until the stream has been acknowledged (R378). -/
def mayRepeat (w : CtrlWait) (e : Engine) : Bool :=
  decide (w.answer ≠ 0x06) || !e.net.unacked.any (fun u => match u.msg.b with
    | .chainRow step _ _ _ home slice _ _ => decide (step = w.item) && decide (home = w.peer) && decide (slice = w.table)
    | .chainEnd step home slice _ _ => decide (step = w.item) && decide (home = w.peer) && decide (slice = w.table)
    | _ => false)

/-- A request is sent again. -/
def repeatReq (w : CtrlWait) (e : Engine) : Engine :=
  emit (portTo w.peer e) w.msg (setNet { e.net with waits := e.net.waits.map (fun x =>
    if x = w then { x with tLast := now e, sent := x.sent + 1 } else x) } e)

/-- CTRL_REPEAT_TIMER (R378): FAULT_NOTICE leaves three times; END_ACK, REJOIN_ACK and SHARD_MAP_ACK give up after
4 × E2E_TIMEOUT (R410), the others under their own rules. -/
def doCtrlRepeat (peer answer table item : Nat) (e : Engine) : Engine :=
  let hit (w : CtrlWait) : Bool := decide (w.peer = peer) && decide (w.answer = answer) && decide (w.table = table) && decide (w.item = item)
  match e.net.waits.find? hit with
  | none => e
  | some w =>
    let due := e.inReset.isNone && elapsedUs w.tLast (max 1 (getF .nlE2eCfg Fld.NL_E2E_CFG_CTRL_REPEAT e)) e
    let give := decide (answer = 0x06 ∨ answer = 0x0B ∨ answer = 0x0D) &&
      elapsedUs w.t0 (4 * max 1 (getF .nlE2eCfg Fld.NL_E2E_CFG_E2E_TIMEOUT e)) e
    if !due then e
    else if answer = 0 then
      let e := repeatReq w e
      if 2 ≤ w.sent then setNet { e.net with waits := e.net.waits.filter (fun x => !hit x) } e else e
    else if inFault e || !mayRepeat w e then e
    else if give then settle (loseMember peer 4 e)
    else repeatReq w e

/-- ASK: answered once this device has acted on the item (R378). -/
def onAsk (h : Hdr) (typ table item : Nat) (e : Engine) : Engine :=
  if typ = 0x10 then
    let row := item / 256
    match tfind (h.srcDev, table, row) e.hot.acted with
    | some v =>
      if verNewer (item % 256) v then e
      else sendMsg { hdrTo h.srcDev h.srcSlice e with tableId := table, ref := item } (.mcastAck table row (item % 256)) e
    | none => e
  else if typ = 0x06 then
    let done := match e.grad.closing with
      | some c => if c.step = item then c.applied.contains table else e.grad.decided.any (fun d => decide (d.1 = item) && d.2.1)
      | none => e.grad.decided.any (fun d => decide (d.1 = item) && d.2.1)
    if done then sendMsg { hdrTo h.srcDev table e with srcSlice := table } (.endAck item) e else e
  else e

/-- BAD_MESSAGE: a message of an unknown TYPE is discarded (R376). -/
def doBadMessage (src typ : Nat) (e : Engine) : Engine :=
  if !alive e then e
  else logEvent { cluster := 6, slice := 0, typ := 0x43, peer := src, code := typ } (incF .nlE2eSts Fld.NL_E2E_STS_BAD_MESSAGE 1 e)

/-! Time (R384). -/

/-- The local time in thirds of a nanosecond, and in nanoseconds. -/
def localThirds (e : Engine) : Nat := now e * 32 + e.net.frac
def localNs (e : Engine) : Nat := localThirds e / 3

/-- The port to the device that sent a time message. -/
def timePort (d : Nat) (e : Engine) : Nat :=
  ((List.range 16).find? (fun p => getB (.nlPortSts p) Fld.NL_PORT_STS_UP e &&
    decide (getF (.nlPortSts p) Fld.NL_PORT_STS_PEER_DEV e = d))).getD (portTo d e)

/-- The exchange interval in µs. -/
def timeInterval (e : Engine) : Nat := 10 * max 1 (getF .nlTimeCfg Fld.NL_TIME_CFG_INTERVAL e)

/-- TIME_EXCHANGE_TIMER: TIME_SYNC leaves toward the time parent. -/
def doTimeExchange (e : Engine) : Engine :=
  let p := getF .nlTimeCfg Fld.NL_TIME_CFG_PARENT_PORT e
  if !alive e || getB .nlTimeCfg Fld.NL_TIME_CFG_MASTER e || !getB (.nlPortSts p) Fld.NL_PORT_STS_UP e ||
     (e.net.t1.isSome && !elapsedUs e.net.tSent (timeInterval e) e) then e
  else
    let d := getF (.nlPortSts p) Fld.NL_PORT_STS_PEER_DEV e
    emit p ⟨hdrTo d 0 e, .timeSync (localNs e)⟩ (setNet { e.net with t1 := some (localNs e), tSent := now e } e)

/-- TIME_SYNC at the parent: answered with its timestamps and its error bound. -/
def onTimeSync (h : Hdr) (e : Engine) : Engine :=
  let err := if getB .nlTimeCfg Fld.NL_TIME_CFG_MASTER e then 0
    else if getB .nlTimeSts Fld.NL_TIME_STS_SYNCED e then getF .nlTimeSts Fld.NL_TIME_STS_ERR e else 255
  emit (timePort h.srcDev e) ⟨{ hdrTo h.srcDev 0 e with arg := err }, .timeReply (localNs e) (localNs e) err⟩ e

/-- A 16-bit two's-complement encoding, saturating. -/
def sat16 (x : Int) : Nat :=
  let y := max (-32768) (min 32767 x)
  (if y < 0 then y + 65536 else y).toNat

/-- SYNCED is lost (R384). -/
def unsync (e : Engine) : Engine :=
  let e := incF .nlTimeSts Fld.NL_TIME_STS_RESYNCS 1 (setF .nlTimeSts Fld.NL_TIME_STS_SYNCED 0 e)
  let e := logEvent { cluster := 6, slice := 0, typ := 0x45, arg := getF .nlTimeSts Fld.NL_TIME_STS_OFFSET e } e
  setAlert Fld.FAULT_STS_TIME_UNSYNCED e

/-- TIME_REPLY: the offset corrects the time, at first by a step and then by a slew over the next interval, and ERR and
SYNCED follow. The half of an odd difference is rounded toward zero (DESIGN CHOICE, notes/assumptions/33.md). -/
def onTimeReply (t2 t3 errp : Nat) (e : Engine) : Engine :=
  match e.net.t1 with
  | none => e
  | some t1 =>
    let t4 := localNs e
    let off : Int := ((Int.ofNat t2 - Int.ofNat t1) - (Int.ofNat t4 - Int.ofNat t3)).tdiv 2
    let ticks := max 1 (usTicks (timeInterval e))
    let e := if e.net.stepped then
        setNet { e.net with t1 := none, tReply := now e, slew := 3 * off, rate := ceilDiv (3 * off.natAbs) ticks } e
      else
        let t := (Int.ofNat (localThirds e) + 3 * off).toNat
        let e := setReg .time (BitVec.ofNat 64 (t / 32)) (setNet { e.net with t1 := none, stepped := true, frac := t % 32 } e)
        setNet { e.net with tReply := now e } e
    let err := min 255 (errp + off.natAbs + 2)
    let e := setF .nlTimeSts Fld.NL_TIME_STS_OFFSET (sat16 off) (setF .nlTimeSts Fld.NL_TIME_STS_ERR err e)
    if 20 < err then
      let e := setNet { e.net with good := 0 } e
      if getB .nlTimeSts Fld.NL_TIME_STS_SYNCED e then unsync e else e
    else
      let e := setNet { e.net with good := min 3 (e.net.good + 1) } e
      if e.net.good = 3 then setF .nlTimeSts Fld.NL_TIME_STS_SYNCED 1 e else e

/-- TIME_REPLY_LOSS: no reply within three intervals. -/
def doTimeReplyLoss (e : Engine) : Engine :=
  if !alive e || getB .nlTimeCfg Fld.NL_TIME_CFG_MASTER e || !getB .nlTimeSts Fld.NL_TIME_STS_SYNCED e ||
     !elapsedUs e.net.tReply (3 * timeInterval e) e then e
  else unsync (setNet { e.net with good := 0 } e)

/-! The UCIe port (R369 to R372). -/

/-- Why a capability is refused, 0 for admission (R370, R371). -/
def capRefuse (up : Bool) (cap : Option (List Byte)) : Nat :=
  if !up then 1
  else match cap with
    | none => 2
    | some bs =>
      let v := ofBytes (bs.take 32)
      if decide (bs.length ≠ 32) || decide (bitsOf v 0 16 ≠ 0x5845) || decide (bitsOf v 16 8 ≠ 1) || decide (bitsOf v 26 38 ≠ 0) ||
         decide (bitsOf v 112 16 ≠ 0) || decide (bitsOf v 128 128 ≠ 0) then 3
      else if bitsOf v 24 1 = 0 ∨ bitsOf v 25 1 = 0 then 4
      else if bitsOf v 64 32 = 0 ∨ bitsOf v 96 16 < 64 then 5
      else 0

/-- A write of 1 to ADMIT: the capability is checked; ADMIT is clear again at the end (R371). -/
def doAdmit (e : Engine) : Engine :=
  if !alive e then e
  else
    let why := capRefuse (getB .ucieSts Fld.UCIE_STS_LINK_UP e) e.mem.expCap
    if why ≠ 0 then setF .ucieSts Fld.UCIE_STS_REFUSE why e
    else
      let v := ofBytes (e.mem.expCap.getD [])
      let e := setF .ucieCap Fld.UCIE_CAP_CAPACITY (bitsOf v 64 32) (setF .ucieCap Fld.UCIE_CAP_MAX_OUTSTANDING (bitsOf v 96 16) e)
      setF .ucieSts Fld.UCIE_STS_ADMITTED 1 e

/-- UCIE_ADMIT with the capability that the die presents now. -/
def doUcieAdmit (cap : Option (List Byte)) (e : Engine) : Engine :=
  if !alive e then e else doAdmit (setMem { e.mem with expCap := cap } e)

/-- UCIE_EJECT (R371). -/
def doUcieEject (e : Engine) : Engine := if !alive e then e else settle (setF .ucieCtl Fld.UCIE_CTL_EJECT 1 e)

/-- UCIE_LINK_DOWN (R372). -/
def doUcieDown (e : Engine) : Engine :=
  if !alive e then e
  else
    let e := setF .ucieSts Fld.UCIE_STS_LINK_UP 0 e
    if getB .ucieSts Fld.UCIE_STS_ADMITTED e then
      logEvent { cluster := 6, slice := 3, typ := 0x41 } (setF .ucieSts Fld.UCIE_STS_ADMITTED 0 e)
    else e

/-- SECTOR_DATA: the expansion die answers a read, for a wait or for a row request (R371). -/
def doSectorData (id : Nat) (acc : Access) (d : Datum) (e : Engine) : Engine :=
  if !alive e || !dieAdmitted e then e
  else if e.upd.waits.any (fun w => decide (w.id = id) && decide (stateSrc w.slot e = 64)) then settle (stateRowArrival id acc d e)
  else if e.rowReqs.any (fun q => decide (q.id = id) && (q.wide || q.both) && decide (stateSrc q.slot e = 64))
  then sectorReadDone id acc d none e
  else e

end Sys2Proof.Machine
end

