-- ==== Sys2Proof/Machine/Streams.lean ====
section
/-! DEFINITION. Stream events: bulk transfers, dependence words, the stream watchdog, persistent rounds and REARM, the
start-up ring, stream configuration (10_streams_and_buffers.md R289 to R312). -/

namespace Sys2Proof.Machine

/-! Bulk transfers (R289, R305). -/

/-- The fuel of a list consumer: a task has at most 2^32 entries. -/
def listFuel : Nat := 2 ^ 32

/-- A job takes up the list data that are in. -/
def advanceJob (r : TaskRef) (op : Nat) (e : Engine) : Engine :=
  match op with
  | 0x01 | 0x02 | 0x05 => poolListIn r e
  | 0x03 => pageAdvance r listFuel e
  | 0x04 => dispatchAdvance r listFuel e
  | 0x08 => gradAdvance r listFuel e
  | 0x0A => scatterAdvance r listFuel e
  | 0x10 => rowWriteAdvance r listFuel e
  | 0x11 => rowReadAdvance r listFuel e
  | 0x13 => replicaAdvance r listFuel e
  | 0x15 => importAdvance r listFuel e
  | _ => e

/-- The check that covers a read of a stream: HBM_SECTOR or LLM (R391). -/
def streamCheck (a : Nat) : Nat := if eaSpace a = 1 then 0x01 else 0x0E

/-- A read that failed its check once passes the second time (R305); an armed injection of the stream's checks is one. -/
def streamRetry (r : TaskRef) (n a : Nat) (acc : Access) (e : Engine) : Engine :=
  let i := if eaSpace a = 0 then (false, e) else takeInjection (streamCheck a) n e
  let b := takeInjection 0x11 n i.2
  let e := b.2
  let e := if i.1 || decide (acc = .badOnce) then logIntegrity 4 n (streamCheck a) 0 0 i.1 e else e
  let e := if b.1 then logIntegrity 4 n 0x11 0 0 true e else e
  if i.1 || b.1 || decide (acc = .badOnce) then flagJob r flRecomputed e else e

/-- The job's slot goes on after a transfer: more transfers, more reads, what the data allow; or its end. -/
def streamOn (r : TaskRef) (op : Nat) (e : Engine) : Engine :=
  match findJob r e with
  | none => e
  | some j => if j.fault.isSome then settleFault r e
    else noteDep r (settleDone r (advanceJob r op (pump r (issueXfers r e))))

/-- A write of an item is visible: its bytes, or free values where the outputs of the item are undefined. -/
def landOut (j : Job) (x : Xfer) (i : Nat) (e : Engine) : Engine :=
  let w := freeIf (undefOut j i e) x.bytes e
  itemPart j.ref i (eaWrite x.addr w.1 w.2)

/-- The data of a read, or a write made visible; `dt` is its DETAIL for a port error. -/
def applyXfer (j : Job) (x : Xfer) (acc : Access) (e : Engine) : Engine :=
  let r := j.ref
  match x.kind with
  | .listRead k =>
    if acc = .portError then failTask r stAddrFault (listDetail j k) e
    else if acc = .badTwice then failTask r stDataLost 0x60 (logIntegrity 4 j.slice (streamCheck x.addr) 0 7 false e)
    else
      let bs := eaRead x.addr x.len e
      streamRetry r j.slice x.addr acc (updJob r (fun j => { j with lists := match j.lists[k]? with
        | some l => j.lists.set k { l with got := l.got ++ bs, inflight := l.inflight - x.len }
        | none => j.lists }) e)
  | .output i => if acc = .portError then failTask r stAddrFault 0x11 e else landOut j x i e
  | .aux i => if acc = .portError then failTask r stAddrFault 0x12 e else landOut j x i e
  | .residual b =>
    if acc = .portError then failTask r stAddrFault 0x12 e
    else if acc = .badTwice then failTask r stDataLost 0x60 (logIntegrity 4 j.slice (streamCheck x.addr) 0 7 false e)
    else residualIn r b (streamRetry r j.slice x.addr acc e)

/-- A transfer that was in flight when its task's fault came: data read are discarded, a write lands (R304, R46). -/
def landWrite (j : Job) (x : Xfer) (acc : Access) (e : Engine) : Engine :=
  match x.kind, acc with
  | .output i, .ok => landOut j x i e
  | .aux i, .ok => landOut j x i e
  | _, _ => e

/-- BULK_TRANSFER_DONE: transfer `id` completes (R289, R292). `acc`: how it ended; `bl`: how the reads of block-list
entries that follow it end (R305). -/
def doBulkTransferDone (id : Nat) (acc bl : Access) (e : Engine) : Engine :=
  match e.jobs.find? (fun j => j.xfers.any (fun x => decide (x.id = id) && x.issued)) with
  | none => e
  | some j =>
    match j.xfers.find? (fun x => decide (x.id = id)) with
    | none => e
    | some x =>
      if !alive e then e
      else
        let r := j.ref
        let e := giveBufs j.slice j.queue x.bufs e
        let e := progress r (updJob r (fun j => { j with xfers := j.xfers.filter (fun y => decide (y.id ≠ id)) }) e)
        let e := if j.fault.isSome then landWrite j x acc e else applyXfer j x acc e
        let e := match bl with
          | .ok => e
          | .badOnce => flagJob r flRecomputed (logIntegrity 4 j.slice 0x0E 0 0 false e)
          | .portError => failTask r stAddrFault 0x60 e
          | .badTwice => failTask r stDataLost 0x60 (logIntegrity 4 j.slice 0x0E 0 7 false e)
        settle (streamOn r j.opcode e)

/-! Dependence words (R294 to R296). -/

/-- The slot reads a job's dependence words again and goes on past those that are met. `sel`: the words read. -/
def rereadDeps (r : TaskRef) (sel : Nat → Bool) (e : Engine) : Engine :=
  match findJob r e with
  | none => e
  | some j =>
    let freed (l : LStream) : Bool := match l.dep with | some (a, t, _) => sel a && depMet a t e | none => false
    let met := j.lists.any freed
    let e := updJob r (fun j => { j with lists := j.lists.map (fun l => if freed l then { l with dep := none } else l) }) e
    let e := retryHeld r (if met then progress r e else e)
    streamOn r j.opcode e

/-- DEP_WORD_LINE_WRITE: an agent writes `bytes` into the 64 B LLM line of die `die` at `off`; the slots held at a word of
the line read it again (R294). -/
def doDepWordLineWrite (die off : Nat) (bytes : List Byte) (e : Engine) : Engine :=
  let line := off / 64 * 64
  if !alive e || decide (4 ≤ die) || decide (2 ^ 27 ≤ off) then e
  else
    let e := setMem { e.mem with llm := memWrite (die * 2 ^ 27 + off) (bytes.take (line + 64 - off)) e.mem.llm } e
    let here (a : Nat) : Bool := decide (a / 64 * 64 = llmAddr die line)
    settle (forEach (e.jobs.map (·.ref)) (fun r e => rereadDeps r here e) e)

/-- DEP_POLL_TICK: the words of a task in HBM and host memory are read again (R294); `acc`: how the reads end. -/
def doDepPollTick (r : TaskRef) (acc : Access) (e : Engine) : Engine :=
  match findJob r e with
  | none => e
  | some j =>
    let polled (l : LStream) : Bool := match l.dep with | some (a, _, _) => decide (eaSpace a ≠ 2) | none => false
    if !alive e || j.fault.isSome || !(j.lists.any polled || !j.heldOut.isEmpty) then e
    else match acc with
      | .portError => failTask r stAddrFault 0x61 e
      | .badTwice => failTask r stDataLost 0x60 (logIntegrity 4 j.slice 0x01 0 7 false e)
      | _ =>
        let e := if acc = .badOnce then flagJob r flRecomputed (logIntegrity 4 j.slice 0x01 0 0 false e) else e
        settle (rereadDeps r (fun a => decide (eaSpace a ≠ 2)) e)

/-! The stream watchdog (R306, R307). -/

/-- The slot that a job holds or waits for. -/
def jobSlot (j : Job) (e : Engine) : Nat :=
  match j.slot with
  | some s => s
  | none => match findTask j.ref e with | some t => dq t.desc 1 0 4 | none => 0

/-- A task ends with WATCHDOG (R307). -/
def watchdogEnd (r : TaskRef) (dt : Nat) (e : Engine) : Engine :=
  match findJob r e with
  | none => e
  | some j =>
    let s := jobSlot j e
    let pos := match r with | .ring _ p => p.toNat | _ => 0
    let e := incF (.slcWdogSts j.slice) Fld.SLC_WDOG_STS_EXPIRED 1 e
    let e := setF (.slcWdogSts j.slice) Fld.SLC_WDOG_STS_LAST_SLOT s e
    let e := logEvent { cluster := 4, slice := j.slice, typ := 0x38, ref := pos, code := dt, arg := s } e
    failTask r stWatchdog dt e

/-- A row request of a job is pending. -/
def jobAsks (j : Job) (e : Engine) : Bool :=
  e.rowReqs.any (fun q => match q.use with
    | .bag r .. | .pair r .. | .item r _ | .grad r .. | .migrate r _ => decide (r = j.ref)
    | _ => false)

/-- The offset D of a deadline class (R302). -/
def deadlineOf (c : Nat) (e : Engine) : Nat :=
  if c < 8 then getF .deadlineTab0 (Fld.DEADLINE_TAB0_D c) e else getF .deadlineTab1 (Fld.DEADLINE_TAB1_D (c - 8)) e

/-- The watchdog counts a job's time (R306): it is not between rounds, not held only at a DEP entry, and does not wait in
a class of idle bandwidth (a pending request of such a class counts as ungranted: DESIGN CHOICE,
notes/assumptions/28.md). -/
def wdogCounts (j : Job) (e : Engine) : Bool :=
  let held := j.lists.any (fun l => l.dep.isSome) || !j.heldOut.isEmpty
  let pending := !j.xfers.isEmpty || jobAsks j e
  let idle := match findTask j.ref e with | some t => decide (deadlineOf (dClass t.desc) e = 0xFF) | none => false
  !j.between && j.fault.isNone && (usesStream j.opcode || decide (j.opcode = 0x12)) &&
  (j.waitSlot || (!(held && !pending && !(e.net.awaits.any (fun a => decide (a.1 = refNum j.ref)))) && !(idle && pending)))

/-- A job waits for a buffer of its queue (R307). -/
def waitsBuffer (j : Job) : Bool :=
  j.xfers.any (fun x => !x.issued) ||
  j.lists.any (fun l => decide (lacking l ≠ 0) && decide (l.inflight = 0) && l.dep.isNone && !l.ended)

/-- STREAM_WATCHDOG_TICK of slice `n`: NO_PROGRESS for every task at its limit, and MUTUAL_WAIT for those that wait for
it (R306, R307). -/
def doStreamWatchdogTick (n : Nat) (e : Engine) : Engine :=
  if !alive e then e
  else
    let limit := max 1 (getF (.slcWdog n) Fld.SLC_WDOG_LIMIT e)
    let counted := e.jobs.filter (fun j => decide (j.slice = n) && wdogCounts j e)
    let xs := counted.filter (fun j => elapsedUs j.prog limit e)
    let ys := counted.filter (fun y => !(xs.any (fun x => decide (x.ref = y.ref))) &&
      decide (limit * 375 ≤ (now e - y.prog) * 8) &&
      xs.any (fun x => (decide (y.queue = x.queue) && waitsBuffer y) || (y.waitSlot && decide (jobSlot y e = jobSlot x e))))
    settle (forEach ys (fun y e => watchdogEnd y.ref 0x61 e) (forEach xs (fun x e => watchdogEnd x.ref 0x60 e) e))

/-- DEP_TIMEOUT: a task has been held at a DEP entry for DEP_LIMIT ms (R296). -/
def doDepTimeout (r : TaskRef) (e : Engine) : Engine :=
  match findJob r e with
  | none => e
  | some j =>
    let ms := getF (.slcWdog j.slice) Fld.SLC_WDOG_DEP_LIMIT e
    let late (t0 : Nat) : Bool := elapsedUs t0 (1000 * ms) e
    let held := j.lists.any (fun l => match l.dep with | some (_, _, t0) => late t0 | none => false) ||
      j.heldOut.any (fun h => late h.t0)
    if alive e && decide (ms ≠ 0) && j.fault.isNone && held then settle (watchdogEnd r 0x62 e) else e

/-! Persistent rounds (R297 to R300). -/

/-- The persistent task that holds a slot of a slice. -/
def persistentAt (n s : Nat) (e : Engine) : Option (Job × Task) :=
  (e.jobs.filterMap (fun j => match findTask j.ref e with
    | some t => if decide (j.slice = n) && decide (j.slot = some s) && dPersist t.desc then some (j, t) else none
    | none => none)).head?

/-- ACTION of a REARM descriptor. -/
def rearmAction (d : BitVec 512) : Nat := dq d 1 6 2

/-- The start checks of a REARM (R299). -/
def rearmCheck (q : Task) (e : Engine) : Option (Nat × Nat) :=
  if 2 ≤ rearmAction q.desc then some (stBadDesc, 0x66)
  else match persistentAt (dq q.desc 1 4 2) (dq q.desc 1 0 4) e with
    | none => some (stBadDesc, 0x63)
    | some (_, t) => if t.domain ≠ q.domain ∧ q.priv ≠ 3 then some (stPrivilege, 0x60) else none

/-- A round runs as a new task of the descriptor would (R297). -/
def startRound (j : Job) (t : Task) (q : TaskRef) (e : Engine) : Engine :=
  let e := updJob j.ref (fun _ => { newJob t e with slot := j.slot, sumItems := j.sumItems, rearm := some q }) e
  let e := match j.slot with
    | some s => setBit (.slcStreamSts j.slice) Fld.SLC_STREAM_STS_SLOT_PERSIST s false e
    | none => e
  match j.opcode with
  | 0x03 => pageBody t e
  | 0x04 => dispatchBody t e
  | op => poolBody op t e

/-- The persistent task between rounds takes the oldest REARM that waits for it (R299). END leaves the REARM waiting for
the record of the persistent task. -/
def serveRearm (n s : Nat) (e : Engine) : Engine :=
  match persistentAt n s e with
  | none => e
  | some (j, t) =>
    if !j.between || j.fault.isSome then e
    else
      let qs := e.tasks.filter (fun q => decide (dOpcode q.desc = 0x1C) && decide (q.phase = .running) &&
        decide (dq q.desc 1 4 2 = n) && decide (dq q.desc 1 0 4 = s) && (findJob q.ref e).isNone)
      let first := qs.foldl (fun (m : Option Task) q => match m with
        | some p => if q.order < p.order then some q else some p
        | none => some q) none
      match first with
      | none => e
      | some q =>
        if rearmAction q.desc = 0 then startRound j t q.ref e
        else
          let e := addJob { ref := q.ref, opcode := 0x1C, slice := n, rearm := some j.ref } e
          let e := cancelRearms j.ref e
          finishTask j.ref (doneStatus t.flags) 0 t.flags j.sumItems t.clipped t.quantised (dropJob j e)

/-- A REARM of one action starts; an invalid ACTION is reported by either. -/
def doRearm (act : Nat) (r : TaskRef) (e : Engine) : Engine :=
  match findTask r e with
  | none => e
  | some q =>
    let a := rearmAction q.desc
    if a ≠ act ∧ a < 2 then e
    else startTask 0x1C r rearmCheck (fun q e => serveRearm (dq q.desc 1 4 2) (dq q.desc 1 0 4) e) e

/-- The REARM END tasks whose persistent task's record is written complete (R299). -/
def finishRearmEnds (e : Engine) : Engine :=
  forEach (e.jobs.filter (fun j => decide (j.opcode = 0x1C))) (fun j e =>
    match j.rearm with
    | some p => if (findTask p e).isNone then finishTask j.ref stDone 0 0 0 0 0 (delJob j.ref e) else e
    | none => e) e

/-- ROUND_END: every item of the round is visible; the task returns between rounds and the REARM completes (R297, R299). -/
def doRoundEnd (r : TaskRef) (e : Engine) : Engine :=
  match findJob r e, findTask r e with
  | some j, some t =>
    let finished := j.issued && j.open_.isEmpty && j.heldOut.isEmpty && j.xfers.isEmpty && decide (j.acks = 0) && decide (j.total ≤ j.lead)
    if !alive e || !dPersist t.desc || j.between || j.rearm.isNone || j.fault.isSome || !finished then e
    else
      let e := countVector j e
      let items := itemsOf j j.total
      let fl := orFlags j.flags (clipFlag t j.quantised j.clipped e)
      let e := finishRearm j (doneStatus j.flags) 0 fl items e
      let e := updTask r (fun t => { t with
        flags := orFlags t.flags fl, clipped := t.clipped + j.clipped, quantised := t.quantised + j.quantised }) e
      let e := updJob r (fun k => { newJob t e with
        slot := k.slot, sumItems := k.sumItems + items, between := true }) e
      let e := match j.slot with
        | some s => setBit (.slcStreamSts j.slice) Fld.SLC_STREAM_STS_SLOT_PERSIST s true e
        | none => e
      serveRearm j.slice (j.slot.getD 0) e
  | _, _ => e

/-- COMPLETION_WRITE: the next record of a ring is written (R47, R50), and what waits on it goes on. -/
def completionWrite (r : Nat) (e : Engine) : Engine := finishRearmEnds (writeRecord r e)

/-- CPL_WRITE_FAULT: the write of the next record fails (R54). -/
def completionFault (r : Nat) (e : Engine) : Engine := finishRearmEnds (doCplWriteFault r e)

/-! Stream configuration and the start-up ring (R291, R308 to R310). -/

/-- A task in flight that uses a queue of slice `n` that satisfies a test. -/
def usesQueue (n : Nat) (sel : Nat → Bool) (t : Task) : Bool :=
  decide (t.phase ≠ .ended) && usesStream (dOpcode t.desc) && decide (dq t.desc 1 4 2 = n) && sel (queueOf t.desc)

/-- STREAM_CFG_WRITE (R291): a queue keeps its buffers in use. -/
def doStreamCfgWrite (n : Nat) (v : Word) (e : Engine) : Engine :=
  let depth (v : Word) (q : Nat) : Nat := getFld v (Fld.SLC_STREAM_CFG_DEPTH q)
  let qs := List.range 8
  if !alive e || decide (4 ≤ n) || qs.any (fun q => decide (64 < depth v q)) || decide (256 < (qs.map (depth v)).foldl (· + ·) 0) then e
  else
    let old := getReg (.slcStreamCfg n) e
    let e := setReg (.slcStreamCfg n) (v &&& (Reg.slcStreamCfg n).spec.rw) e
    -- the outputs of tasks in flight that use a changed queue are undefined (R293)
    let e := { e with tasks := e.tasks.map (fun t => if usesQueue n (fun q => decide (depth v q ≠ depth old q)) t then { t with undef := true } else t) }
    forEach qs (fun q e =>
      setF (.slcQueueSts n) (Fld.SLC_QUEUE_STS_FREE q) (depth v q - (depth old q - freeBufs n q e)) e) e

/-- Slots of the start-up ring; 0 where it is disabled (R308). -/
def sringSlots (e : Engine) : Nat := getF .sringBase Fld.SRING_BASE_SLOTS e

/-- SRING_TAIL_WRITE (R309). -/
def doSringTailWrite (v : Nat) (e : Engine) : Engine :=
  let n := sringSlots e
  let head := getF .sringHead Fld.SRING_HEAD_HEAD e
  let p (t : Nat) : Nat := (t + n - head) % n
  if !alive e || decide (n ≤ v) then e
  else if p v < p (getF .sringTail Fld.SRING_TAIL_TAIL e) then
    logEvent { cluster := 0, slice := 0, typ := 0x07, ref := v, arg := head } (setF .sts Fld.STS_SRING_OVERRUN 1 e)
  else setF .sringTail Fld.SRING_TAIL_TAIL v e

/-- SRING_BASE_WRITE (R310). -/
def doSringBaseWrite (v : Word) (e : Engine) : Engine :=
  if !alive e || decide (getF .sringHead Fld.SRING_HEAD_HEAD e ≠ getF .sringTail Fld.SRING_TAIL_TAIL e) ||
     getB .sringHead Fld.SRING_HEAD_BUSY e then e
  else
    setF .sringTail Fld.SRING_TAIL_TAIL 0 (setF .sringHead Fld.SRING_HEAD_HEAD 0
      (setReg .sringBase (v &&& Reg.sringBase.spec.rw) e))

/-- Host address of the slot at HEAD. -/
def sringSlot (e : Engine) : Nat :=
  getF .sringBase Fld.SRING_BASE_BASE e * 4096 + 128 * getF .sringHead Fld.SRING_HEAD_HEAD e

/-- SRING_EXECUTE (R309): the descriptor at HEAD becomes the start-up task; given again once that task has ended, its
completion is written and HEAD advances. -/
def doSringExecute (e : Engine) : Engine :=
  if !alive e || decide (sringSlots e < 3) then e
  else match findTask .sring e with
    | none =>
      if !enabled e || decide (getF .sringHead Fld.SRING_HEAD_HEAD e = getF .sringTail Fld.SRING_TAIL_TAIL e) ||
         decide (8192 ≤ inflightAll e) then e
      else
        addTask { ref := .sring, desc := BitVec.ofNat 512 (hostNat (sringSlot e) 64 e), priv := 3, domain := 0 }
          (setF .sringHead Fld.SRING_HEAD_BUSY 1 e)
    | some t =>
      if t.phase ≠ .ended then e
      else
        let rec_ := recordBytes 1 t.status t.detail t.flags (BitVec.ofNat 32 (dSeq t.desc)) t.items t.clipped t.quantised (dTag t.desc)
        let e := hostWrite (sringSlot e + 64) rec_ (delTask .sring e)
        setF .sringHead Fld.SRING_HEAD_LAST_STATUS t.status (setF .sringHead Fld.SRING_HEAD_BUSY 0
          (setF .sringHead Fld.SRING_HEAD_HEAD ((getF .sringHead Fld.SRING_HEAD_HEAD e + 1) % sringSlots e) e))

end Sys2Proof.Machine
end

