-- ==== Sys2Proof/Machine/Registers.lean ====
section
/-! DEFINITION. Reads and writes of the register window, with the behaviour of every field that has one (R9 to R11, R447
to R454; the table "State-dependent writes"). -/

namespace Sys2Proof.Machine

/-- The register and the lowest bit of an access that R9 allows: naturally aligned, 4 or 8 bytes; none for another. -/
def regAccess (off size : Nat) : Option (Reg × Nat) :=
  if size = 8 ∧ off % 8 = 0 then (Reg.ofOffset? off).map (fun r => (r, 0))
  else if size = 4 ∧ off % 4 = 0 then (Reg.ofOffset? (off / 8 * 8)).map (fun r => (r, 8 * (off % 8)))
  else none

/-- The bits that an access of `size` bytes from bit `lo` covers. -/
def accessMask (size lo : Nat) : Word := BitVec.ofNat 64 ((2 ^ (8 * size) - 1) * 2 ^ lo)

/-- The slice of the register is gated (R450). -/
def regGated (r : Reg) (e : Engine) : Bool :=
  match regSlice r with
  | some n => slicePoweredOff n e
  | none => false

/-! Reads. -/

/-- The 64 bits a register reads as (R428, R450). -/
def regView (r : Reg) (e : Engine) : Word :=
  if e.inReset.isSome then (if r = .initSts then getReg r e else 0)
  else if regGated r e then (match r with | .slcSts _ => 3 | _ => 0)
  else getReg r e

/-- A read of the window: the value, and the shadow of SHD_TIME (R447, R454). -/
def regRead (off size : Nat) (e : Engine) : Word × Engine :=
  match regAccess off size with
  | none => (0, e)
  | some (r, lo) =>
    let v := regView r e
    if r = .time ∧ size = 4 ∧ e.inReset.isNone then
      if lo = 0 then (v &&& 0xFFFFFFFF, { e with timeShadow := some (v.extractLsb' 32 32) })
      else match e.timeShadow with
        | some s => (s.zeroExtend 64, { e with timeShadow := none })
        | none => (v >>> 32, e)
    else (BitVec.ofNat 64 (bitsOf v.toNat lo (8 * size)), e)

/-! Writes. -/

/-- Stores and clears the fields of a register by their access codes (R10, R448). -/
def storeReg (r : Reg) (w mask : Word) (e : Engine) : Engine :=
  let old := getReg r e
  let s := r.spec
  let v := ((old &&& ~~~(s.rw &&& mask)) ||| (w &&& s.rw &&& mask)) &&& ~~~(w &&& s.w1c &&& mask)
  if v = old then e else setReg r v e

/-- The written word as the whole register would read. -/
def merged (r : Reg) (w mask : Word) (e : Engine) : Word := (getReg r e &&& ~~~mask) ||| (w &&& mask)

/-- A write of 1 to a bit of the access. -/
def wrote1 (w mask : Word) (f : Field) : Bool := decide (getFld (w &&& mask) f = 1)

/-- The access covers a field. -/
def covers (mask : Word) (f : Field) : Bool := decide (getFld mask f ≠ 0)

/-- Every ring is STOPPED (R29). -/
def ringsStopped (e : Engine) : Bool := e.front.rings.all (fun q => decide (q.2.state = .stopped))

/-- A write of SHD_RING_CMD: none while GO is 1; RING and CMD are stored, and GO executes (R28, R29). -/
def writeRingCmd (w mask : Word) (ok : Bool) (e : Engine) : Engine :=
  if getB .ringCmd Fld.RING_CMD_GO e then e
  else
    let e := storeReg .ringCmd w mask e
    if wrote1 w mask Fld.RING_CMD_GO then
      let r := getF .ringCmd Fld.RING_CMD_RING e
      match getF .ringCmd Fld.RING_CMD_CMD e with
      | 1 => doStart r ok e
      | 2 => doStop r e
      | 3 => doAbort r e
      | c => doRingCmdOther r c e
    else e

/-- A write of SHD_CTL (R431, R453). -/
def writeCtl (w mask : Word) (e : Engine) : Engine :=
  let v := merged .ctl w mask e
  let poll := getB .ctl Fld.CTL_DOORBELL_POLL e
  let on := decide (getFld v Fld.CTL_ENABLE = 1)
  let e := if !covers mask Fld.CTL_ENABLE then e else if on then doEnableSet e else doEnableClear e
  let e := setF .ctl Fld.CTL_PRECISE_DEFAULT (getFld v Fld.CTL_PRECISE_DEFAULT) e
  let e := setF .ctl Fld.CTL_DOORBELL_POLL (getFld v Fld.CTL_DOORBELL_POLL) e
  if poll && decide (getFld v Fld.CTL_DOORBELL_POLL = 0) && alive e then allLineReads e else e

/-- A write of the OFF bits (R430, R436). -/
def writePwrSlice (w mask : Word) (e : Engine) : Engine :=
  if !covers mask Fld.PWR_SLICE_OFF then e
  else
    let v := getFld (merged .pwrSlice w mask e) Fld.PWR_SLICE_OFF
    let old := getF .pwrSlice Fld.PWR_SLICE_OFF e
    forEach [1, 2, 3] (fun n e =>
      if bitsOf v (n - 1) 1 = bitsOf old (n - 1) 1 then e
      else if bitsOf v (n - 1) 1 = 1 then doSlicePowerOff n e else doSlicePowerUp n e) e

/-! Writes that break a rule for host software, and what they leave undefined (the second group of the table
"State-dependent writes"). -/

/-- A task in flight that names pooling profile `p` of slice `n` (R156). -/
def namesProfile (n p : Nat) (t : Task) : Bool :=
  decide (t.phase ≠ .ended) && [0x01, 0x02, 0x05].contains (dOpcode t.desc) && decide (dq t.desc 1 4 2 = n) &&
  decide (dq t.desc 4 0 5 = p)

/-- A task in flight that names expert profile `p` of slice `n` (R167). -/
def namesMoe (n p : Nat) (t : Task) : Bool :=
  decide (t.phase ≠ .ended) && decide (dq t.desc 1 4 2 = n) &&
  (decide (dOpcode t.desc = 0x04) && decide (dq t.desc 3 0 4 = p) || decide (dOpcode t.desc = 0x05) && decide (dq t.desc 2 49 4 = p))

/-- Steps between their first GRAD_SCATTER and their full application (R229). -/
def openSteps (e : Engine) : List Nat :=
  let k := openStep e
  let begun := e.grad.coal.any (fun c => decide (c.step = k)) ||
    e.tasks.any (fun t => decide (t.phase = .running) && decide (dOpcode t.desc = 0x08) && decide (t.step = k))
  (match e.grad.closing with | some c => [c.step] | none => []) ++ (match e.grad.arrival with | some a => [a.1] | none => []) ++
  (if begun then [k] else [])

/-- A loaded table that updates uses parameter set `p`. -/
def setInUse (p : Nat) (e : Engine) : Bool :=
  e.ctxs.any (fun q => q.2.loaded && decide (cRule q.2.img ≠ 0) && decide (cOptSet q.2.img = p))

/-- The parameter sets in use that a register holds a part of, or whose schedule it does. -/
def setsOf (r : Reg) (e : Engine) : List Nat :=
  let byEta (s : Nat) : List Nat := (List.range 256).filter (fun p => decide (getF (.optCtl p) Fld.OPT_CTL_SCHED e = s) && setInUse p e)
  match r with
  | .optBeta p | .optEps p | .optDecay p | .optCtl p => if setInUse p e then [p] else []
  | .schedSeg s _ | .schedEta s _ | .schedOrigin s => byEta s
  | _ => []

/-- A write of the register now breaks a rule for host software. -/
def writeBreaks (r : Reg) (e : Engine) : Bool :=
  let closing := getB .stepSts Fld.STEP_STS_CLOSING e
  match r with
  | .slcProfCtl n p | .slcProfHome n p | .slcProfScratch n p | .slcProfBias n p => e.tasks.any (namesProfile n p)
  | .slcMoeCtl n p | .slcMoeSlots n p | .slcMoeCount n p => e.tasks.any (namesMoe n p)
  | .slcGradSpill n | .slcGradSort n => closing || decide (getF (.slcGradSts n) Fld.SLC_GRAD_STS_HELD e ≠ 0)
  | .slcPark _ => closing
  | .logHost n => decide (getF (.logPi n) Fld.LOG_PI_PI e ≠ getF (.logCi n) Fld.LOG_CI_CI e) || getB .logCtl Fld.LOG_CTL_FLUSH e
  | r => !(openSteps e).isEmpty && !(setsOf r e).isEmpty

/-- The outputs of tasks are undefined. -/
def spoilTasks (sel : Task → Bool) (e : Engine) : Engine :=
  { e with tasks := e.tasks.map (fun t => if sel t then { t with undef := true } else t) }

/-- The contributions of the steps held in slice `n` are undefined (R199). -/
def spoilSteps (n : Nat) (e : Engine) : Engine :=
  let g := e.grad
  match g.closing with
  | none => setGrad { g with spoilt := (n, openStep e) :: g.spoilt } e
  | some c =>
    let rs := c.runs.foldl (fun (a : List Run × Engine) r =>
      if r.slice ≠ n then (a.1 ++ [r], a.2)
      else
        let f := freePairs r.recs a.2
        (a.1 ++ [{ r with recs := f.1, left := f.1.drop (r.recs.length - r.left.length) }], f.2)) (([] : List Run), e)
    setGrad { g with closing := some { c with runs := rs.1 }, spoilt := (n, openStep e) :: (n, c.step) :: g.spoilt } rs.2

/-- The parked arrivals of slice `n` are undefined (R245). -/
def spoilParked (n : Nat) (e : Engine) : Engine :=
  let ws := e.upd.waits.foldl (fun (a : List StateWait × Engine) w =>
    match w.use with
    | .arrival x true =>
      if w.slice ≠ n then (a.1 ++ [w], a.2)
      else
        let l := takeFreeLanes x.pairs.length a.2
        (a.1 ++ [{ w with use := .arrival { x with pairs := l.1 } true }], l.2)
    | _ => (a.1 ++ [w], a.2)) (([] : List StateWait), e)
  setUpd { e.upd with waits := ws.1 } ws.2

/-- The host log ring of slice `n` as the register places it holds undefined contents (R421). -/
def spoilLog (n : Nat) (e : Engine) : Engine :=
  if !drains n e then e
  else
    let w := takeFreeBytes (64 * 2 ^ getF (.logHost n) Fld.LOG_HOST_LOG2_SIZE e) e
    setMem { e.mem with host := memWrite (getF (.logHost n) Fld.LOG_HOST_BASE e * 4096) w.1 e.mem.host } w.2

/-- What a write that breaks its rule leaves undefined; `old` is the engine before it. -/
def spoilBy (r : Reg) (old e : Engine) : Engine :=
  if !writeBreaks r old then e
  else match r with
    | .slcProfCtl n p | .slcProfHome n p | .slcProfScratch n p | .slcProfBias n p => spoilTasks (namesProfile n p) e
    | .slcMoeCtl n p | .slcMoeSlots n p | .slcMoeCount n p => spoilTasks (namesMoe n p) e
    | .slcGradSpill n | .slcGradSort n => spoilSteps n e
    | .slcPark n => spoilParked n e
    | .logHost n =>
      let f := spoilLog n old
      spoilLog n { e with mem := f.mem, freeCtr := f.freeCtr }
    | r => setUpd { e.upd with spoilt :=
        ((setsOf r old).map (fun p => (openSteps old).map (fun k => (p, k)))).flatten ++ e.upd.spoilt } e

/-- The behaviour of a write to a register; `ok`: a host read that it makes succeeds. -/
def writeReg (r : Reg) (w mask : Word) (ok : Bool) (e : Engine) : Engine :=
  let v := merged r w mask e
  match r with
  | .ringtabBase | .ringtabSize | .dbellBase => if ringsStopped e then storeReg r w mask e else e
  | .ringCmd => writeRingCmd w mask ok e
  | .ctl => writeCtl w mask e
  | .stepBase => if covers mask Fld.STEP_BASE_FIRST_STEP then doFirstStep (getFld v Fld.STEP_BASE_FIRST_STEP) e else e
  | .podCfg => if getB .ctl Fld.CTL_ENABLE e then e else storeReg r w mask e
  | .slcWayCfg n => doWayCfgWrite n v e
  | .slcStreamCfg n => doStreamCfgWrite n v e
  | .sringTail => if covers mask Fld.SRING_TAIL_TAIL then doSringTailWrite (getFld v Fld.SRING_TAIL_TAIL) e else e
  | .sringBase => doSringBaseWrite v e
  | .slcCtl n =>
    if !covers mask Fld.SLC_CTL_OFFLINE then e
    else if wrote1 w mask Fld.SLC_CTL_OFFLINE then doSliceOffline n e else doSliceOnline n e
  | .pwrSlice => writePwrSlice w mask e
  | .pwrProfile => if covers mask Fld.PWR_PROFILE_PROFILE then doProfile (getFld v Fld.PWR_PROFILE_PROFILE) e else e
  | .safeInject => injectWrite (getFld v Fld.SAFE_INJECT_TARGET) (getFld v Fld.SAFE_INJECT_SLICE) (wrote1 w mask Fld.SAFE_INJECT_ARM) e
  | .logCtl => let e := storeReg r w mask e; if wrote1 w mask Fld.LOG_CTL_FLUSH then doLogFlush e else e
  | .slcSketchClr n => if wrote1 w mask Fld.SLC_SKETCH_CLR_CLEAR then doSketchClear n e else e
  | .ucieCtl =>
    let e := storeReg r w mask e
    let e := if wrote1 w mask Fld.UCIE_CTL_ADMIT then doAdmit e else e
    if wrote1 w mask Fld.UCIE_CTL_EJECT then doUcieEject e else e
  | .slcDriftCtl n => let e := storeReg r w mask e; if wrote1 w mask Fld.SLC_DRIFT_CTL_GO then doDriftGo n e else e
  | .reset =>
    if wrote1 w mask Fld.RESET_FULL then doResetFull e
    else if wrote1 w mask Fld.RESET_ENGINE then doResetEngine e else e
  | .initCtl =>
    let e := if wrote1 w mask Fld.INIT_CTL_TRAIN then doTrain e else e
    if wrote1 w mask Fld.INIT_CTL_CONTINUE then doContinue e else e
  | .faultSts | .safeCfg => driveAlert (storeReg r w mask e)
  | .aliveCfg =>
    let e := storeReg r w mask e
    if !getB .aliveCfg Fld.ALIVE_CFG_ENABLE e && decide (e.pinAlive = .high) then { e with pinAlive := .low } else e
  | _ => spoilBy r e (storeReg r w mask e)

/-- A write that reaches register `r` (R9, R428, R450): none while a reset is in progress or the slice is gated. It wakes the
engine but for SHD_PWR_CTL (R434), and ends the loss of the item it rewrites (R396). -/
def atReg (r : Reg) (f : Engine → Engine) (e : Engine) : Engine :=
  if e.inReset.isSome || regGated r e then e
  else
    let e := if r = .pwrCtl then e else touch e
    f { e with lostRegs := e.lostRegs.filter (fun x => decide (x ≠ r)) }

/-- A write of the window by the host, at the head's BAR or relayed (R9, R447). -/
def regWrite (off size : Nat) (val : Word) (ok : Bool) (e : Engine) : Engine :=
  match regAccess off size with
  | none => e
  | some (r, lo) => atReg r (writeReg r (val <<< lo) (accessMask size lo) ok) e

end Sys2Proof.Machine
end

