-- ==== Sys2Proof/Machine/Messages.lean ====
section
/-! DEFINITION. The arrival of a message: what the receiver checks, in which order it delivers, and which operation a
message of each TYPE starts (13_pods_and_links.md; 03 R95; 09 R274, R275); the host's accesses through the head. -/

namespace Sys2Proof.Machine

/-! Host accesses through the head (R385, R386). -/

/-- The head relays (R428): no reset in progress and step 2 passed. -/
def relayOpen (e : Engine) : Bool :=
  e.inReset.isNone && decide (3 ≤ initState e) && !(decide (initState e = 15) && decide (e.power.failStep ≤ 2))

/-- The data of a host read. -/
def hostGets (v : Word) (e : Engine) : Engine := { e with busData := v }

/-- All ones, what a relayed read without an answer returns. -/
def allOnes : Word := 0xFFFFFFFFFFFFFFFF

/-- An access to this device's own window: a write, or a read. -/
def localAccess (off size : Nat) (wr : Option Word) (ok : Bool) (e : Engine) : Engine :=
  match wr with
  | some v => regWrite off size v ok e
  | none =>
    let x := regRead off size e
    hostGets x.1 x.2

/-- A relayed access waits for its REG_DATA. -/
def awaitData (slot tag : Nat) (e : Engine) : Engine :=
  setNet { e.net with relays := e.net.relays ++ [{ tag, slot, t0 := now e }] } e

/-- BAR_ACCESS at the head (R385): slot, offset in the slot, size, the value of a write, the tag of a read, and whether a
host read that a local write makes succeeds. -/
def doBarAccess (slot off size : Nat) (wr : Option Word) (tag : Nat) (ok : Bool) (path : Engine → Engine) (e : Engine) : Engine :=
  if thisDev e ≠ 0 then e
  else if slot = 0 then localAccess off size wr ok e
  else if slot = 64 then path e
  else if 64 < slot then (if wr.isNone then hostGets 0 e else e)
  else if !relayOpen e then (if wr.isNone then hostGets allOnes e else e)
  else match wr with
    | some v =>
      if reachable slot e then sendMsg (hdrTo slot 0 e) (.regWrite off size v) (touch e) else relayReport slot 1 e
    | none => sendMsg (hdrTo slot 0 e) (.regRead off size tag) (awaitData slot tag (touch e))

/-- The ports of SHD_HOST_PATH. -/
def hostPorts (e : Engine) : List Nat :=
  (List.range (min 4 (getF .hostPath Fld.HOST_PATH_HOPS e))).map (fun k => getF .hostPath (Fld.HOST_PATH_PORT k) e)

/-- How a message carries the ports it still has to leave through (the model's own packing: the manual gives none). -/
def packPorts (ps : List Nat) : Nat := ps.length + (ps.zipIdx.map (fun x => x.1 * 2 ^ (4 * x.2 + 3))).foldl (· + ·) 0

/-- PATH_WINDOW_ACCESS (R386): made by the host at the head (`ports` none), or arrived over port `inPort` with the ports
that are left of its path; with none left the access is this package's own, whatever its DEVICE. -/
def doPathAccess (ports : Option (List Nat)) (inPort off size : Nat) (wr : Option Word) (tag : Nat) (ok : Bool) (e : Engine) : Engine :=
  let ps := ports.getD (hostPorts e)
  let body : Body := match wr with | some v => .regWrite off size v | none => .regRead off size tag
  match ps with
  | p :: rest =>
    if e.inReset.isSome || inFault e then e
    else
      let e := if ports.isNone && wr.isNone then awaitData 64 tag e else e
      emit p ⟨{ hdrTo 0 0 e with arg := packPorts rest }, body⟩ (touch e)
  | [] =>
    if ports.isNone then localAccess off size wr ok e
    else match wr with
      | some v => regWrite off size v ok e
      | none =>
        let x := regRead off size e
        if e.inReset.isSome || inFault e then x.2 else emit inPort ⟨hdrTo 0 0 e, .regData tag x.1⟩ x.2

/-- RELAY_READ_TIMEOUT: no REG_DATA within 50 µs (R385). -/
def doRelayTimeout (tag : Nat) (e : Engine) : Engine :=
  match e.net.relays.find? (fun r => decide (r.tag = tag)) with
  | none => e
  | some r =>
    if e.inReset.isSome || !elapsedUs r.t0 50 e then e
    else
      let e := setNet { e.net with relays := e.net.relays.filter (fun x => decide (x.tag ≠ tag)) } e
      relayReport r.slot 0 (hostGets allOnes e)

/-- REG_DATA at the head. -/
def onRegData (tag : Nat) (v : Word) (e : Engine) : Engine :=
  if e.net.relays.any (fun r => decide (r.tag = tag)) then
    hostGets v (setNet { e.net with relays := e.net.relays.filter (fun x => decide (x.tag ≠ tag)) } e)
  else e

/-! What a message is refused for (R95, R437). -/

/-- The messages of R95. -/
def tableChecked (b : Body) : Bool :=
  match b with
  | .subList .. | .rowReq .. | .replicaFetch .. | .replicaAction .. | .rowWriteReq .. | .chainRow .. | .mcastRow ..
  | .mcastRemove .. | .token .. | .importRow .. | .migrateCopy .. => true
  | _ => false

/-- What REF of a REJECT names: the version and row of a multicast, the row of a state message, else the REF of the message. -/
def rejectRef (m : Msg) : Nat :=
  match m.b with
  | .mcastRow _ row _ _ => mcastItem row m.h.ref
  | .mcastRemove _ row _ => mcastItem row m.h.ref
  | .stateRead _ row _ => row
  | .stateWrite _ row _ => row
  | _ => m.h.ref

/-- A REJECT goes back to the sender. -/
def rejectMsg (m : Msg) (reason : Nat) (e : Engine) : Engine :=
  sendAnswer { hdrTo m.h.srcDev m.h.srcSlice e with tableId := m.h.tableId, ref := rejectRef m, arg := bodyType m.b } (.reject reason) e

/-- The slot is loaded with the generation that the message carries. -/
def genOk (h : Hdr) (e : Engine) : Bool := (slotOf h.tableId e).loaded && decide (cGen (imgOf h.tableId e) = h.gen)

/-! Messages for a shard that has moved (R274, R275). -/

/-- The row that a message of one row asks of its home. -/
def homeRow (b : Body) : Option Nat :=
  match b with
  | .rowReq _ ask => some ask.row
  | .replicaFetch _ row => some row
  | .replicaAction _ row _ => some row
  | .rowWriteReq _ row _ _ => some row
  | .chainRow _ _ row _ _ _ chain _ => if chain = 255 then some row else none
  | .token _ row _ _ => some row
  | .importRow _ row _ _ => some row
  | _ => none

/-- The shard has moved away from this device. -/
def movedRow (slot row : Nat) (e : Engine) : Bool :=
  let p := place slot row e
  !p.all && decide (p.device ≠ thisDev e)

/-- This device still forwards for the shard (R274). -/
def forwards (slot row : Nat) (e : Engine) : Bool :=
  e.hot.migs.any (fun m => decide (m.slot = slot) && decide (m.shard = (place slot row e).shard) && decide (m.phase = .forward))

/-- Sends a message of a moved row on: to the new home in the forwarding window, back to its sender after it, and from its
own sender to the current home (R274; notes/assumptions/24.md). -/
def passOn (m : Msg) (slot row : Nat) (e : Engine) : Engine :=
  let p := place slot row e
  if m.h.srcDev = thisDev e then
    let h := { m.h with dstDev := p.device, dstSlice := p.slice, epoch := p.epoch, hops := 0, fwd := false }
    if reachable p.device e then post ⟨h, m.b⟩ e
    else if awaitsAnswer m.b then failTask (refOf m.h.ref) stDataLost 0xA0 e else e
  else if forwards slot row e then
    emit (portTo p.device e) ⟨{ m.h with dstDev := p.device, dstSlice := p.slice, fwd := true }, m.b⟩ e
  else
    emit (portTo m.h.srcDev e) ⟨{ m.h with dstDev := m.h.srcDev, dstSlice := m.h.srcSlice, fwd := true }, m.b⟩ e

/-- Rows of a sub-list with their weights, by the device that is now their home. -/
def groupRows (rows : List (Nat × Option Nat)) (ws : List F32) (key : Nat → Nat) :
    List (Nat × List ((Nat × Option Nat) × F32)) :=
  (rows.zipIdx).foldl (fun a x => let k := key x.1.1; tput k (tget [] k a ++ [(x.1, ws.getD x.2 f32One)]) a) []

/-- A sub-list that has come back to its owner is placed again under the current shard map; its pooling counts as a part of
the first one (R274; notes/assumptions/25.md). -/
def replaceSub (h : Hdr) (bag pos tile : Nat) (fl : PoolFlags) (rows : List (Nat × Option Nat)) (ws : List F32) (e : Engine) : Engine :=
  let r := refOf h.ref
  match findJob r e with
  | none => e
  | some j =>
    match j.pool with
    | none => e
    | some pr =>
      let slot := h.tableId
      let one (acc : SubAcc × Engine) (x : (Nat × Option Nat) × F32) : SubAcc × Engine :=
        match x.1.2 with
        | none => placeRow r pr.cfg bag 0 slot x.1.1 x.2 none acc.1 acc.2
        | some rb =>
          let t := takeId acc.2
          let mb : Mapped := if rb = 2 ^ 40 then .zero else .row fl.subB rb false
          placeProduct r pr.cfg bag 0 (2 ^ 32 + t.1) x.2 (.row slot x.1.1 false) mb acc.1 t.2
      let a := ((rows.zipIdx).map (fun x => (x.1, ws.getD x.2 f32One))).foldl one ([], e)
      let e := forEach a.1 (fun s e =>
        let p : Place := { place slot ((s.2.map (·.1)).headD 0) e with device := s.1.1, slice := s.1.2.1 }
        sendMsg { tableHdr s.1.1 s.1.2.1 slot p e with ref := h.ref, arg := bag, srcSlice := h.srcSlice }
          (.subList bag pos tile { fl with part := true, last := true, extra := 0 }
            (s.2.map (fun x => (x.1, x.2.1))) (if fl.weighted then s.2.map (·.2.2) else [])) e) a.2
      let late := (100, 0, slot)
      updBag r bag (fun x => { x with partials :=
        if a.1.isEmpty then (if x.partials.contains late then x.partials.erase late else x.partials ++ [(101, 0, slot)])
        else x.partials ++ List.replicate (a.1.length - 1) late }) e

/-- SUB_LIST at a home: the rows that have moved are sent on in parts, and the rest is pooled here (R144, R274). -/
def arriveSubList (m : Msg) (bag pos tile : Nat) (fl : PoolFlags) (rows : List (Nat × Option Nat)) (ws : List F32) (e : Engine) : Engine :=
  let slot := m.h.tableId
  if m.h.srcDev = thisDev e then replaceSub m.h bag pos tile fl rows ws e
  else if !rows.any (fun x => movedRow slot x.1 e) then onSubList m.h bag pos tile fl rows ws e
  else
    let gs := groupRows rows ws (fun row => if movedRow slot row e then (place slot row e).device else 64)
    let away := gs.filter (fun g => decide (g.1 ≠ 64))
    let kept := tget [] 64 gs
    let part (xs : List ((Nat × Option Nat) × F32)) : Msg :=
      ⟨m.h, .subList bag pos tile { fl with part := true, last := true, extra := 0 } (xs.map (·.1))
        (if fl.weighted then xs.map (·.2) else [])⟩
    let e := forEach away (fun g e => passOn (part g.2) slot ((g.2.map (·.1.1)).headD 0) e) e
    if fl.part ∧ kept.isEmpty ∧ away.length = 1 then e
    else onSubList m.h bag pos tile { fl with extra := fl.extra + away.length } (kept.map (·.1))
      (if fl.weighted then kept.map (·.2) else []) e

/-! Delivery. -/

/-- An answer ends one wait of the task it names (R377, R410). -/
def endAwait (h : Hdr) (e : Engine) : Engine :=
  let exact := (h.ref, h.srcDev)
  let l := if e.net.awaits.contains exact then e.net.awaits.erase exact
    else match e.net.awaits.find? (fun a => decide (a.1 = h.ref)) with
      | some a => e.net.awaits.erase a
      | none => e.net.awaits
  setNet { e.net with awaits := l } e

/-- The operation of a message at the device and slice it names. -/
def actOn (m : Msg) (e : Engine) : Engine :=
  let h := m.h
  match m.b with
  | .e2eAck cls seq => onE2eAck h cls seq e
  | .e2eNack cls seq => onE2eNack h cls seq e
  | .gateUp step fl dig => onGateUp h step fl dig e
  | .gateDown step go fl => onGateDown step go fl e
  | .gateAsk step => onGateAsk h step e
  | .endAck step => onEndAck h step (answered h.srcDev 0x06 h.srcSlice step e)
  | .replay step table row one home slice chain fromStart => onReplay step table row one home slice chain fromStart e
  | .drop table => onDrop h table e
  | .dropAck table => onDropAck h table (answered h.srcDev 0x09 table 0 e)
  | .rejoin table => onRejoin h table e
  | .rejoinAck table => onRejoinAck h table (answered h.srcDev 0x0B table 0 e)
  | .shardMap table shard x lost => onShardMap h table shard x lost e
  | .shardMapAck table shard epoch => onShardMapAck h table shard (answered h.srcDev 0x0D table (shard * 256 + epoch) e)
  | .timeSync _ => onTimeSync h e
  | .timeReply t2 t3 err => onTimeReply t2 t3 err e
  | .mcastAck table row ver => mcastAcked h.srcDev table row ver (answered h.srcDev 0x10 table (mcastItem row ver) e)
  | .faultNotice _ _ => loseMember h.srcDev 2 e
  | .ask typ table item => onAsk h typ table item e
  | .stateRead _ row _ => onStateRead h row e
  | .stateData _ row bytes => onStateData h row bytes e
  | .stateWrite _ row bytes => onStateWrite h row bytes e
  | .stateWriteAck _ row => onStateWriteAck h row e
  | .subList bag pos tile fl rows ws => arriveSubList m bag pos tile fl rows ws e
  | .rowReq bag ask => onRowReq h bag ask e
  | .replicaFetch table row => onReplicaFetch h table row e
  | .prefetchHint table rows => onPrefetchHint table rows e
  | .replicaAction _ row action => onReplicaAction h row action h.arg e
  | .rowWriteReq item row v mz => onRowWriteReq h item row v mz e
  | .partial_ bag lanes chk chkInt bits part extra => onPartial h bag lanes chk chkInt bits part extra (endAwait h e)
  | .row bag row v bits => onRow h bag row v bits (if h.arg = 0 then endAwait h e else e)
  | .reject reason =>
    let e := if h.arg = 0x52 ∨ h.arg = 0x53 then answered h.srcDev 0x10 h.tableId h.ref e else endAwait h e
    onReject h reason e
  | .writeDone item bits => onWriteDone h item bits (endAwait h e)
  | .chainRow step _ row count home slice chain pairs =>
    onChainRow h step row count home slice chain pairs (if home = thisDev e then replayAnswered slice (step * 256 + chain) e else e)
  | .chainEnd step home slice chain n =>
    onChainEnd step home slice chain n (if home = thisDev e then replayAnswered slice (step * 256 + chain) e else e)
  | .mcastRow table row kind v => onMcastRow h table row kind v e
  | .mcastRemove table row all => onMcastRemove h table row all e
  | .token item row data rec_ => onToken h item row data rec_ e
  | .importRow item row bytes contents => onImportRow h item row bytes contents e
  | .migrateCopy item row base v st => onMigrateCopy h item row base v st e
  | .regWrite off size v => regWrite off size v true e
  | .regRead off size tag =>
    let x := regRead off size e
    sendMsg (hdrTo h.srcDev 0 x.2) (.regData tag x.1) x.2
  | .regData tag v => onRegData tag v e
  | .dbLine line slots => newLine (thisDev e, line) slots e
  | .hostRead a n => if thisDev e = 0 then sendMsg (hdrTo h.srcDev h.srcSlice e) (.hostData a (hostRead a n e)) e else e
  | .hostData a bytes => setMem { e.mem with host := memWrite a bytes e.mem.host } e
  | .hostWrite a bytes => if thisDev e = 0 then hostWrite a bytes e else e
  | .msi v => if thisDev e = 0 then writeMsix v e else e

/-- A message that passed the link: refused under R95 or R437, sent on for a moved shard, or acted on. -/
def deliver (m : Msg) (e : Engine) : Engine :=
  let slot := m.h.tableId
  let stale := match m.b with
    | .row .. => decide (m.h.arg = 1) && !genOk m.h e
    | .prefetchHint .. | .stateRead .. | .stateData .. | .stateWrite .. | .stateWriteAck .. => !(slotOf slot e).loaded
    | _ => false
  if stale then e
  else if tableChecked m.b && !genOk m.h e then rejectMsg m 0 e
  else if (tableChecked m.b || decide (bodyType m.b = 0x20 ∨ bodyType m.b = 0x22)) && slicePoweredOff m.h.dstSlice e then rejectMsg m 1 e
  else match homeRow m.b with
    | some row => if !(m.h.arg = 2 ∧ bodyType m.b = 0x32) ∧ movedRow slot row e then passOn m slot row e else settle (actOn m e)
    | none => settle (actOn m e)

/-- Delivers the held messages of a source and class whose turn has come (R377). -/
def deliverHeld (k : Nat × Nat) : Nat → Engine → Engine
  | 0, e => e
  | fuel + 1, e =>
    let q := tget 0 k e.net.seqIn
    match e.net.heldIn.find? (fun m => decide (m.h.srcDev = k.1) && decide (bodyClass m.b = k.2) && decide (m.h.seq = q)) with
    | none => e
    | some m =>
      let e := setNet { e.net with heldIn := e.net.heldIn.erase m, seqIn := tput k ((q + 1) % 2 ^ 32) e.net.seqIn } e
      deliverHeld k fuel (deliver m e)

/-- Acknowledges all of a source and class that has been delivered (R377). -/
def ackTo (k : Nat × Nat) (e : Engine) : Engine :=
  sendMsg (hdrTo k.1 0 e) (.e2eAck k.2 ((tget 0 k e.net.seqIn + 2 ^ 32 - 1) % 2 ^ 32)) e

/-- A numbered message: discarded and acknowledged again, held, or delivered with those that waited for it (R377). -/
def inOrder (m : Msg) (e : Engine) : Engine :=
  let k := (m.h.srcDev, bodyClass m.b)
  let q := tget 0 k e.net.seqIn
  if m.h.seq = q then
    let e := setNet { e.net with seqIn := tput k ((q + 1) % 2 ^ 32) e.net.seqIn } e
    let e := deliver m e
    ackTo k (deliverHeld k e.net.heldIn.length e)
  else if seqAfter m.h.seq q then
    if e.net.heldIn.any (fun x => decide (x.h.srcDev = k.1) && decide (bodyClass x.b = k.2) && decide (x.h.seq = m.h.seq)) then e
    else setNet { e.net with heldIn := e.net.heldIn ++ [m] } e
  else ackTo k e

/-- A message that fails its end-to-end CRC: asked for again, or discarded in the CONTROL class (R377, R378). -/
def badCrc (m : Msg) (injected : Bool) (e : Engine) : Engine :=
  let e := logIntegrity 6 (m.h.dstSlice % 4) 0x0B 0 5 injected e
  if bodyClass m.b = 0 ∨ m.h.fwd then e
  else sendMsg (hdrTo m.h.srcDev 0 e) (.e2eNack (bodyClass m.b) m.h.seq) e

/-- A message arrives (R375 to R379, R387, R402): dropped in reset and by a device whose DEVICE is not below POD_SIZE,
forwarded where it is addressed to another device, else checked, ordered and delivered. In the fault state a device that
sends nothing takes only register writes, through which it can be reset. -/
def receive (m : Msg) (e : Engine) : Engine :=
  if e.inReset.isSome || decide (podSize e ≤ thisDev e) then e
  else if inFault e then
    match m.b with
    | .regWrite off size v => if m.h.dstDev = thisDev e ∧ m.h.crcOk then regWrite off size v true e else e
    | _ => e
  else
    let e := touch e
    if m.h.dstDev ≠ thisDev e then forwardMsg m e
    else
      let inj := takeInjection 0x0B (m.h.dstSlice % 4) e
      if inj.1 || !m.h.crcOk then badCrc m inj.1 inj.2
      else if bodyClass m.b = 0 ∨ m.h.fwd then deliver m inj.2
      else inOrder m inj.2

/-- MESSAGE_FORWARD: a message for another device passes through (R379). -/
def doForward (m : Msg) (e : Engine) : Engine :=
  if !alive e || decide (podSize e ≤ thisDev e) || decide (m.h.dstDev = thisDev e) then e else forwardMsg m (touch e)

end Sys2Proof.Machine
end

