-- ==== Sys2Proof/Machine/Run.lean ====
section
/-! DEFINITION. How a command acts on the state: on the engine alone, and how the commands of each kind reach it. -/

namespace Sys2Proof.Machine

/-- A command acts on the engine and leaves the queue. -/
def run (f : Engine → Engine) (s : State) : Host.Outcome State Fault Refusal := .next { s with eng := f s.eng }

/-- A command that names a register of a slice. -/
def atSlice (n : Nat) (r : Reg) (f : Engine → Engine) (e : Engine) : Engine := if 3 < n then e else atReg r f e

/-- An event inside a running engine, with what it lets go on. -/
def live (f : Engine → Engine) (e : Engine) : Engine := if alive e then settle (f e) else e

/-- A doorbell line that has changed wakes the engine (R434). -/
def lineWake (f : Engine → Engine) (e : Engine) : Engine :=
  let t := f e
  if t.front.dbLines = e.front.dbLines then t else touch t

/-- The throttle LEVELs of the stacks. -/
def throttleLevels (e : Engine) : List Nat := (List.range 8).map (fun s => getF (.hbmStackSts s) Fld.HBM_STACK_STS_LEVEL e)

/-- A throttle LEVEL that has changed wakes the engine (R434). -/
def throttleWake (f : Engine → Engine) (e : Engine) : Engine :=
  let t := f e
  if throttleLevels t = throttleLevels e then t else touch t

/-- A 32-bit host read in SHD_TIME (R454). -/
def readTime (off : Nat) (e : Engine) : Engine :=
  let x := regRead off 4 e
  hostGets x.1 x.2

/-- DOORBELL_POLL is cleared: the head reads every doorbell line once (R453). -/
def doPollClear (e : Engine) : Engine :=
  let poll := getB .ctl Fld.CTL_DOORBELL_POLL e
  let e := setF .ctl Fld.CTL_DOORBELL_POLL 0 e
  if poll && alive e then allLineReads e else e

end Sys2Proof.Machine
end

