-- ==== Sys2Proof/Machine/ExecCache.lean ====
section
/-! DEFINITION. The meanings of the commands: row cache, memory completions, sketch and invalidations. -/

namespace Sys2Proof.Machine

/-- WAY_RECONF_DONE (R326). -/
def execWayReconfDone (n : Nat) (s : State) : Host.Outcome State Fault Refusal :=
  run (doWayReconfDone n) s

/-- SKETCH_HALVING (R256). -/
def execSketchHalving (n : Nat) (s : State) : Host.Outcome State Fault Refusal :=
  run (doSketchHalving n) s

/-- SECTOR_READ_DONE (R333). -/
def execSectorReadDone (id : Nat) (acc : Access) (d : Datum) (way : Option Nat)
    (s : State) : Host.Outcome State Fault Refusal :=
  run (sectorReadDone id acc d way) s

/-- WAY_ACCESS_COUNT_WRAP (R329). -/
def execWayAccessCountWrap (n : Nat) (w : Nat) (s : State) : Host.Outcome State Fault Refusal :=
  run (doWayAccessCountWrap n w) s

/-- HBM_WRITE_DONE (R319). -/
def execHbmWriteDone (id : Nat) (way : Option Nat) (s : State) : Host.Outcome State Fault Refusal :=
  run (doHbmWriteDone id way) s

/-- CRUMB_WRITEBACK_DONE (R323). -/
def execCrumbWritebackDone (id : Nat) (s : State) : Host.Outcome State Fault Refusal :=
  run (doCrumbWritebackDone id) s

/-- INVALIDATION (R86). -/
def execInvalidation (id : Nat) (n : Nat) (s : State) : Host.Outcome State Fault Refusal :=
  run (doInvalidation id n) s

/-- INVALIDATION_ACK (R86). -/
def execInvalidationAck (id : Nat) (n : Nat) (s : State) : Host.Outcome State Fault Refusal :=
  run (doInvalidationAck id n) s

end Sys2Proof.Machine
end

