-- ==== Sys2Proof/Machine/ExecLinks.lean ====
section
/-! DEFINITION. The meanings of the commands: links, host relay, time exchange and the expansion die. -/

namespace Sys2Proof.Machine

/-- UCIE_ADMIT (R371). -/
def execUcieAdmit (cap : Option (List Byte)) (s : State) : Host.Outcome State Fault Refusal :=
  run (atReg .ucieCtl (doUcieAdmit cap)) s

/-- UCIE_EJECT (R371). -/
def execUcieEject (s : State) : Host.Outcome State Fault Refusal :=
  run (atReg .ucieCtl doUcieEject) s

/-- BAR_ACCESS (R385). -/
def execBarAccess (slot : Nat) (off : Nat) (size : Nat) (wr : Option Word) (tag : Nat) (ok : Bool)
    (s : State) : Host.Outcome State Fault Refusal :=
  run (doBarAccess slot off size wr tag ok (doPathAccess none 0 off size wr tag ok)) s

/-- PATH_WINDOW_ACCESS (R386). -/
def execPathWindowAccess (ports : Option (List Nat)) (port : Nat) (off : Nat) (size : Nat) (wr : Option Word) (tag : Nat) (ok : Bool)
    (s : State) : Host.Outcome State Fault Refusal :=
  run (doPathAccess ports port off size wr tag ok) s

/-- RELAY_READ_TIMEOUT (R385). -/
def execRelayReadTimeout (tag : Nat) (s : State) : Host.Outcome State Fault Refusal :=
  run (doRelayTimeout tag) s

/-- FLIT (R374). -/
def execFlit (link : Nat) (data : List Byte) (nack : Bool) (s : State) : Host.Outcome State Fault Refusal :=
  run (doFlit link data nack) s

/-- PORT_LINK_DOWN (R374). -/
def execPortLinkDown (p : Nat) (s : State) : Host.Outcome State Fault Refusal :=
  run (doPortDown p) s

/-- E2E_RESEND_TIMEOUT (R377). -/
def execE2eResendTimeout (dev : Nat) (cls : Nat) (seq : Nat) (s : State) : Host.Outcome State Fault Refusal :=
  run (doResendTimeout dev cls seq) s

/-- CTRL_REPEAT_TIMER (R378). -/
def execCtrlRepeatTimer (peer : Nat) (answer : Nat) (table : Nat) (item : Nat)
    (s : State) : Host.Outcome State Fault Refusal :=
  run (doCtrlRepeat peer answer table item) s

/-- MESSAGE_FORWARD (R379). -/
def execMessageForward (m : Msg) (s : State) : Host.Outcome State Fault Refusal :=
  run (doForward m) s

/-- BAD_MESSAGE (R376). -/
def execBadMessage (src : Nat) (typ : Nat) (s : State) : Host.Outcome State Fault Refusal :=
  run (doBadMessage src typ) s

/-- TIME_EXCHANGE_TIMER (R384). -/
def execTimeExchangeTimer (s : State) : Host.Outcome State Fault Refusal :=
  run doTimeExchange s

/-- TIME_REPLY_LOSS (R384). -/
def execTimeReplyLoss (s : State) : Host.Outcome State Fault Refusal :=
  run doTimeReplyLoss s

/-- SECTOR_DATA (R371). -/
def execSectorData (id : Nat) (acc : Access) (d : Datum) (s : State) : Host.Outcome State Fault Refusal :=
  run (doSectorData id acc d) s

/-- UCIE_LINK_DOWN (R372). -/
def execUcieLinkDown (s : State) : Host.Outcome State Fault Refusal :=
  run doUcieDown s

/-- D2D_BUNDLE_FAIL (R410). -/
def execD2dBundleFail (x : Nat) (s : State) : Host.Outcome State Fault Refusal :=
  run (doBundleFail x) s

end Sys2Proof.Machine
end

