-- ==== Sys2Proof/Machine/ExecMsgs.lean ====
section
/-! DEFINITION. The meanings of the commands: the arrival of a message, one command for each TYPE. -/

namespace Sys2Proof.Machine

/-- E2E_ACK (R377). -/
def execE2eAck (h : Hdr) (cls : Nat) (seq : Nat) (s : State) : Host.Outcome State Fault Refusal :=
  run (receive ⟨h, .e2eAck cls seq⟩) s

/-- E2E_NACK (R377). -/
def execE2eNack (h : Hdr) (cls : Nat) (seq : Nat) (s : State) : Host.Outcome State Fault Refusal :=
  run (receive ⟨h, .e2eNack cls seq⟩) s

/-- GATE_UP (R204). -/
def execGateUp (h : Hdr) (step : Nat) (flags : Nat) (digest : Nat) (s : State) : Host.Outcome State Fault Refusal :=
  run (receive ⟨h, .gateUp step flags digest⟩) s

/-- GATE_DOWN (R204). -/
def execGateDown (h : Hdr) (step : Nat) (proceed : Bool) (flags : Nat) (s : State) : Host.Outcome State Fault Refusal :=
  run (receive ⟨h, .gateDown step proceed flags⟩) s

/-- GATE_ASK (R207). -/
def execGateAsk (h : Hdr) (step : Nat) (s : State) : Host.Outcome State Fault Refusal :=
  run (receive ⟨h, .gateAsk step⟩) s

/-- END_ACK (R212). -/
def execEndAck (h : Hdr) (step : Nat) (s : State) : Host.Outcome State Fault Refusal :=
  run (receive ⟨h, .endAck step⟩) s

/-- REPLAY (R212). -/
def execReplay (h : Hdr) (step : Nat) (table : Nat) (row : Nat) (one : Bool) (home : Nat) (homeSlice : Nat) (chain : Nat) (fromStart : Bool)
    (s : State) : Host.Outcome State Fault Refusal :=
  run (receive ⟨h, .replay step table row one home homeSlice chain fromStart⟩) s

/-- DROP (R268). -/
def execDrop (h : Hdr) (table : Nat) (s : State) : Host.Outcome State Fault Refusal :=
  run (receive ⟨h, .drop table⟩) s

/-- DROP_ACK (R267). -/
def execDropAck (h : Hdr) (table : Nat) (s : State) : Host.Outcome State Fault Refusal :=
  run (receive ⟨h, .dropAck table⟩) s

/-- REJOIN (R269). -/
def execRejoin (h : Hdr) (table : Nat) (s : State) : Host.Outcome State Fault Refusal :=
  run (receive ⟨h, .rejoin table⟩) s

/-- REJOIN_ACK (R269). -/
def execRejoinAck (h : Hdr) (table : Nat) (s : State) : Host.Outcome State Fault Refusal :=
  run (receive ⟨h, .rejoinAck table⟩) s

/-- SHARD_MAP (R274). -/
def execShardMap (h : Hdr) (table : Nat) (shard : Nat) (entry : Word) (dropped : List Nat)
    (s : State) : Host.Outcome State Fault Refusal :=
  run (receive ⟨h, .shardMap table shard entry dropped⟩) s

/-- SHARD_MAP_ACK (R274). -/
def execShardMapAck (h : Hdr) (table : Nat) (shard : Nat) (epoch : Nat)
    (s : State) : Host.Outcome State Fault Refusal :=
  run (receive ⟨h, .shardMapAck table shard epoch⟩) s

/-- TIME_SYNC (R384). -/
def execTimeSync (h : Hdr) (t1 : Nat) (s : State) : Host.Outcome State Fault Refusal :=
  run (receive ⟨h, .timeSync t1⟩) s

/-- TIME_REPLY (R384). -/
def execTimeReply (h : Hdr) (t2 : Nat) (t3 : Nat) (err : Nat) (s : State) : Host.Outcome State Fault Refusal :=
  run (receive ⟨h, .timeReply t2 t3 err⟩) s

/-- MCAST_ACK (R267). -/
def execMcastAck (h : Hdr) (table : Nat) (row : Nat) (ver : Nat) (s : State) : Host.Outcome State Fault Refusal :=
  run (receive ⟨h, .mcastAck table row ver⟩) s

/-- FAULT_NOTICE (R410). -/
def execFaultNotice (h : Hdr) (cause : Nat) (slice : Nat) (s : State) : Host.Outcome State Fault Refusal :=
  run (receive ⟨h, .faultNotice cause slice⟩) s

/-- ASK (R378). -/
def execAsk (h : Hdr) (typ : Nat) (table : Nat) (item : Nat) (s : State) : Host.Outcome State Fault Refusal :=
  run (receive ⟨h, .ask typ table item⟩) s

/-- STATE_READ (R239). -/
def execStateRead (h : Hdr) (table : Nat) (row : Nat) (low : Bool) (s : State) : Host.Outcome State Fault Refusal :=
  run (receive ⟨h, .stateRead table row low⟩) s

/-- STATE_DATA (R242). -/
def execStateData (h : Hdr) (table : Nat) (row : Nat) (data : Option (List Byte))
    (s : State) : Host.Outcome State Fault Refusal :=
  run (receive ⟨h, .stateData table row data⟩) s

/-- STATE_WRITE (R239). -/
def execStateWrite (h : Hdr) (table : Nat) (row : Nat) (data : List Byte)
    (s : State) : Host.Outcome State Fault Refusal :=
  run (receive ⟨h, .stateWrite table row data⟩) s

/-- STATE_WRITE_ACK (R239). -/
def execStateWriteAck (h : Hdr) (table : Nat) (row : Nat) (s : State) : Host.Outcome State Fault Refusal :=
  run (receive ⟨h, .stateWriteAck table row⟩) s

/-- SUB_LIST (R144). -/
def execSubList (h : Hdr) (bag : Nat) (pos : Nat) (tile : Nat) (fl : PoolFlags) (rows : List (Nat × Option Nat)) (weights : List F32)
    (s : State) : Host.Outcome State Fault Refusal :=
  run (receive ⟨h, .subList bag pos tile fl rows weights⟩) s

/-- ROW_REQ (R145). -/
def execRowReq (h : Hdr) (bag : Nat) (want : RowAsk) (s : State) : Host.Outcome State Fault Refusal :=
  run (receive ⟨h, .rowReq bag want⟩) s

/-- REPLICA_FETCH (R261). -/
def execReplicaFetch (h : Hdr) (table : Nat) (row : Nat) (s : State) : Host.Outcome State Fault Refusal :=
  run (receive ⟨h, .replicaFetch table row⟩) s

/-- PREFETCH_HINT (R147). -/
def execPrefetchHint (h : Hdr) (table : Nat) (rows : List Nat) (s : State) : Host.Outcome State Fault Refusal :=
  run (receive ⟨h, .prefetchHint table rows⟩) s

/-- REPLICA_ACTION (R263). -/
def execReplicaAction (h : Hdr) (table : Nat) (row : Nat) (action : Nat)
    (s : State) : Host.Outcome State Fault Refusal :=
  run (receive ⟨h, .replicaAction table row action⟩) s

/-- ROW_WRITE_REQ (R281). -/
def execRowWriteReq (h : Hdr) (item : Nat) (row : Nat) (val : RowVal) (source : Nat)
    (s : State) : Host.Outcome State Fault Refusal :=
  run (receive ⟨h, .rowWriteReq item row val source⟩) s

/-- PARTIAL (R145). -/
def execPartialIn (h : Hdr) (bag : Nat) (lanes : List Lane) (chk : Lane) (chkInt : Int) (bits : StatusBits) (part : Bool) (extra : Nat)
    (s : State) : Host.Outcome State Fault Refusal :=
  run (receive ⟨h, .partial_ bag lanes chk chkInt bits part extra⟩) s

/-- ROW (R260). -/
def execRowIn (h : Hdr) (bag : Nat) (rowNo : Nat) (val : Option RowVal) (bits : StatusBits)
    (s : State) : Host.Outcome State Fault Refusal :=
  run (receive ⟨h, .row bag rowNo val bits⟩) s

/-- REJECT (R95). -/
def execReject (h : Hdr) (reason : Nat) (s : State) : Host.Outcome State Fault Refusal :=
  run (receive ⟨h, .reject reason⟩) s

/-- WRITE_DONE (R281). -/
def execWriteDone (h : Hdr) (item : Nat) (bits : StatusBits) (s : State) : Host.Outcome State Fault Refusal :=
  run (receive ⟨h, .writeDone item bits⟩) s

/-- CHAIN_ROW (R210). -/
def execChainRow (h : Hdr) (step : Nat) (table : Nat) (row : Nat) (count : Nat) (home : Nat) (homeSlice : Nat) (chain : Nat) (pairs : List Lane)
    (s : State) : Host.Outcome State Fault Refusal :=
  run (receive ⟨h, .chainRow step table row count home homeSlice chain pairs⟩) s

/-- CHAIN_END (R210). -/
def execChainEnd (h : Hdr) (step : Nat) (home : Nat) (homeSlice : Nat) (chain : Nat) (rowsSent : Nat)
    (s : State) : Host.Outcome State Fault Refusal :=
  run (receive ⟨h, .chainEnd step home homeSlice chain rowsSent⟩) s

/-- MCAST_ROW (R260). -/
def execMcastRow (h : Hdr) (table : Nat) (row : Nat) (kind : Nat) (val : RowVal)
    (s : State) : Host.Outcome State Fault Refusal :=
  run (receive ⟨h, .mcastRow table row kind val⟩) s

/-- MCAST_REMOVE (R263). -/
def execMcastRemove (h : Hdr) (table : Nat) (row : Nat) (all : Bool) (s : State) : Host.Outcome State Fault Refusal :=
  run (receive ⟨h, .mcastRemove table row all⟩) s

/-- TOKEN (R172). -/
def execToken (h : Hdr) (item : Nat) (row : Nat) (data : List Byte) (rec : Option (BitVec 64))
    (s : State) : Host.Outcome State Fault Refusal :=
  run (receive ⟨h, .token item row data rec⟩) s

/-- IMPORT_ROW (R252). -/
def execImportRow (h : Hdr) (item : Nat) (row : Nat) (data : List Byte) (contents : Nat)
    (s : State) : Host.Outcome State Fault Refusal :=
  run (receive ⟨h, .importRow item row data contents⟩) s

/-- MIGRATE_COPY (R274). -/
def execMigrateCopy (h : Hdr) (item : Nat) (row : Nat) (base : Nat) (val : RowVal) (state : Option (List Byte))
    (s : State) : Host.Outcome State Fault Refusal :=
  run (receive ⟨h, .migrateCopy item row base val state⟩) s

/-- REG_WRITE (R385). -/
def execRegWrite (h : Hdr) (off : Nat) (size : Nat) (val : Word) (s : State) : Host.Outcome State Fault Refusal :=
  run (receive ⟨h, .regWrite off size val⟩) s

/-- REG_READ (R385). -/
def execRegRead (h : Hdr) (off : Nat) (size : Nat) (tag : Nat) (s : State) : Host.Outcome State Fault Refusal :=
  run (receive ⟨h, .regRead off size tag⟩) s

/-- REG_DATA (R385). -/
def execRegData (h : Hdr) (tag : Nat) (val : Word) (s : State) : Host.Outcome State Fault Refusal :=
  run (receive ⟨h, .regData tag val⟩) s

/-- DB_LINE (R59). -/
def execDbLine (h : Hdr) (line : Nat) (slots : List (BitVec 32)) (s : State) : Host.Outcome State Fault Refusal :=
  run (receive ⟨h, .dbLine line slots⟩) s

/-- HOST_READ (R59). -/
def execHostRead (h : Hdr) (addr : Nat) (len : Nat) (s : State) : Host.Outcome State Fault Refusal :=
  run (receive ⟨h, .hostRead addr len⟩) s

/-- HOST_DATA (R59). -/
def execHostData (h : Hdr) (addr : Nat) (data : List Byte) (s : State) : Host.Outcome State Fault Refusal :=
  run (receive ⟨h, .hostData addr data⟩) s

/-- HOST_WRITE (R59). -/
def execHostWrite (h : Hdr) (addr : Nat) (data : List Byte) (s : State) : Host.Outcome State Fault Refusal :=
  run (receive ⟨h, .hostWrite addr data⟩) s

/-- MSI (R61). -/
def execMsi (h : Hdr) (vector : Nat) (s : State) : Host.Outcome State Fault Refusal :=
  run (receive ⟨h, .msi vector⟩) s

end Sys2Proof.Machine
end

