-- ==== Sys2Proof/Machine/ExecNear.lean ====
section
/-! DEFINITION. The meanings of the commands: the near path. -/

namespace Sys2Proof.Machine

/-- SHD_GPOOL (R346). -/
def execShdGpool (thread : Nat) (level : Nat) (domain : Nat) (indices : List Word) (weights : List Word) (count : Nat) (cb : Nat)
    (s : State) : Host.Outcome State Fault Refusal :=
  run (doNearIssue thread level domain { kind := 1, vs1 := indices, vs2 := weights, count, cbAddr := cb }) s

/-- SHD_GATHER (R347). -/
def execShdGather (thread : Nat) (level : Nat) (domain : Nat) (indices : List Word) (count : Nat) (cb : Nat)
    (s : State) : Host.Outcome State Fault Refusal :=
  run (doNearIssue thread level domain { kind := 2, vs1 := indices, count, cbAddr := cb }) s

/-- SHD_SADD (R348). -/
def execShdSadd (thread : Nat) (level : Nat) (domain : Nat) (indices : List Word) (vals : List Byte) (count : Nat) (cb : Nat)
    (s : State) : Host.Outcome State Fault Refusal :=
  run (doNearIssue thread level domain { kind := 3, vs1 := indices, vals, count, cbAddr := cb }) s

/-- SHD_SYNC (R353). -/
def execShdSync (thread : Nat) (s : State) : Host.Outcome State Fault Refusal :=
  run (doSync thread) s

/-- NEAR_OUTCOME (R351). -/
def execNearOutcome (thread : Nat) (s : State) : Host.Outcome State Fault Refusal :=
  run (doNearOutcome thread) s

/-- NEAR_STOP_REQUEST (R354). -/
def execNearStopRequest (thread : Nat) (s : State) : Host.Outcome State Fault Refusal :=
  run (doNearStopRequest thread) s

/-- NEAR_STOP_WINDOW_EXPIRY (R354). -/
def execNearStopWindowExpiry (thread : Nat) (s : State) : Host.Outcome State Fault Refusal :=
  run (doNearWindowExpiry thread) s

/-- NEAR_RESUME (R357). -/
def execNearResume (thread : Nat) (level : Nat) (domain : Nat) (kind : Nat) (vs1 : List Word) (vs2 : List Word) (vals : List Byte) (count : Nat) (cb : Nat) (rec : List Byte)
    (s : State) : Host.Outcome State Fault Refusal :=
  run (doNearResume thread level domain { kind, vs1, vs2, vals, count, cbAddr := cb } rec) s

end Sys2Proof.Machine
end

