-- ==== Sys2Proof/Machine/ExecPower.lean ====
section
/-! DEFINITION. The meanings of the commands: resets, start-up, power and the package pins. -/

namespace Sys2Proof.Machine

/-- SLICE_POWER_OFF (R436). -/
def execSlicePowerOff (n : Nat) (s : State) : Host.Outcome State Fault Refusal :=
  run (atReg .pwrSlice (doSlicePowerOff n)) s

/-- SLICE_GATE_DONE (R436). -/
def execSliceGateDone (n : Nat) (s : State) : Host.Outcome State Fault Refusal :=
  run (doSliceGateDone n) s

/-- SLICE_POWER_UP (R436). -/
def execSlicePowerUp (n : Nat) (s : State) : Host.Outcome State Fault Refusal :=
  run (atReg .pwrSlice (doSlicePowerUp n)) s

/-- PROFILE_SELECT (R438). -/
def execProfileSelect (p : Nat) (s : State) : Host.Outcome State Fault Refusal :=
  run (atReg .pwrProfile (doProfile p)) s

/-- RESET_ENGINE (R426). -/
def execResetEngine (s : State) : Host.Outcome State Fault Refusal :=
  run doResetEngine s

/-- RESET_FULL (R426). -/
def execResetFull (s : State) : Host.Outcome State Fault Refusal :=
  run doResetFull s

/-- POWER_ON_RESET (R426). -/
def execPowerOnReset (s : State) : Host.Outcome State Fault Refusal :=
  run doPowerOn s

/-- TRAIN (R429). -/
def execTrain (s : State) : Host.Outcome State Fault Refusal :=
  run (atReg .initCtl doTrain) s

/-- CONTINUE (R430). -/
def execContinueInit (s : State) : Host.Outcome State Fault Refusal :=
  run (atReg .initCtl doContinue) s

/-- PLL_LOCK_DONE (R429). -/
def execPllLockDone (n : Nat) (us : Nat) (s : State) : Host.Outcome State Fault Refusal :=
  run (doPllLock n us) s

/-- D2D_SELECT_DONE (R367). -/
def execD2dSelectDone (n : Nat) (edges : List (Nat × Nat × Nat × Nat)) (s : State) : Host.Outcome State Fault Refusal :=
  run (doD2dSelect n edges) s

/-- HBM_TRAINING_DONE (R341). -/
def execHbmTrainingDone (n : Nat) (trained : List (Nat × Bool)) (ports : List (Bool × Nat × Nat)) (ucie : Option (Nat × Nat × Option (List Byte)))
    (s : State) : Host.Outcome State Fault Refusal :=
  run (doHbmTraining n trained ports ucie) s

/-- CACHE_TEST_DONE (R429). -/
def execCacheTestDone (n : Nat) (ways : List Nat) (s : State) : Host.Outcome State Fault Refusal :=
  run (doCacheTest n ways) s

/-- CORE_TEST_DONE (R462). -/
def execCoreTestDone (n : Nat) (cores : List Nat) (s : State) : Host.Outcome State Fault Refusal :=
  run (doCoreTest n cores) s

/-- STARTUP_STEP_TIMEOUT (R429). -/
def execStartupStepTimeout (n : Option Nat) (s : State) : Host.Outcome State Fault Refusal :=
  run (doStepTimeout n) s

/-- CLOCK_MONITOR_TRIP (R425). -/
def execClockMonitorTrip (d : Nat) (lost : Bool) (s : State) : Host.Outcome State Fault Refusal :=
  run (doClockTrip d lost) s

/-- RAIL_MONITOR_TRIP (R442). -/
def execRailMonitorTrip (d : Nat) (s : State) : Host.Outcome State Fault Refusal :=
  run (doRailTrip d) s

/-- HBM_TEMP_SAMPLE (R340). -/
def execHbmTempSample (k : Nat) (report : Option (Nat × Nat)) (s : State) : Host.Outcome State Fault Refusal :=
  run (throttleWake (doHbmTempSample k report)) s

/-- THROTTLE_RISE_PERIOD (R340). -/
def execThrottleRisePeriod (k : Nat) (s : State) : Host.Outcome State Fault Refusal :=
  run (throttleWake (doThrottleRise k)) s

/-- THROTTLE_FALL_PERIOD (R340). -/
def execThrottleFallPeriod (k : Nat) (s : State) : Host.Outcome State Fault Refusal :=
  run (throttleWake (doThrottleFall k)) s

/-- POWER_CAP_COMPARE (R439). -/
def execPowerCapCompare (s : State) : Host.Outcome State Fault Refusal :=
  run doCapCompare s

/-- POWER_LEVEL_FALL (R439). -/
def execPowerLevelFall (s : State) : Host.Outcome State Fault Refusal :=
  run doLevelFall s

/-- TELEMETRY_SAMPLE (R441). -/
def execTelemetrySample (rails : List (Option (Nat × Nat × Nat))) (s : State) : Host.Outcome State Fault Refusal :=
  run (doTelemetry rails) s

/-- IDLE_ENTRY (R434). -/
def execIdleEntry (s : State) : Host.Outcome State Fault Refusal :=
  run doIdleEntry s

/-- IDLE_WAKE (R434). -/
def execIdleWake (s : State) : Host.Outcome State Fault Refusal :=
  run doIdleWake s

/-- ALIVE_HALF_PERIOD (R445). -/
def execAliveHalfPeriod (s : State) : Host.Outcome State Fault Refusal :=
  run doAliveHalf s

/-- RESET_RELEASE (R428). -/
def execResetRelease (s : State) : Host.Outcome State Fault Refusal :=
  run doResetRelease s

end Sys2Proof.Machine
end

