-- ==== Sys2Proof/Machine/ExecRegs.lean ====
section
/-! DEFINITION. The meanings of the commands: register writes and the start-up ring. -/

namespace Sys2Proof.Machine

/-- REGISTER_WRITE (R10). -/
def execRegisterWrite (off : Nat) (size : Nat) (val : Word) (ok : Bool)
    (s : State) : Host.Outcome State Fault Refusal :=
  run (regWrite off size val ok) s

/-- TIME_LOW_READ (R454). -/
def execTimeLowRead (s : State) : Host.Outcome State Fault Refusal :=
  run (readTime 0x700) s

/-- TIME_HIGH_READ (R454). -/
def execTimeHighRead (s : State) : Host.Outcome State Fault Refusal :=
  run (readTime 0x704) s

/-- ENABLE_SET (R431). -/
def execEnableSet (s : State) : Host.Outcome State Fault Refusal :=
  run (atReg .ctl doEnableSet) s

/-- ENABLE_CLEAR (R453). -/
def execEnableClear (s : State) : Host.Outcome State Fault Refusal :=
  run (atReg .ctl doEnableClear) s

/-- DOORBELL_POLL_CLEAR (R453). -/
def execDoorbellPollClear (s : State) : Host.Outcome State Fault Refusal :=
  run (atReg .ctl doPollClear) s

/-- FIRST_STEP_WRITE (R186). -/
def execFirstStepWrite (k : Nat) (s : State) : Host.Outcome State Fault Refusal :=
  run (atReg .stepBase (doFirstStep k)) s

/-- WAY_CFG_WRITE (R326). -/
def execWayCfgWrite (n : Nat) (v : Word) (s : State) : Host.Outcome State Fault Refusal :=
  run (atSlice n (.slcWayCfg n) (doWayCfgWrite n v)) s

/-- STREAM_CFG_WRITE (R291). -/
def execStreamCfgWrite (n : Nat) (v : Word) (s : State) : Host.Outcome State Fault Refusal :=
  run (atSlice n (.slcStreamCfg n) (doStreamCfgWrite n v)) s

/-- SRING_TAIL_WRITE (R309). -/
def execSringTailWrite (v : Nat) (s : State) : Host.Outcome State Fault Refusal :=
  run (atReg .sringTail (doSringTailWrite v)) s

/-- SRING_BASE_WRITE (R310). -/
def execSringBaseWrite (v : Word) (s : State) : Host.Outcome State Fault Refusal :=
  run (atReg .sringBase (doSringBaseWrite v)) s

/-- SRING_EXECUTE (R309). -/
def execSringExecute (s : State) : Host.Outcome State Fault Refusal :=
  run doSringExecute s

/-- SLICE_OFFLINE_WRITE (R408). -/
def execSliceOfflineWrite (n : Nat) (s : State) : Host.Outcome State Fault Refusal :=
  run (atSlice n (.slcCtl n) (doSliceOffline n)) s

/-- SLICE_ONLINE_WRITE (R408). -/
def execSliceOnlineWrite (n : Nat) (s : State) : Host.Outcome State Fault Refusal :=
  run (atSlice n (.slcCtl n) (doSliceOnline n)) s

/-- SKETCH_CLEAR (R256). -/
def execSketchClear (n : Nat) (s : State) : Host.Outcome State Fault Refusal :=
  run (atSlice n (.slcSketchClr n) (doSketchClear n)) s

end Sys2Proof.Machine
end

