-- ==== Sys2Proof/Machine/ExecRings.lean ====
section
/-! DEFINITION. The meanings of the commands: ring commands, doorbells, fetch, completion and interrupts. -/

namespace Sys2Proof.Machine

/-- START (R30). -/
def execStart (r : Nat) (ok : Bool) (s : State) : Host.Outcome State Fault Refusal :=
  run (atReg .ringCmd (doStart r ok)) s

/-- STOP (R31). -/
def execStop (r : Nat) (s : State) : Host.Outcome State Fault Refusal :=
  run (atReg .ringCmd (doStop r)) s

/-- ABORT (R32). -/
def execAbort (r : Nat) (s : State) : Host.Outcome State Fault Refusal :=
  run (atReg .ringCmd (doAbort r)) s

/-- RING_CMD_OTHER (R28). -/
def execRingCmdOther (r : Nat) (cmd : Nat) (s : State) : Host.Outcome State Fault Refusal :=
  run (atReg .ringCmd (doRingCmdOther r cmd)) s

/-- RING_STOPPED (R31). -/
def execRingStopped (r : Nat) (s : State) : Host.Outcome State Fault Refusal :=
  run (doRingStopped r) s

/-- DOORBELL_INVALIDATION (R57). -/
def execDoorbellInvalidation (dev : Nat) (line : Nat) (s : State) : Host.Outcome State Fault Refusal :=
  run (doDoorbellInvalidation dev line) s

/-- DOORBELL_POLL_TICK (R58). -/
def execDoorbellPollTick (noCxl : Bool) (s : State) : Host.Outcome State Fault Refusal :=
  run (doDoorbellPollTick noCxl) s

/-- DOORBELL_LINE_READ (R57). -/
def execDoorbellLineRead (dev : Nat) (line : Nat) (slots : List (BitVec 32))
    (s : State) : Host.Outcome State Fault Refusal :=
  run (lineWake (doDoorbellLineRead dev line slots)) s

/-- DOORBELL_READ_FAULT (R60). -/
def execDoorbellReadFault (dev : Nat) (line : Nat) (s : State) : Host.Outcome State Fault Refusal :=
  run (doDoorbellReadFault dev line) s

/-- DOORBELL_RETRY (R60). -/
def execDoorbellRetry (dev : Nat) (line : Nat) (ok : Bool) (slots : List (BitVec 32))
    (s : State) : Host.Outcome State Fault Refusal :=
  run (lineWake (doDoorbellRetry dev line ok slots)) s

/-- DESC_FETCH (R44). -/
def execDescFetch (s : State) : Host.Outcome State Fault Refusal :=
  run doDescFetch s

/-- DESC_ARRIVAL (R37). -/
def execDescArrival (r : Nat) (s : State) : Host.Outcome State Fault Refusal :=
  run (doDescArrival r) s

/-- SEQ_REREAD (R37). -/
def execSeqReread (r : Nat) (pos : BitVec 32) (s : State) : Host.Outcome State Fault Refusal :=
  run (doSeqReread r pos) s

/-- DESC_READ_FAULT (R54). -/
def execDescReadFault (r : Nat) (k : Nat) (s : State) : Host.Outcome State Fault Refusal :=
  run (doDescReadFault r k) s

/-- CTX_WRITE_FAULT (R27). -/
def execCtxWriteFault (r : Nat) (s : State) : Host.Outcome State Fault Refusal :=
  run (doCtxWriteFault r) s

/-- COMPLETION_WRITE (R47). -/
def execCompletionWrite (r : Nat) (s : State) : Host.Outcome State Fault Refusal :=
  run (completionWrite r) s

/-- CPL_WRITE_FAULT (R54). -/
def execCplWriteFault (r : Nat) (s : State) : Host.Outcome State Fault Refusal :=
  run (completionFault r) s

/-- INT_DELAY_EXPIRY (R61). -/
def execIntDelayExpiry (r : Nat) (s : State) : Host.Outcome State Fault Refusal :=
  run (doIntDelayExpiry r) s

end Sys2Proof.Machine
end

