-- ==== Sys2Proof/Machine/ExecSafe.lean ====
section
/-! DEFINITION. The meanings of the commands: spares, self-tests, slices and the event log. -/

namespace Sys2Proof.Machine

/-- SLICE_OFFLINE_REACHED (R408). -/
def execSliceOfflineReached (n : Nat) (s : State) : Host.Outcome State Fault Refusal :=
  run (doSliceReached n) s

/-- INJECT_ARM (R412). -/
def execInjectArm (target : Nat) (n : Nat) (s : State) : Host.Outcome State Fault Refusal :=
  run (atReg .safeInject (doInjectArm target n)) s

/-- LOG_FLUSH (R419). -/
def execLogFlush (s : State) : Host.Outcome State Fault Refusal :=
  run (atReg .logCtl doLogFlush) s

/-- POSITION_MOVE (R14). -/
def execPositionMove (n : Nat) (p : Nat) (s : State) : Host.Outcome State Fault Refusal :=
  run (doPositionMove n p) s

/-- SPARE_ROTATION (R406). -/
def execSpareRotation (n : Nat) (s : State) : Host.Outcome State Fault Refusal :=
  run (doSpareRotation n) s

/-- CORE_SELF_TEST_DONE (R406). -/
def execCoreSelfTestDone (n : Nat) (ok : Bool) (s : State) : Host.Outcome State Fault Refusal :=
  run (doCoreSelfTest n ok) s

/-- LATENT_TEST (R401). -/
def execLatentTest (bad : List (Nat × Nat × Nat)) (s : State) : Host.Outcome State Fault Refusal :=
  run (doLatentTest bad) s

/-- LOG_PACK (R415). -/
def execLogPack (n : Nat) (s : State) : Host.Outcome State Fault Refusal :=
  run (doLogPack n) s

/-- LOG_DRAIN (R418). -/
def execLogDrain (n : Nat) (s : State) : Host.Outcome State Fault Refusal :=
  run (doLogDrain n) s

/-- LOG_HOST_WRITE_FAULT (R418). -/
def execLogHostWriteFault (n : Nat) (s : State) : Host.Outcome State Fault Refusal :=
  run (doLogWriteFault n) s

end Sys2Proof.Machine
end

