-- ==== Sys2Proof/Machine/ExecSteps.lean ====
section
/-! DEFINITION. The meanings of the commands: the step close, state rows, hot rows and migration. -/

namespace Sys2Proof.Machine

/-- DRIFT_CHECK_GO (R238). -/
def execDriftCheckGo (n : Nat) (s : State) : Host.Outcome State Fault Refusal :=
  run (atSlice n (.slcDriftCtl n) (doDriftGo n)) s

/-- DRIFT_CHECK_ROW (R238). -/
def execDriftCheckRow (n : Nat) (s : State) : Host.Outcome State Fault Refusal :=
  run (live (doDriftRow n)) s

/-- STEP_CLOSE_CLOSE (R202). -/
def execStepCloseClose (r : TaskRef) (acc : Access) (s : State) : Host.Outcome State Fault Refusal :=
  run (live (doStepCloseClose r acc)) s

/-- STEP_CLOSE_ARRIVAL (R218). -/
def execStepCloseArrival (r : TaskRef) (acc : Access) (s : State) : Host.Outcome State Fault Refusal :=
  run (live (doStepCloseArrival r acc)) s

/-- MERGE_SORT_START (R202). -/
def execMergeSortStart (s : State) : Host.Outcome State Fault Refusal :=
  run (live doMergeSortStart) s

/-- MERGE_SORT_DONE (R202). -/
def execMergeSortDone (lost : Bool) (s : State) : Host.Outcome State Fault Refusal :=
  run (live (doMergeSortDone lost)) s

/-- CLOSE_HELD_RESUME (R202). -/
def execCloseHeldResume (s : State) : Host.Outcome State Fault Refusal :=
  run (live doCloseHeldResume) s

/-- GATE_UP_SEND (R204). -/
def execGateUpSend (s : State) : Host.Outcome State Fault Refusal :=
  run (live doGateUpSend) s

/-- GATE_TIMEOUT (R207). -/
def execGateTimeout (s : State) : Host.Outcome State Fault Refusal :=
  run (live doGateTimeout) s

/-- GATE_ASK_TIMER (R204). -/
def execGateAskTimer (s : State) : Host.Outcome State Fault Refusal :=
  run (live doGateAskTimer) s

/-- STATE_ROW_ARRIVAL (R242). -/
def execStateRowArrival (id : Nat) (acc : Access) (d : Datum) (s : State) : Host.Outcome State Fault Refusal :=
  run (live (stateRowArrival id acc d)) s

/-- STATE_TIMEOUT (R244). -/
def execStateTimeout (id : Nat) (s : State) : Host.Outcome State Fault Refusal :=
  run (live (stateTimeout id)) s

/-- CHAIN_TIMEOUT (R215). -/
def execChainTimeout (n : Nat) (chain : Nat) (s : State) : Host.Outcome State Fault Refusal :=
  run (live (doChainTimeout n chain)) s

/-- MCAST_LAG_EXPIRY (R268). -/
def execMcastLagExpiry (table : Nat) (dev : Nat) (s : State) : Host.Outcome State Fault Refusal :=
  run (live (doMcastLagExpiry table dev)) s

/-- DROP_ACK_TIMEOUT (R268). -/
def execDropAckTimeout (table : Nat) (dev : Nat) (s : State) : Host.Outcome State Fault Refusal :=
  run (live (doDropAckTimeout table dev)) s

/-- REJOIN_START (R269). -/
def execRejoinStart (table : Nat) (home : Nat) (s : State) : Host.Outcome State Fault Refusal :=
  run (live (doRejoinStart table home)) s

/-- REPLICA_FETCH_TIMEOUT (R261). -/
def execReplicaFetchTimeout (table : Nat) (row : Nat) (s : State) : Host.Outcome State Fault Refusal :=
  run (live (doReplicaFetchTimeout table row)) s

/-- MIGRATE_SWITCH (R274). -/
def execMigrateSwitch (r : TaskRef) (s : State) : Host.Outcome State Fault Refusal :=
  run (live (doMigrateSwitch r)) s

/-- FWD_WINDOW_EXPIRY (R274). -/
def execFwdWindowExpiry (r : TaskRef) (s : State) : Host.Outcome State Fault Refusal :=
  run (live (doFwdWindowExpiry r)) s

end Sys2Proof.Machine
end

