-- ==== Sys2Proof/Machine/ExecStreams.lean ====
section
/-! DEFINITION. The meanings of the commands: stream, dependence and bag events. -/

namespace Sys2Proof.Machine

/-- BULK_TRANSFER_DONE (R289). -/
def execBulkTransferDone (id : Nat) (acc : Access) (bl : Access) (s : State) : Host.Outcome State Fault Refusal :=
  run (doBulkTransferDone id acc bl) s

/-- DEP_WORD_LINE_WRITE (R294). -/
def execDepWordLineWrite (die : Nat) (off : Nat) (data : List Byte) (s : State) : Host.Outcome State Fault Refusal :=
  run (doDepWordLineWrite die off data) s

/-- DEP_POLL_TICK (R294). -/
def execDepPollTick (r : TaskRef) (acc : Access) (s : State) : Host.Outcome State Fault Refusal :=
  run (doDepPollTick r acc) s

/-- DEP_TIMEOUT (R296). -/
def execDepTimeout (r : TaskRef) (s : State) : Host.Outcome State Fault Refusal :=
  run (doDepTimeout r) s

/-- STREAM_WATCHDOG_TICK (R306). -/
def execStreamWatchdogTick (n : Nat) (s : State) : Host.Outcome State Fault Refusal :=
  run (doStreamWatchdogTick n) s

/-- BAG_CLOSE (R151). -/
def execBagClose (r : TaskRef) (b : Nat) (chk : Nat) (s : State) : Host.Outcome State Fault Refusal :=
  run (live (doBagClose r b chk)) s

/-- ABFT_CHECK_PERIODIC (R393). -/
def execAbftCheckPeriodic (r : TaskRef) (b : Nat) (bad : Bool) (s : State) : Host.Outcome State Fault Refusal :=
  run (live (doAbftPeriodic r b bad)) s

/-- SPLIT_SLOT_WRITTEN (R149). -/
def execSplitSlotWritten (r : TaskRef) (b : Nat) (part : Nat) (acc : Access)
    (s : State) : Host.Outcome State Fault Refusal :=
  run (live (doSplitSlot r b part acc)) s

end Sys2Proof.Machine
end

