-- ==== Sys2Proof/Machine/ExecTasks.lean ====
section
/-! DEFINITION. The meanings of the commands: the tasks of the opcodes. -/

namespace Sys2Proof.Machine

/-- LOOKUP_POOL (R127). -/
def execLookupPool (r : TaskRef) (s : State) : Host.Outcome State Fault Refusal :=
  run (live (doLookupPool r)) s

/-- GATHER_ROWS (R145). -/
def execGatherRows (r : TaskRef) (s : State) : Host.Outcome State Fault Refusal :=
  run (live (doGatherRows r)) s

/-- PAGE_GATHER (R181). -/
def execPageGather (r : TaskRef) (s : State) : Host.Outcome State Fault Refusal :=
  run (live (doPageGather r)) s

/-- DISPATCH (R170). -/
def execDispatch (r : TaskRef) (s : State) : Host.Outcome State Fault Refusal :=
  run (live (doDispatch r)) s

/-- COMBINE (R176). -/
def execCombine (r : TaskRef) (s : State) : Host.Outcome State Fault Refusal :=
  run (live (doCombine r)) s

/-- GRAD_SCATTER (R191). -/
def execGradScatter (r : TaskRef) (s : State) : Host.Outcome State Fault Refusal :=
  run (live (doGradScatter r)) s

/-- SCATTER_ADD (R336). -/
def execScatterAdd (r : TaskRef) (s : State) : Host.Outcome State Fault Refusal :=
  run (live (doScatterAdd r)) s

/-- ROW_WRITE (R281). -/
def execRowWrite (r : TaskRef) (s : State) : Host.Outcome State Fault Refusal :=
  run (live (doRowWrite r)) s

/-- ROW_READ (R282). -/
def execRowRead (r : TaskRef) (s : State) : Host.Outcome State Fault Refusal :=
  run (live (doRowRead r)) s

/-- MIGRATE (R274). -/
def execMigrate (r : TaskRef) (s : State) : Host.Outcome State Fault Refusal :=
  run (live (doMigrate r)) s

/-- REPLICA_SET_INSTALL (R263). -/
def execReplicaSetInstall (r : TaskRef) (s : State) : Host.Outcome State Fault Refusal :=
  run (live (doReplicaSet 0 r)) s

/-- REPLICA_SET_REMOVE (R263). -/
def execReplicaSetRemove (r : TaskRef) (s : State) : Host.Outcome State Fault Refusal :=
  run (live (doReplicaSet 1 r)) s

/-- REPLICA_SET_VERIFY (R263). -/
def execReplicaSetVerify (r : TaskRef) (s : State) : Host.Outcome State Fault Refusal :=
  run (live (doReplicaSet 2 r)) s

/-- REPLICA_SET_REMOVE_TABLE (R263). -/
def execReplicaSetRemoveTable (r : TaskRef) (s : State) : Host.Outcome State Fault Refusal :=
  run (live (doReplicaSet 3 r)) s

/-- STATE_EXPORT (R250). -/
def execStateExport (r : TaskRef) (s : State) : Host.Outcome State Fault Refusal :=
  run (live (doStateExport r)) s

/-- STATE_IMPORT (R252). -/
def execStateImport (r : TaskRef) (s : State) : Host.Outcome State Fault Refusal :=
  run (live (doStateImport r)) s

/-- CTX_LOAD (R90). -/
def execCtxLoad (r : TaskRef) (acc : Access) (s : State) : Host.Outcome State Fault Refusal :=
  run (doCtxLoad r acc) s

/-- CTX_UNLOAD (R90). -/
def execCtxUnload (r : TaskRef) (s : State) : Host.Outcome State Fault Refusal :=
  run (doCtxUnload r) s

/-- CTX_LOAD_INSTALL (R91). -/
def execCtxLoadInstall (r : TaskRef) (s : State) : Host.Outcome State Fault Refusal :=
  run (live (doCtxLoadInstall r)) s

/-- RING_SAVE (R362). -/
def execRingSave (r : TaskRef) (s : State) : Host.Outcome State Fault Refusal :=
  run (live (doRingSave r)) s

/-- RING_RESTORE (R364). -/
def execRingRestore (r : TaskRef) (ok : Bool) (s : State) : Host.Outcome State Fault Refusal :=
  run (live (doRingRestore r ok)) s

/-- REARM_NEXT (R299). -/
def execRearmNext (r : TaskRef) (s : State) : Host.Outcome State Fault Refusal :=
  run (live (doRearm 0 r)) s

/-- REARM_END (R299). -/
def execRearmEnd (r : TaskRef) (s : State) : Host.Outcome State Fault Refusal :=
  run (live (doRearm 1 r)) s

/-- ROUND_END (R297). -/
def execRoundEnd (r : TaskRef) (s : State) : Host.Outcome State Fault Refusal :=
  run (live (doRoundEnd r)) s

/-- FENCE (R41). -/
def execFence (r : TaskRef) (s : State) : Host.Outcome State Fault Refusal :=
  run (doFence r) s

/-- FENCE_RELEASE (R41). -/
def execFenceRelease (r : TaskRef) (s : State) : Host.Outcome State Fault Refusal :=
  run (doFenceRelease r) s

/-- NOP (R42). -/
def execNop (r : TaskRef) (s : State) : Host.Outcome State Fault Refusal :=
  run (doNop r) s

/-- STATS_READ (R422). -/
def execStatsRead (r : TaskRef) (ok : Bool) (s : State) : Host.Outcome State Fault Refusal :=
  run (doStatsRead r ok) s

end Sys2Proof.Machine
end

