-- ==== Sys2Proof/Machine/Dispatch.lean ====
section
/-! DEFINITION. The meaning of every command. -/

namespace Sys2Proof.Machine

/-- One command acts on everything but the queue. -/
def exec (i : Instr) (s : State) : Host.Outcome State Fault Refusal :=
  match i with
  | .registerWrite off size val ok => Sys2Proof.Machine.execRegisterWrite off size val ok s
  | .timeLowRead => Sys2Proof.Machine.execTimeLowRead s
  | .timeHighRead => Sys2Proof.Machine.execTimeHighRead s
  | .start r ok => Sys2Proof.Machine.execStart r ok s
  | .stop r => Sys2Proof.Machine.execStop r s
  | .abort r => Sys2Proof.Machine.execAbort r s
  | .ringCmdOther r cmd => Sys2Proof.Machine.execRingCmdOther r cmd s
  | .ringStopped r => Sys2Proof.Machine.execRingStopped r s
  | .enableSet => Sys2Proof.Machine.execEnableSet s
  | .enableClear => Sys2Proof.Machine.execEnableClear s
  | .doorbellPollClear => Sys2Proof.Machine.execDoorbellPollClear s
  | .firstStepWrite k => Sys2Proof.Machine.execFirstStepWrite k s
  | .wayCfgWrite n v => Sys2Proof.Machine.execWayCfgWrite n v s
  | .wayReconfDone n => Sys2Proof.Machine.execWayReconfDone n s
  | .streamCfgWrite n v => Sys2Proof.Machine.execStreamCfgWrite n v s
  | .sringTailWrite v => Sys2Proof.Machine.execSringTailWrite v s
  | .sringBaseWrite v => Sys2Proof.Machine.execSringBaseWrite v s
  | .sringExecute => Sys2Proof.Machine.execSringExecute s
  | .sliceOfflineWrite n => Sys2Proof.Machine.execSliceOfflineWrite n s
  | .sliceOfflineReached n => Sys2Proof.Machine.execSliceOfflineReached n s
  | .sliceOnlineWrite n => Sys2Proof.Machine.execSliceOnlineWrite n s
  | .slicePowerOff n => Sys2Proof.Machine.execSlicePowerOff n s
  | .sliceGateDone n => Sys2Proof.Machine.execSliceGateDone n s
  | .slicePowerUp n => Sys2Proof.Machine.execSlicePowerUp n s
  | .profileSelect p => Sys2Proof.Machine.execProfileSelect p s
  | .injectArm target n => Sys2Proof.Machine.execInjectArm target n s
  | .logFlush => Sys2Proof.Machine.execLogFlush s
  | .sketchClear n => Sys2Proof.Machine.execSketchClear n s
  | .ucieAdmit cap => Sys2Proof.Machine.execUcieAdmit cap s
  | .ucieEject => Sys2Proof.Machine.execUcieEject s
  | .driftCheckGo n => Sys2Proof.Machine.execDriftCheckGo n s
  | .driftCheckRow n => Sys2Proof.Machine.execDriftCheckRow n s
  | .resetEngine => Sys2Proof.Machine.execResetEngine s
  | .resetFull => Sys2Proof.Machine.execResetFull s
  | .powerOnReset => Sys2Proof.Machine.execPowerOnReset s
  | .train => Sys2Proof.Machine.execTrain s
  | .continueInit => Sys2Proof.Machine.execContinueInit s
  | .pllLockDone n us => Sys2Proof.Machine.execPllLockDone n us s
  | .d2dSelectDone n edges => Sys2Proof.Machine.execD2dSelectDone n edges s
  | .hbmTrainingDone n trained ports ucie => Sys2Proof.Machine.execHbmTrainingDone n trained ports ucie s
  | .cacheTestDone n ways => Sys2Proof.Machine.execCacheTestDone n ways s
  | .coreTestDone n cores => Sys2Proof.Machine.execCoreTestDone n cores s
  | .startupStepTimeout n => Sys2Proof.Machine.execStartupStepTimeout n s
  | .barAccess slot off size wr tag ok => Sys2Proof.Machine.execBarAccess slot off size wr tag ok s
  | .pathWindowAccess ports port off size wr tag ok => Sys2Proof.Machine.execPathWindowAccess ports port off size wr tag ok s
  | .relayReadTimeout tag => Sys2Proof.Machine.execRelayReadTimeout tag s
  | .doorbellInvalidation dev line => Sys2Proof.Machine.execDoorbellInvalidation dev line s
  | .doorbellPollTick noCxl => Sys2Proof.Machine.execDoorbellPollTick noCxl s
  | .doorbellLineRead dev line slots => Sys2Proof.Machine.execDoorbellLineRead dev line slots s
  | .doorbellReadFault dev line => Sys2Proof.Machine.execDoorbellReadFault dev line s
  | .doorbellRetry dev line ok slots => Sys2Proof.Machine.execDoorbellRetry dev line ok slots s
  | .descFetch => Sys2Proof.Machine.execDescFetch s
  | .descArrival r => Sys2Proof.Machine.execDescArrival r s
  | .seqReread r pos => Sys2Proof.Machine.execSeqReread r pos s
  | .descReadFault r k => Sys2Proof.Machine.execDescReadFault r k s
  | .ctxWriteFault r => Sys2Proof.Machine.execCtxWriteFault r s
  | .completionWrite r => Sys2Proof.Machine.execCompletionWrite r s
  | .cplWriteFault r => Sys2Proof.Machine.execCplWriteFault r s
  | .intDelayExpiry r => Sys2Proof.Machine.execIntDelayExpiry r s
  | .lookupPool r => Sys2Proof.Machine.execLookupPool r s
  | .gatherRows r => Sys2Proof.Machine.execGatherRows r s
  | .pageGather r => Sys2Proof.Machine.execPageGather r s
  | .dispatch r => Sys2Proof.Machine.execDispatch r s
  | .combine r => Sys2Proof.Machine.execCombine r s
  | .gradScatter r => Sys2Proof.Machine.execGradScatter r s
  | .stepCloseClose r acc => Sys2Proof.Machine.execStepCloseClose r acc s
  | .stepCloseArrival r acc => Sys2Proof.Machine.execStepCloseArrival r acc s
  | .scatterAdd r => Sys2Proof.Machine.execScatterAdd r s
  | .rowWrite r => Sys2Proof.Machine.execRowWrite r s
  | .rowRead r => Sys2Proof.Machine.execRowRead r s
  | .migrate r => Sys2Proof.Machine.execMigrate r s
  | .replicaSetInstall r => Sys2Proof.Machine.execReplicaSetInstall r s
  | .replicaSetRemove r => Sys2Proof.Machine.execReplicaSetRemove r s
  | .replicaSetVerify r => Sys2Proof.Machine.execReplicaSetVerify r s
  | .replicaSetRemoveTable r => Sys2Proof.Machine.execReplicaSetRemoveTable r s
  | .stateExport r => Sys2Proof.Machine.execStateExport r s
  | .stateImport r => Sys2Proof.Machine.execStateImport r s
  | .ctxLoad r acc => Sys2Proof.Machine.execCtxLoad r acc s
  | .ctxUnload r => Sys2Proof.Machine.execCtxUnload r s
  | .ctxLoadInstall r => Sys2Proof.Machine.execCtxLoadInstall r s
  | .ringSave r => Sys2Proof.Machine.execRingSave r s
  | .ringRestore r ok => Sys2Proof.Machine.execRingRestore r ok s
  | .rearmNext r => Sys2Proof.Machine.execRearmNext r s
  | .rearmEnd r => Sys2Proof.Machine.execRearmEnd r s
  | .roundEnd r => Sys2Proof.Machine.execRoundEnd r s
  | .fence r => Sys2Proof.Machine.execFence r s
  | .fenceRelease r => Sys2Proof.Machine.execFenceRelease r s
  | .nop r => Sys2Proof.Machine.execNop r s
  | .statsRead r ok => Sys2Proof.Machine.execStatsRead r ok s
  | .sketchHalving n => Sys2Proof.Machine.execSketchHalving n s
  | .sectorReadDone id acc d way => Sys2Proof.Machine.execSectorReadDone id acc d way s
  | .wayAccessCountWrap n w => Sys2Proof.Machine.execWayAccessCountWrap n w s
  | .hbmWriteDone id way => Sys2Proof.Machine.execHbmWriteDone id way s
  | .crumbWritebackDone id => Sys2Proof.Machine.execCrumbWritebackDone id s
  | .bulkTransferDone id acc bl => Sys2Proof.Machine.execBulkTransferDone id acc bl s
  | .depWordLineWrite die off data => Sys2Proof.Machine.execDepWordLineWrite die off data s
  | .depPollTick r acc => Sys2Proof.Machine.execDepPollTick r acc s
  | .depTimeout r => Sys2Proof.Machine.execDepTimeout r s
  | .streamWatchdogTick n => Sys2Proof.Machine.execStreamWatchdogTick n s
  | .bagClose r b chk => Sys2Proof.Machine.execBagClose r b chk s
  | .abftCheckPeriodic r b bad => Sys2Proof.Machine.execAbftCheckPeriodic r b bad s
  | .splitSlotWritten r b part acc => Sys2Proof.Machine.execSplitSlotWritten r b part acc s
  | .mergeSortStart => Sys2Proof.Machine.execMergeSortStart s
  | .mergeSortDone lost => Sys2Proof.Machine.execMergeSortDone lost s
  | .closeHeldResume => Sys2Proof.Machine.execCloseHeldResume s
  | .gateUpSend => Sys2Proof.Machine.execGateUpSend s
  | .gateTimeout => Sys2Proof.Machine.execGateTimeout s
  | .gateAskTimer => Sys2Proof.Machine.execGateAskTimer s
  | .stateRowArrival id acc d => Sys2Proof.Machine.execStateRowArrival id acc d s
  | .stateTimeout id => Sys2Proof.Machine.execStateTimeout id s
  | .chainTimeout n chain => Sys2Proof.Machine.execChainTimeout n chain s
  | .mcastLagExpiry table dev => Sys2Proof.Machine.execMcastLagExpiry table dev s
  | .dropAckTimeout table dev => Sys2Proof.Machine.execDropAckTimeout table dev s
  | .rejoinStart table home => Sys2Proof.Machine.execRejoinStart table home s
  | .replicaFetchTimeout table row => Sys2Proof.Machine.execReplicaFetchTimeout table row s
  | .migrateSwitch r => Sys2Proof.Machine.execMigrateSwitch r s
  | .fwdWindowExpiry r => Sys2Proof.Machine.execFwdWindowExpiry r s
  | .positionMove n p => Sys2Proof.Machine.execPositionMove n p s
  | .spareRotation n => Sys2Proof.Machine.execSpareRotation n s
  | .coreSelfTestDone n ok => Sys2Proof.Machine.execCoreSelfTestDone n ok s
  | .latentTest bad => Sys2Proof.Machine.execLatentTest bad s
  | .clockMonitorTrip d lost => Sys2Proof.Machine.execClockMonitorTrip d lost s
  | .railMonitorTrip d => Sys2Proof.Machine.execRailMonitorTrip d s
  | .hbmTempSample k report => Sys2Proof.Machine.execHbmTempSample k report s
  | .throttleRisePeriod k => Sys2Proof.Machine.execThrottleRisePeriod k s
  | .throttleFallPeriod k => Sys2Proof.Machine.execThrottleFallPeriod k s
  | .powerCapCompare => Sys2Proof.Machine.execPowerCapCompare s
  | .powerLevelFall => Sys2Proof.Machine.execPowerLevelFall s
  | .telemetrySample rails => Sys2Proof.Machine.execTelemetrySample rails s
  | .idleEntry => Sys2Proof.Machine.execIdleEntry s
  | .idleWake => Sys2Proof.Machine.execIdleWake s
  | .aliveHalfPeriod => Sys2Proof.Machine.execAliveHalfPeriod s
  | .shdGpool thread level domain indices weights count cb => Sys2Proof.Machine.execShdGpool thread level domain indices weights count cb s
  | .shdGather thread level domain indices count cb => Sys2Proof.Machine.execShdGather thread level domain indices count cb s
  | .shdSadd thread level domain indices vals count cb => Sys2Proof.Machine.execShdSadd thread level domain indices vals count cb s
  | .shdSync thread => Sys2Proof.Machine.execShdSync thread s
  | .nearOutcome thread => Sys2Proof.Machine.execNearOutcome thread s
  | .nearStopRequest thread => Sys2Proof.Machine.execNearStopRequest thread s
  | .nearStopWindowExpiry thread => Sys2Proof.Machine.execNearStopWindowExpiry thread s
  | .nearResume thread level domain kind vs1 vs2 vals count cb rec => Sys2Proof.Machine.execNearResume thread level domain kind vs1 vs2 vals count cb rec s
  | .flit link data nack => Sys2Proof.Machine.execFlit link data nack s
  | .portLinkDown p => Sys2Proof.Machine.execPortLinkDown p s
  | .e2eResendTimeout dev cls seq => Sys2Proof.Machine.execE2eResendTimeout dev cls seq s
  | .ctrlRepeatTimer peer answer table item => Sys2Proof.Machine.execCtrlRepeatTimer peer answer table item s
  | .messageForward m => Sys2Proof.Machine.execMessageForward m s
  | .badMessage src typ => Sys2Proof.Machine.execBadMessage src typ s
  | .e2eAck h cls seq => Sys2Proof.Machine.execE2eAck h cls seq s
  | .e2eNack h cls seq => Sys2Proof.Machine.execE2eNack h cls seq s
  | .gateUp h step flags digest => Sys2Proof.Machine.execGateUp h step flags digest s
  | .gateDown h step proceed flags => Sys2Proof.Machine.execGateDown h step proceed flags s
  | .gateAsk h step => Sys2Proof.Machine.execGateAsk h step s
  | .endAck h step => Sys2Proof.Machine.execEndAck h step s
  | .replay h step table row one home homeSlice chain fromStart => Sys2Proof.Machine.execReplay h step table row one home homeSlice chain fromStart s
  | .drop h table => Sys2Proof.Machine.execDrop h table s
  | .dropAck h table => Sys2Proof.Machine.execDropAck h table s
  | .rejoin h table => Sys2Proof.Machine.execRejoin h table s
  | .rejoinAck h table => Sys2Proof.Machine.execRejoinAck h table s
  | .shardMap h table shard entry dropped => Sys2Proof.Machine.execShardMap h table shard entry dropped s
  | .shardMapAck h table shard epoch => Sys2Proof.Machine.execShardMapAck h table shard epoch s
  | .timeExchangeTimer => Sys2Proof.Machine.execTimeExchangeTimer s
  | .timeSync h t1 => Sys2Proof.Machine.execTimeSync h t1 s
  | .timeReply h t2 t3 err => Sys2Proof.Machine.execTimeReply h t2 t3 err s
  | .timeReplyLoss => Sys2Proof.Machine.execTimeReplyLoss s
  | .mcastAck h table row ver => Sys2Proof.Machine.execMcastAck h table row ver s
  | .faultNotice h cause slice => Sys2Proof.Machine.execFaultNotice h cause slice s
  | .ask h typ table item => Sys2Proof.Machine.execAsk h typ table item s
  | .stateRead h table row low => Sys2Proof.Machine.execStateRead h table row low s
  | .stateData h table row data => Sys2Proof.Machine.execStateData h table row data s
  | .stateWrite h table row data => Sys2Proof.Machine.execStateWrite h table row data s
  | .stateWriteAck h table row => Sys2Proof.Machine.execStateWriteAck h table row s
  | .subList h bag pos tile fl rows weights => Sys2Proof.Machine.execSubList h bag pos tile fl rows weights s
  | .rowReq h bag want => Sys2Proof.Machine.execRowReq h bag want s
  | .replicaFetch h table row => Sys2Proof.Machine.execReplicaFetch h table row s
  | .prefetchHint h table rows => Sys2Proof.Machine.execPrefetchHint h table rows s
  | .replicaAction h table row action => Sys2Proof.Machine.execReplicaAction h table row action s
  | .rowWriteReq h item row val source => Sys2Proof.Machine.execRowWriteReq h item row val source s
  | .partialIn h bag lanes chk chkInt bits part extra => Sys2Proof.Machine.execPartialIn h bag lanes chk chkInt bits part extra s
  | .rowIn h bag rowNo val bits => Sys2Proof.Machine.execRowIn h bag rowNo val bits s
  | .reject h reason => Sys2Proof.Machine.execReject h reason s
  | .writeDone h item bits => Sys2Proof.Machine.execWriteDone h item bits s
  | .chainRow h step table row count home homeSlice chain pairs => Sys2Proof.Machine.execChainRow h step table row count home homeSlice chain pairs s
  | .chainEnd h step home homeSlice chain rowsSent => Sys2Proof.Machine.execChainEnd h step home homeSlice chain rowsSent s
  | .mcastRow h table row kind val => Sys2Proof.Machine.execMcastRow h table row kind val s
  | .mcastRemove h table row all => Sys2Proof.Machine.execMcastRemove h table row all s
  | .token h item row data rec => Sys2Proof.Machine.execToken h item row data rec s
  | .importRow h item row data contents => Sys2Proof.Machine.execImportRow h item row data contents s
  | .migrateCopy h item row base val state => Sys2Proof.Machine.execMigrateCopy h item row base val state s
  | .regWrite h off size val => Sys2Proof.Machine.execRegWrite h off size val s
  | .regRead h off size tag => Sys2Proof.Machine.execRegRead h off size tag s
  | .regData h tag val => Sys2Proof.Machine.execRegData h tag val s
  | .dbLine h line slots => Sys2Proof.Machine.execDbLine h line slots s
  | .hostRead h addr len => Sys2Proof.Machine.execHostRead h addr len s
  | .hostData h addr data => Sys2Proof.Machine.execHostData h addr data s
  | .hostWrite h addr data => Sys2Proof.Machine.execHostWrite h addr data s
  | .msi h vector => Sys2Proof.Machine.execMsi h vector s
  | .sectorData id acc d => Sys2Proof.Machine.execSectorData id acc d s
  | .ucieLinkDown => Sys2Proof.Machine.execUcieLinkDown s
  | .d2dBundleFail x => Sys2Proof.Machine.execD2dBundleFail x s
  | .logPack n => Sys2Proof.Machine.execLogPack n s
  | .logDrain n => Sys2Proof.Machine.execLogDrain n s
  | .logHostWriteFault n => Sys2Proof.Machine.execLogHostWriteFault n s
  | .resetRelease => Sys2Proof.Machine.execResetRelease s
  | .invalidation id n => Sys2Proof.Machine.execInvalidation id n s
  | .invalidationAck id n => Sys2Proof.Machine.execInvalidationAck id n s

end Sys2Proof.Machine
end

