-- ==== Sys2Proof/Safety.lean ====
section
/-! DEFINITION. What claims about runs speak of: the canonical form of the memories, a command's answer, what an answer
leaves unchanged, an engine held in reset. -/

namespace Sys2Proof.Machine

/-- The four memories are in their canonical form. -/
def Mems.wf (m : Mems) : Bool := Memory.wf m.host && Memory.wf m.hbm && Memory.wf m.llm && Memory.wf m.exp

/-- The command answers the next state in which the engine is `e'` and the queue is as it was. -/
def answers (c : Instr) (s : State) (e' : Engine) : Prop := exec c s = .next { s with eng := e' }

/-- Registers outside a list keep their values. -/
def regsKept (rs : List Reg) (e e' : Engine) : Prop := ∀ r, r ∉ rs → getReg r e' = getReg r e

/-- Nothing but registers of a list has changed. -/
def onlyRegs (rs : List Reg) (e e' : Engine) : Prop := e' = { e with regs := e'.regs } ∧ regsKept rs e e'

/-- Nothing but registers of a list, the quiet time of IDLE and the list of lost registers has changed: the frame of a
register write. IDLE ends with the write, so SHD_PWR_STS stands in every such list (R434). -/
def onlyRegsWoken (rs : List Reg) (e e' : Engine) : Prop :=
  e' = { e with regs := e'.regs, power := { e.power with quiet := now e }, lostRegs := e'.lostRegs } ∧
  regsKept (.pwrSts :: rs) e e'

/-- A register can be written: no reset in progress, its slice not gated (R428, R450). -/
def writable (r : Reg) (e : Engine) : Bool := e.inReset.isNone && !regGated r e

/-- A register whose fields have no behaviour of their own: a write stores or clears them by their access codes. -/
def plainReg : Reg → Bool
  | .ringtabBase | .ringtabSize | .dbellBase | .ringCmd | .ctl | .stepBase | .podCfg | .slcWayCfg _ | .slcStreamCfg _ | .sringTail
  | .sringBase | .slcCtl _ | .pwrSlice | .pwrProfile | .safeInject | .logCtl | .slcSketchClr _ | .ucieCtl | .slcDriftCtl _ | .reset
  | .initCtl | .faultSts | .safeCfg | .aliveCfg => false
  | _ => true

/-- The commands that act while a reset is in progress: a power-on reset, and the release of the reset (R426, R428). The
rail of base die 0 is a source of power-on reset (R442). -/
def actsInReset : Instr → Bool
  | .powerOnReset => true
  | .resetRelease => true
  | .railMonitorTrip d => decide (d = 0)
  | _ => false

/-- A task whose start nothing prevents: its turn has come, no start check fails, no injected fault meets its
configuration and it uses no lost item (R43, R396, R459). `own`: the opcode's own checks. -/
def startsClean (t : Task) (own : Task → Engine → Option (Nat × Nat)) (e : Engine) : Bool :=
  let b := beginTask t e
  let op := dOpcode t.desc
  decide (findTask t.ref e = some t) && decide (findJob t.ref e = none) && canStart t e &&
  ((commonCheck t b).or ((sliceOffCheck op t b).or (own t b))).isNone && !usesLost t b &&
  ([0x18, 0x1C, 0x1E, 0x1F].contains op || !(takeInjection 0x10 (dq t.desc 1 4 2) b).1)

/-- The engine once a task has started and holds its stream slot (R20, R43). -/
def slotHeld (t : Task) (e : Engine) : Engine :=
  takeSlot t (addJob { newJob t (beginTask t e) with waitSlot := true } (beginTask t e))

/-- A start that reaches the task's body: nothing prevents it, its stream slot is free and it is not persistent. -/
def startsOnSlot (t : Task) (own : Task → Engine → Option (Nat × Nat)) (e : Engine) : Bool :=
  startsClean t own e && !slotBusy (dq t.desc 1 4 2) (dq t.desc 1 0 4) e && !dPersist t.desc && alive e

/-- The outcome of a task that started and ended at once. -/
def outcome (t : Task) (status detail items : Nat) (e : Engine) : Task :=
  { t with phase := .ended, step := getF .stepSts Fld.STEP_STS_OPEN_STEP e, status, detail, flags := 0, items
           clipped := 0, quantised := 0 }

/-- Every slice but `n` has finished the running start-up step. -/
def othersDone (n : Nat) (e : Engine) : Bool := (List.range 4).all (fun m => decide (m = n) || e.power.done.contains m)

/-- Slice `n` runs start-up step `st`, nothing has failed and no slice is powered off (R429). -/
def runsStep (st n : Nat) (e : Engine) : Bool :=
  alive e && decide (n < 4) && decide (initState e = st) && decide (upStep n e = 0) && !e.power.done.contains n &&
  decide (getF .initSts Fld.INIT_STS_FAIL_SLICES e = 0) && (List.range 4).all (fun m => !slicePoweredOff m e)

/-- Slice `n` has finished the step it ran in `e`: start-up goes on to the next step once every slice has (R429). -/
def stepEnded (n : Nat) (e e' : Engine) : Prop :=
  (othersDone n e = true → initState e' = stepAfter (initState e) ∧ e'.power.done = []) ∧
  (othersDone n e = false → initState e' = initState e ∧ e'.power.done = e.power.done ++ [n])

/-- The message that a command brings (the TYPEs of R376). -/
def msgOf : Instr → Option Msg
  | .e2eAck h cls seq => some ⟨h, .e2eAck cls seq⟩
  | .e2eNack h cls seq => some ⟨h, .e2eNack cls seq⟩
  | .gateUp h step flags digest => some ⟨h, .gateUp step flags digest⟩
  | .gateDown h step proceed flags => some ⟨h, .gateDown step proceed flags⟩
  | .gateAsk h step => some ⟨h, .gateAsk step⟩
  | .endAck h step => some ⟨h, .endAck step⟩
  | .replay h step table row one home hs chain fromStart => some ⟨h, .replay step table row one home hs chain fromStart⟩
  | .drop h table => some ⟨h, .drop table⟩
  | .dropAck h table => some ⟨h, .dropAck table⟩
  | .rejoin h table => some ⟨h, .rejoin table⟩
  | .rejoinAck h table => some ⟨h, .rejoinAck table⟩
  | .shardMap h table shard entry dropped => some ⟨h, .shardMap table shard entry dropped⟩
  | .shardMapAck h table shard epoch => some ⟨h, .shardMapAck table shard epoch⟩
  | .timeSync h t1 => some ⟨h, .timeSync t1⟩
  | .timeReply h t2 t3 err => some ⟨h, .timeReply t2 t3 err⟩
  | .mcastAck h table row ver => some ⟨h, .mcastAck table row ver⟩
  | .faultNotice h cause slice => some ⟨h, .faultNotice cause slice⟩
  | .ask h typ table item => some ⟨h, .ask typ table item⟩
  | .stateRead h table row low => some ⟨h, .stateRead table row low⟩
  | .stateWrite h table row data => some ⟨h, .stateWrite table row data⟩
  | .stateWriteAck h table row => some ⟨h, .stateWriteAck table row⟩
  | .rowReq h bag want => some ⟨h, .rowReq bag want⟩
  | .replicaFetch h table row => some ⟨h, .replicaFetch table row⟩
  | .prefetchHint h table rows => some ⟨h, .prefetchHint table rows⟩
  | .replicaAction h table row action => some ⟨h, .replicaAction table row action⟩
  | .rowWriteReq h item row val source => some ⟨h, .rowWriteReq item row val source⟩
  | .partialIn h bag lanes chk chkInt bits part extra => some ⟨h, .partial_ bag lanes chk chkInt bits part extra⟩
  | .rowIn h bag rowNo val bits => some ⟨h, .row bag rowNo val bits⟩
  | .reject h reason => some ⟨h, .reject reason⟩
  | .writeDone h item bits => some ⟨h, .writeDone item bits⟩
  | .chainRow h step table row count home hs chain pairs => some ⟨h, .chainRow step table row count home hs chain pairs⟩
  | .chainEnd h step home hs chain rowsSent => some ⟨h, .chainEnd step home hs chain rowsSent⟩
  | .mcastRow h table row kind val => some ⟨h, .mcastRow table row kind val⟩
  | .mcastRemove h table row all => some ⟨h, .mcastRemove table row all⟩
  | .importRow h item row data contents => some ⟨h, .importRow item row data contents⟩
  | .regWrite h off size val => some ⟨h, .regWrite off size val⟩
  | .regRead h off size tag => some ⟨h, .regRead off size tag⟩
  | .regData h tag val => some ⟨h, .regData tag val⟩
  | .hostRead h addr len => some ⟨h, .hostRead addr len⟩
  | .hostData h addr data => some ⟨h, .hostData addr data⟩
  | .hostWrite h addr data => some ⟨h, .hostWrite addr data⟩
  | .msi h vector => some ⟨h, .msi vector⟩
  | .stateData h table row data => some ⟨h, .stateData table row data⟩
  | .subList h bag pos tile fl rows weights => some ⟨h, .subList bag pos tile fl rows weights⟩
  | .token h item row data rec => some ⟨h, .token item row data rec⟩
  | .migrateCopy h item row base val state => some ⟨h, .migrateCopy item row base val state⟩
  | .dbLine h line slots => some ⟨h, .dbLine line slots⟩
  | _ => none

/-- An older generation, or a slot that is not loaded, makes these messages of no use (R95). -/
def staleMsg (m : Msg) (e : Engine) : Bool :=
  match bodyType m.b with
  | 0x41 => decide (m.h.arg = 1) && !genOk m.h e
  | 0x20 | 0x21 | 0x22 | 0x23 | 0x33 => !(slotOf m.h.tableId e).loaded
  | _ => false

/-- A message reaches its operation: the engine runs, the message is for this device and whole, its turn has come (CONTROL
messages and forwarded ones have no number), its table is loaded with its generation, its slice has power and its row has not
moved (R95, R274, R375 to R379, R387, R402, R437). -/
def msgPasses (m : Msg) (e : Engine) : Bool :=
  alive e && decide (thisDev e < podSize e) && decide (m.h.dstDev = thisDev e) && m.h.crcOk &&
  !getB .safeInject Fld.SAFE_INJECT_ARM e &&
  (decide (bodyClass m.b = 0) || m.h.fwd || decide (m.h.seq = tget 0 (m.h.srcDev, bodyClass m.b) e.net.seqIn)) &&
  !staleMsg m e && (!tableChecked m.b || genOk m.h e) &&
  !((tableChecked m.b || decide (bodyType m.b = 0x20 ∨ bodyType m.b = 0x22)) && slicePoweredOff m.h.dstSlice e) &&
  (decide (m.h.arg = 2 ∧ bodyType m.b = 0x32) || (homeRow m.b).all (fun row => !movedRow m.h.tableId row e))

/-- The message has a number of its own (R377). -/
def numbered (m : Msg) : Bool := decide (bodyClass m.b ≠ 0) && !m.h.fwd

/-- The engine that acts on a message: woken, the next number expected. -/
def msgTaken (m : Msg) (e : Engine) : Engine :=
  let w := touch e
  if numbered m then setNet { w.net with seqIn := tput (m.h.srcDev, bodyClass m.b) ((m.h.seq + 1) % 2 ^ 32) w.net.seqIn } w else w

/-- After a numbered message those that waited for it are delivered and all of them are acknowledged (R377). -/
def msgEnded (m : Msg) (e : Engine) : Engine :=
  let k := (m.h.srcDev, bodyClass m.b)
  if numbered m then ackTo k (deliverHeld k e.net.heldIn.length e) else e

/-- A message that passes makes the engine that takes it go over to one that `f` describes; then all that this lets go on does
so, and messages that waited for this one follow. -/
def msgActs (c : Instr) (s : State) (f : Engine → Engine → Prop) : Prop :=
  ∀ m, msgOf c = some m → msgPasses m s.eng = true →
    ∃ u, exec c s = .next { s with eng := msgEnded m (settle u) } ∧ f (msgTaken m s.eng) u

/-- A message is on its way from one engine to the next. -/
def sentTo (d : Nat) (h : Hdr) (b : Body) (e u : Engine) : Prop := ∃ q, (portTo d e, (⟨{ h with seq := q }, b⟩ : Msg)) ∈ u.net.egress

/-- One more request for a row stands in the row tracker's list, and nothing else has changed. -/
def requested (use : RowUse) (slot row : Nat) (e u : Engine) : Prop :=
  ∃ q : RowReq, q.use = use ∧ q.slot = slot ∧ q.row = row ∧ q.id = e.nextId ∧
    u = { e with nextId := e.nextId + 1, rowReqs := e.rowReqs ++ [q] }

/-- A row is not in the cache of its slice, which has power. -/
def uncached (slot row : Nat) (e : Engine) : Bool :=
  let p := place slot row e
  !slicePoweredOff p.slice e && !rowCached p.slice slot p e

/-- One more message is on its way. -/
def oneMore (m : Msg) (e : Engine) : Engine :=
  { e with net := { e.net with egress := e.net.egress ++ [(portTo m.h.dstDev e, m)] } }

end Sys2Proof.Machine
end

