-- ==== Sys2Proof/Certificates/Slice0/Obligations.lean ====
section
/-! DEFINITION. The statements about the model, by the chapters of the manual. A statement speaks of every state that meets its
hypotheses, reached or not. Clauses that rest on a choice of the model name its log entry. -/

open Sys2Proof Sys2Proof.Machine

/-! Registers and start-up ring -/
/-- R9, R10, R448: REGISTER_WRITE to a register whose fields have no behaviour of their own stores its RW fields, clears its
W1C flags where a 1 is written, and leaves RO fields and reserved bits; the addressed half alone for 4 bytes. An access that
is not naturally aligned, or at a reserved offset, changes nothing. R156: a write of a pooling profile that a task in flight
names leaves that task's outputs undefined, and no other state. -/
def Obligations.RegisterWriteStores : Prop :=
  (∀ (s : State) (off size : Nat) (v : Word) (ok : Bool) (r : Reg) (lo : Nat),
    regAccess off size = some (r, lo) → plainReg r = true → writable r s.eng = true → writeBreaks r s.eng = false →
    ∃ e', answers (.registerWrite off size v ok) s e' ∧
      (∀ i, i < 64 → (getReg r e').getLsbD i =
        if lo ≤ i ∧ i < lo + 8 * size then
          if r.spec.w1c.getLsbD i && v.getLsbD (i - lo) then false
          else if r.spec.rw.getLsbD i then v.getLsbD (i - lo)
          else (getReg r (if r = .pwrCtl then s.eng else touch s.eng)).getLsbD i
        else (getReg r (if r = .pwrCtl then s.eng else touch s.eng)).getLsbD i) ∧
      e' = { s.eng with regs := e'.regs, power := e'.power, lostRegs := e'.lostRegs } ∧ regsKept [r, .pwrSts] s.eng e') ∧
  (∀ (s : State) (off size : Nat) (v : Word) (ok : Bool), regAccess off size = none →
    answers (.registerWrite off size v ok) s s.eng) ∧
  (∀ (s : State) (off size : Nat) (v : Word) (ok : Bool) (n p lo : Nat) (t : Task),
    regAccess off size = some (.slcProfCtl n p, lo) → writable (.slcProfCtl n p) s.eng = true → t ∈ s.eng.tasks →
    namesProfile n p t = true →
    ∃ e', answers (.registerWrite off size v ok) s e' ∧ { t with undef := true } ∈ e'.tasks ∧
      (∀ u ∈ e'.tasks, u ∈ s.eng.tasks ∨ ∃ w ∈ s.eng.tasks, namesProfile n p w = true ∧ u = { w with undef := true }) ∧
      e' = { s.eng with regs := e'.regs, power := e'.power, lostRegs := e'.lostRegs, tasks := e'.tasks } ∧
      regsKept [.slcProfCtl n p, .pwrSts] s.eng e')

/-- R454: a 32-bit read of SHD_TIME [31:0] returns them and latches [63:32]; the next 32-bit read of [63:32] returns the
shadow, and with no shadow pending the upper half. A write to SHD_TIME has no effect but to end IDLE. -/
def Obligations.TimeInHalves : Prop :=
  ∀ s : State, s.eng.inReset = none →
    answers .timeLowRead s { s.eng with
      busData := (getReg .time s.eng).extractLsb' 0 32 |>.zeroExtend 64
      timeShadow := some ((getReg .time s.eng).extractLsb' 32 32) } ∧
    (∀ h, s.eng.timeShadow = some h →
      answers .timeHighRead s { s.eng with busData := h.zeroExtend 64, timeShadow := none }) ∧
    (s.eng.timeShadow = none →
      answers .timeHighRead s { s.eng with busData := (getReg .time s.eng).extractLsb' 32 32 |>.zeroExtend 64 }) ∧
    (∀ off size v ok lo, regAccess off size = some (.time, lo) →
      ∃ e', answers (.registerWrite off size v ok) s e' ∧ onlyRegsWoken [] s.eng e')

/-- R431, R444: a write of 1 to ENABLE takes effect in READY or while ENABLE is 1 already, and nowhere else; outside the
fault state SHD_FAULT_N goes high. R36, R453: a producer index recorded meanwhile for the slot of a RUNNING ring becomes its
P_last, or makes the ring ERROR where it is too far ahead; with none recorded nothing but ENABLE and the pins changes. -/
def Obligations.EnableTakesEffectInReady : Prop :=
  ∀ s : State, s.eng.inReset = none →
    ((initState s.eng = 7 ∨ getF .ctl Fld.CTL_ENABLE s.eng = 1) →
      ∃ e', answers .enableSet s e' ∧ getF .ctl Fld.CTL_ENABLE e' = 1 ∧
        (inFault s.eng = false → e'.pinFault = .high) ∧ (inFault s.eng = true → e'.pinFault = s.eng.pinFault) ∧
        (inFault s.eng = true ∨ (∀ q ∈ s.eng.front.rings, q.2.state = .running →
            tfind ((ringOf q.1 s.eng).ctx.dbLine, (ringOf q.1 s.eng).ctx.dbSlot) s.eng.front.piSeen = none) →
          e' = { s.eng with regs := e'.regs, power := e'.power, lostRegs := e'.lostRegs, pinFault := e'.pinFault
                            pinAlert := e'.pinAlert } ∧
          regsKept [.ctl, .pwrSts] s.eng e') ∧
        (∀ r p, inFault s.eng = false → (s.eng.front.rings.map (·.1)).Nodup →
          let x := ringOf r s.eng
          let tooFar := 2 ^ x.ctx.log2Size < (p - x.nextPos).toNat ∨ 2 ^ x.ctx.log2Size < (p - x.pLast).toNat
          runningAt x.ctx.dbLine x.ctx.dbSlot s.eng = [r] → x.broken = none →
          tfind (x.ctx.dbLine, x.ctx.dbSlot) s.eng.front.piSeen = some p →
          (¬ tooFar → ringOf r e' = { x with pLast := p }) ∧ (tooFar → (ringOf r e').state = .error))) ∧
    (initState s.eng ≠ 7 → getF .ctl Fld.CTL_ENABLE s.eng ≠ 1 →
      ∃ e', answers .enableSet s e' ∧ getF .ctl Fld.CTL_ENABLE e' = getF .ctl Fld.CTL_ENABLE s.eng ∧ onlyRegsWoken [] s.eng e')

/-- R453, R186: a write of 0 to ENABLE takes effect in any state; clearing DOORBELL_POLL makes the head start a read of every
line of every device of the pod, and no other device; FIRST_STEP sets OPEN_STEP while no step is closing, no step member is
in flight and no contribution is held. -/
def Obligations.ControlWrites : Prop :=
  ∀ s : State, s.eng.inReset = none →
    (∃ e', answers .enableClear s e' ∧ getF .ctl Fld.CTL_ENABLE e' = 0 ∧ onlyRegsWoken [.ctl] s.eng e') ∧
    (alive s.eng = true → polling s.eng = true →
      ∃ e', answers .doorbellPollClear s e' ∧ polling e' = false ∧
        (thisDev s.eng = 0 → ∀ d l, d < podSize s.eng → l < 64 → (d, l) ∈ e'.front.dbReads) ∧
        (thisDev s.eng ≠ 0 → e'.front.dbReads = s.eng.front.dbReads) ∧
        e' = { s.eng with regs := e'.regs, power := e'.power, lostRegs := e'.lostRegs
                          front := { s.eng.front with dbReads := e'.front.dbReads } } ∧ regsKept [.ctl, .pwrSts] s.eng e') ∧
    (∀ k, getF .stepSts Fld.STEP_STS_CLOSING s.eng = 0 →
      s.eng.tasks.all (fun t => !dStepMember t.desc || decide (t.phase = .ended)) = true →
      (∀ n, n < 4 → getF (.slcGradSts n) Fld.SLC_GRAD_STS_HELD s.eng = 0) →
      ∃ e', answers (.firstStepWrite k) s e' ∧ getF .stepSts Fld.STEP_STS_OPEN_STEP e' = k % 2 ^ 32 ∧
        getF .stepBase Fld.STEP_BASE_FIRST_STEP e' = k % 2 ^ 32 ∧
        onlyRegsWoken [.stepSts, .stepBase, .slcGradSts 0, .slcGradSts 1, .slcGradSts 2, .slcGradSts 3] s.eng e')

/-- R291, R309, R310: a write of SHD_SLC_STREAM_CFG takes effect exactly when no DEPTH is above 64 and their sum is at most
256, and leaves the outputs of tasks in flight on a changed queue undefined (R293); a TAIL below SLOTS that does not overrun
HEAD is taken, one that overruns it sets SRING_OVERRUN and is not; SHD_SRING_BASE on an empty, idle ring takes effect and
sets HEAD and TAIL to 0. R309: with ENABLE 1 and HEAD ≠ TAIL the descriptor at HEAD becomes a task of privilege M and DOMAIN
0; once that task has ended, its record stands in bytes 64 to 95 of the slot with PHASE 1, and HEAD advances modulo SLOTS. -/
def Obligations.StreamAndRingConfiguration : Prop :=
  (∀ s : State, alive s.eng = true →
    (∀ n v, n < 4 → regGated (.slcStreamCfg n) s.eng = false →
      (∀ q, q < 8 → getFld v (Fld.SLC_STREAM_CFG_DEPTH q) ≤ 64) →
      ((List.range 8).map (fun q => getFld v (Fld.SLC_STREAM_CFG_DEPTH q))).sum ≤ 256 →
      let changed (q : Nat) : Bool := decide (getFld v (Fld.SLC_STREAM_CFG_DEPTH q) ≠
        getFld (getReg (.slcStreamCfg n) s.eng) (Fld.SLC_STREAM_CFG_DEPTH q))
      ∃ e', answers (.streamCfgWrite n v) s e' ∧
        (∀ q, q < 8 → getF (.slcStreamCfg n) (Fld.SLC_STREAM_CFG_DEPTH q) e' = getFld v (Fld.SLC_STREAM_CFG_DEPTH q)) ∧
        e'.tasks = s.eng.tasks.map (fun t => if usesQueue n changed t then { t with undef := true } else t) ∧
        e' = { s.eng with regs := e'.regs, power := e'.power, lostRegs := e'.lostRegs, tasks := e'.tasks } ∧
        regsKept [.slcStreamCfg n, .slcQueueSts n, .pwrSts] s.eng e') ∧
    (∀ n v, n < 4 → regGated (.slcStreamCfg n) s.eng = false →
      ((∃ q, q < 8 ∧ 64 < getFld v (Fld.SLC_STREAM_CFG_DEPTH q)) ∨
        256 < ((List.range 8).map (fun q => getFld v (Fld.SLC_STREAM_CFG_DEPTH q))).sum) →
      ∃ e', answers (.streamCfgWrite n v) s e' ∧ onlyRegsWoken [] s.eng e') ∧
    (∀ v, v < sringSlots s.eng →
      (getF .sringTail Fld.SRING_TAIL_TAIL s.eng + sringSlots s.eng - getF .sringHead Fld.SRING_HEAD_HEAD s.eng) % sringSlots s.eng
        ≤ (v + sringSlots s.eng - getF .sringHead Fld.SRING_HEAD_HEAD s.eng) % sringSlots s.eng →
      ∃ e', answers (.sringTailWrite v) s e' ∧ getF .sringTail Fld.SRING_TAIL_TAIL e' = v ∧ onlyRegsWoken [.sringTail] s.eng e') ∧
    (∀ v, v < sringSlots s.eng →
      (v + sringSlots s.eng - getF .sringHead Fld.SRING_HEAD_HEAD s.eng) % sringSlots s.eng <
        (getF .sringTail Fld.SRING_TAIL_TAIL s.eng + sringSlots s.eng - getF .sringHead Fld.SRING_HEAD_HEAD s.eng) % sringSlots s.eng →
      ∃ e', answers (.sringTailWrite v) s e' ∧ getReg .sringTail e' = getReg .sringTail s.eng ∧
        getF .sts Fld.STS_SRING_OVERRUN e' = 1) ∧
    (∀ v, getF .sringHead Fld.SRING_HEAD_HEAD s.eng = getF .sringTail Fld.SRING_TAIL_TAIL s.eng →
      getF .sringHead Fld.SRING_HEAD_BUSY s.eng = 0 →
      ∃ e', answers (.sringBaseWrite v) s e' ∧ getReg .sringBase e' = v &&& Reg.sringBase.spec.rw ∧
        getF .sringHead Fld.SRING_HEAD_HEAD e' = 0 ∧ getF .sringTail Fld.SRING_TAIL_TAIL e' = 0 ∧
        onlyRegsWoken [.sringBase, .sringHead, .sringTail] s.eng e')) ∧
  (∀ s : State, 3 ≤ sringSlots s.eng →
    (enabled s.eng = true → findTask .sring s.eng = none → inflightAll s.eng < 8192 →
      getF .sringHead Fld.SRING_HEAD_HEAD s.eng ≠ getF .sringTail Fld.SRING_TAIL_TAIL s.eng →
      ∃ e', answers .sringExecute s e' ∧
        findTask .sring e' = some { ref := .sring, desc := BitVec.ofNat 512 (hostNat (sringSlot s.eng) 64 s.eng), priv := 3
                                    domain := 0, order := s.eng.front.order } ∧
        getF .sringHead Fld.SRING_HEAD_BUSY e' = 1 ∧
        e' = { s.eng with regs := e'.regs, tasks := e'.tasks, front := e'.front } ∧ regsKept [.sringHead] s.eng e') ∧
    (∀ t, alive s.eng = true → thisDev s.eng = 0 → s.eng.mem.wf = true → findTask .sring s.eng = some t → t.phase = .ended →
      ∃ e', answers .sringExecute s e' ∧
        hostRead (sringSlot s.eng + 64) 32 e' =
          recordBytes 1 t.status t.detail t.flags (BitVec.ofNat 32 (dSeq t.desc)) t.items t.clipped t.quantised (dTag t.desc) ∧
        findTask .sring e' = none ∧
        getF .sringHead Fld.SRING_HEAD_HEAD e' = (getF .sringHead Fld.SRING_HEAD_HEAD s.eng + 1) % sringSlots s.eng ∧
        getF .sringHead Fld.SRING_HEAD_LAST_STATUS e' = t.status % 256 ∧
        (∀ a, a < sringSlot s.eng + 64 ∨ sringSlot s.eng + 96 ≤ a → memGet a e'.mem.host = memGet a s.eng.mem.host) ∧
        regsKept [.sringHead] s.eng e'))


/-! Rings, doorbells and completions -/
/-- R30, R33, R36: START, with GO 0, runs a STOPPED ring whose context passes the checks: the ring takes the context and
NEXT_POS = START_POS, QW7 of the context says RUNNING, RESULT is 0 and GO returns to 0; a producer index recorded for its
slot becomes P_last, or faults the ring with PI_OVERRUN where it is not within the ring. A check that fails gives its RESULT
and changes nothing else. -/
def Obligations.StartRunsRing : Prop :=
  ∀ (s : State) (r : Nat) (ok : Bool), r < 1024 → cmdFree s.eng = true → s.eng.mem.wf = true →
    let c := parseRingCtx (readRingCtx r s.eng)
    let key := (c.dbLine, c.dbSlot)
    let p := (tfind key s.eng.front.piSeen).getD c.startPos
    (startResult r ok s.eng = 0 → (p - c.startPos).toNat ≤ 2 ^ c.log2Size →
      ∃ e' q, answers (.start r ok) s e' ∧
        ringOf r e' = { ctx := c, state := .running, nextPos := c.startPos, pLast := p, cplPos := c.startPos
                        startAt := c.startPos, intPending := (ringOf r s.eng).intPending
                        intFirst := (ringOf r s.eng).intFirst, qw7Old := q } ∧
        (∀ r', r' ≠ r → ringOf r' e' = ringOf r' s.eng) ∧
        hostNat (ringCtxAddr r s.eng + 56) 8 e' = 1 + c.startPos.toNat * 2 ^ 32 ∧
        (∀ a, a < ringCtxAddr r s.eng + 56 ∨ ringCtxAddr r s.eng + 64 ≤ a → memGet a e'.mem.host = memGet a s.eng.mem.host) ∧
        getF .ringCmd Fld.RING_CMD_GO e' = 0 ∧ getF .ringCmd Fld.RING_CMD_RESULT e' = 0 ∧
        (thisDev s.eng = 0 → e'.net = s.eng.net) ∧
        e' = { s.eng with regs := e'.regs, power := { s.eng.power with quiet := now s.eng }, lostRegs := e'.lostRegs, net := e'.net
                          front := { s.eng.front with rings := e'.front.rings, piSeen := tdel key s.eng.front.piSeen }
                          mem := { s.eng.mem with host := e'.mem.host } } ∧
        regsKept [.ringCmd, .pwrSts] s.eng e') ∧
    (startResult r ok s.eng = 0 → 2 ^ c.log2Size < (p - c.startPos).toNat →
      ∃ e', answers (.start r ok) s e' ∧ (ringOf r e').state = .error ∧ (ringOf r e').err = 1 ∧
        getF .sts Fld.STS_RING_ERROR e' = 1 ∧ getF .sts Fld.STS_LAST_ERROR_RING e' = r) ∧
    (startResult r ok s.eng ≠ 0 →
      ∃ e', answers (.start r ok) s e' ∧ getF .ringCmd Fld.RING_CMD_GO e' = 0 ∧
        getF .ringCmd Fld.RING_CMD_RESULT e' = startResult r ok s.eng ∧ onlyRegsWoken [.ringCmd] s.eng e')

/-- R28, R31 to R33: STOP drains a RUNNING ring and waits with GO 1; on a HALTED or ERROR ring it waits; on a STOPPED ring it
ends with RESULT 0 and in DRAINING or ABORTING with RESULT 2. A code other than 1, 2 and 3 gives RESULT 2. R32, R33: ABORT of
a ring that is not STOPPED and not ABORTING enters ABORTING, and every fetched task of it that has not started ends with
ABORTED_BY_HOST and ITEMS 0; on a STOPPED ring it ends with RESULT 0. R27, R31 to R33: once no task of a stopping ring is in
flight the ring is STOPPED, its QW7 says so, and the command that waited gets RESULT 0 and GO 0. CTX_WRITE_FAULT: a host
write error for QW7 leaves host memory as it was there, sets RING_ERROR and RING_ERRORS and LAST_ERROR_RING, and the ring
keeps its state. -/
def Obligations.RingsStop : Prop :=
  (∀ (s : State) (r : Nat), r < 1024 → cmdFree s.eng = true → s.eng.mem.wf = true →
    ((ringOf r s.eng).state = .running →
      ∃ e' q, answers (.stop r) s e' ∧ ringOf r e' = { ringOf r s.eng with state := .draining, cmdWait := true, qw7Old := q } ∧
        getF .ringCmd Fld.RING_CMD_GO e' = 1 ∧
        hostNat (ringCtxAddr r s.eng + 56) 8 e' =
          2 + (ringOf r s.eng).err % 256 * 2 ^ 8 + (ringOf r s.eng).nextPos.toNat * 2 ^ 32 ∧
        (∀ a, a < ringCtxAddr r s.eng + 56 ∨ ringCtxAddr r s.eng + 64 ≤ a → memGet a e'.mem.host = memGet a s.eng.mem.host) ∧
        (∀ r', r' ≠ r → ringOf r' e' = ringOf r' s.eng) ∧ (thisDev s.eng = 0 → e'.net = s.eng.net) ∧
        e' = { s.eng with regs := e'.regs, power := { s.eng.power with quiet := now s.eng }, lostRegs := e'.lostRegs, net := e'.net
                          front := { s.eng.front with rings := e'.front.rings }
                          mem := { s.eng.mem with host := e'.mem.host } } ∧
        regsKept [.ringCmd, .pwrSts] s.eng e') ∧
    ((ringOf r s.eng).state = .halted ∨ (ringOf r s.eng).state = .error →
      ∃ e', answers (.stop r) s e' ∧ ringOf r e' = { ringOf r s.eng with cmdWait := true } ∧
        getF .ringCmd Fld.RING_CMD_GO e' = 1 ∧ (∀ r', r' ≠ r → ringOf r' e' = ringOf r' s.eng) ∧
        e' = { s.eng with regs := e'.regs, power := { s.eng.power with quiet := now s.eng }, lostRegs := e'.lostRegs
                          front := { s.eng.front with rings := e'.front.rings } } ∧
        regsKept [.ringCmd, .pwrSts] s.eng e') ∧
    ((ringOf r s.eng).state = .stopped ∨ (ringOf r s.eng).state = .draining ∨ (ringOf r s.eng).state = .aborting →
      ∃ e', answers (.stop r) s e' ∧ getF .ringCmd Fld.RING_CMD_GO e' = 0 ∧
        getF .ringCmd Fld.RING_CMD_RESULT e' = (if (ringOf r s.eng).state = .stopped then 0 else 2) ∧
        onlyRegsWoken [.ringCmd] s.eng e') ∧
    (∀ cmd, cmd < 8 → ¬(1 ≤ cmd ∧ cmd ≤ 3) →
      ∃ e', answers (.ringCmdOther r cmd) s e' ∧ getF .ringCmd Fld.RING_CMD_GO e' = 0 ∧
        getF .ringCmd Fld.RING_CMD_RESULT e' = 2 ∧ onlyRegsWoken [.ringCmd] s.eng e')) ∧
  (∀ (s : State) (r : Nat), r < 1024 → cmdFree s.eng = true →
    ((ringOf r s.eng).state ≠ .stopped → (ringOf r s.eng).state ≠ .aborting →
      ∃ e', answers (.abort r) s e' ∧ (ringOf r e').state = .aborting ∧ (ringOf r e').cmdWait = true ∧
        getF .ringCmd Fld.RING_CMD_GO e' = 1 ∧
        (∀ p t, findTask (.ring r p) s.eng = some t → t.phase ≠ .running → t.phase ≠ .ended →
          ∃ t', findTask (.ring r p) e' = some t' ∧ t'.phase = .ended ∧ t'.status = 0x70) ∧
        (∀ p t, findTask (.ring r p) s.eng = some t → t.phase = .ended → findTask (.ring r p) e' = some t) ∧
        (∀ r', r' ≠ r → ringOf r' e' = ringOf r' s.eng) ∧
        e' = { s.eng with regs := e'.regs, power := { s.eng.power with quiet := now s.eng }, lostRegs := e'.lostRegs, net := e'.net
                          front := { s.eng.front with rings := e'.front.rings }, mem := e'.mem, freeCtr := e'.freeCtr
                          tasks := e'.tasks, jobs := e'.jobs, rowReqs := e'.rowReqs, grad := e'.grad, hot := e'.hot } ∧
        ((∀ j ∈ s.eng.jobs, j.outs = []) → e'.freeCtr = s.eng.freeCtr ∧ e'.mem = { s.eng.mem with host := e'.mem.host })) ∧
    ((ringOf r s.eng).state = .aborting →
      ∃ e', answers (.abort r) s e' ∧ ringOf r e' = { ringOf r s.eng with cmdWait := true } ∧ e'.tasks = s.eng.tasks ∧
        getF .ringCmd Fld.RING_CMD_GO e' = 1) ∧
    ((ringOf r s.eng).state = .stopped →
      ∃ e', answers (.abort r) s e' ∧ getF .ringCmd Fld.RING_CMD_GO e' = 0 ∧ getF .ringCmd Fld.RING_CMD_RESULT e' = 0 ∧
        onlyRegsWoken [.ringCmd] s.eng e')) ∧
  (∀ (s : State) (r : Nat), r < 1024 → alive s.eng = true → s.eng.mem.wf = true →
    (stopping (ringOf r s.eng) = true → ringQuiet r s.eng = true →
      ∃ e' q, answers (.ringStopped r) s e' ∧
        ringOf r e' = { ringOf r s.eng with state := .stopped, cmdWait := false, qw7Old := q } ∧
        hostNat (ringCtxAddr r s.eng + 56) 8 e' = (ringOf r s.eng).err % 256 * 2 ^ 8 + (ringOf r s.eng).nextPos.toNat * 2 ^ 32 ∧
        (∀ a, a < ringCtxAddr r s.eng + 56 ∨ ringCtxAddr r s.eng + 64 ≤ a → memGet a e'.mem.host = memGet a s.eng.mem.host) ∧
        ((ringOf r s.eng).cmdWait = true →
          getF .ringCmd Fld.RING_CMD_GO e' = 0 ∧ getF .ringCmd Fld.RING_CMD_RESULT e' = 0) ∧
        (∀ r', r' ≠ r → ringOf r' e' = ringOf r' s.eng) ∧ (thisDev s.eng = 0 → e'.net = s.eng.net) ∧
        e' = { s.eng with regs := e'.regs, net := e'.net, front := { s.eng.front with rings := e'.front.rings }
                          mem := { s.eng.mem with host := e'.mem.host } } ∧
        regsKept [.ringCmd] s.eng e') ∧
    (∀ old, (ringOf r s.eng).qw7Old = some old → old.length = 8 →
      ∃ e', answers (.ctxWriteFault r) s e' ∧ hostRead (ringCtxAddr r s.eng + 56) 8 e' = old ∧
        (∀ a, a < ringCtxAddr r s.eng + 56 ∨ ringCtxAddr r s.eng + 64 ≤ a → memGet a e'.mem.host = memGet a s.eng.mem.host) ∧
        ringOf r e' = { ringOf r s.eng with qw7Old := none } ∧
        getF .sts Fld.STS_RING_ERROR e' = 1 ∧ getF .sts Fld.STS_LAST_ERROR_RING e' = r ∧
        getF .sts Fld.STS_RING_ERRORS e' = min (getF .sts Fld.STS_RING_ERRORS s.eng + 1) (2 ^ Fld.STS_RING_ERRORS.width - 1) ∧
        e' = { s.eng with regs := e'.regs, front := { s.eng.front with rings := e'.front.rings }, logs := e'.logs
                          mem := { s.eng.mem with host := e'.mem.host }, counters := e'.counters, pinAlert := e'.pinAlert } ∧
        regsKept [.sts, .faultSts, .logSts 0] s.eng e'))

/-- R57 to R60: at the head without polling an invalidation starts a read of the line; a poll starts a read of every line of
a RUNNING ring of this device; a read that completes at the head with new contents of another device's line forwards them
with DB_LINE, and a read of this device's line leaves the line held as host memory has it; a read that fails waits for its
retry; a retry that fails sets no line and leaves the read. R36, R57: while ENABLE is 1, a producer index within the ring,
seen in a changed slot of a RUNNING ring none of whose fences broke, becomes its P_last; one beyond the ring's size past
NEXT_POS or P_last makes the ring ERROR with PI_OVERRUN. -/
def Obligations.DoorbellsRead : Prop :=
  (∀ (s : State) (dev line : Nat), alive s.eng = true →
    (thisDev s.eng = 0 → polling s.eng = false →
      ∃ e', answers (.doorbellInvalidation dev line) s e' ∧ (dev, line) ∈ e'.front.dbReads ∧
        (∀ l, l ∈ e'.front.dbReads ↔ l = (dev, line) ∨ l ∈ s.eng.front.dbReads) ∧
        e' = { s.eng with front := { s.eng.front with dbReads := e'.front.dbReads } }) ∧
    (∀ noCxl : Bool, (polling s.eng || noCxl) = true →
      ∃ e', answers (.doorbellPollTick noCxl) s e' ∧
        (∀ l, l ∈ e'.front.dbReads ↔ l ∈ s.eng.front.dbReads ∨
          ∃ q ∈ s.eng.front.rings, q.2.state = .running ∧ l = (thisDev s.eng, q.2.ctx.dbLine)) ∧
        e' = { s.eng with front := { s.eng.front with dbReads := e'.front.dbReads } }) ∧
    ((dev, line) ∈ s.eng.front.dbReads →
      (∃ e', answers (.doorbellReadFault dev line) s e' ∧ (dev, line) ∈ e'.front.dbRetry ∧
        e'.front.dbReads = s.eng.front.dbReads.erase (dev, line) ∧
        e' = { s.eng with front := { s.eng.front with dbReads := e'.front.dbReads, dbRetry := e'.front.dbRetry } }) ∧
      (∀ slots, dev = thisDev s.eng →
        ∃ e', answers (.doorbellLineRead dev line slots) s e' ∧ heldLine (dev, line) e' = readLine (dev, line) s.eng ∧
          e'.front.dbReads = s.eng.front.dbReads.erase (dev, line)) ∧
      (∀ slots, dev ≠ thisDev s.eng → reachable dev s.eng = true → heldLine (dev, line) s.eng ≠ slots →
        ∃ e', answers (.doorbellLineRead dev line slots) s e' ∧ heldLine (dev, line) e' = slots ∧
          e'.front.dbReads = s.eng.front.dbReads.erase (dev, line) ∧
          (∃ port h, e'.net.egress = s.eng.net.egress ++ [(port, ⟨h, .dbLine line slots⟩)] ∧ h.dstDev = dev) ∧
          e' = { s.eng with regs := e'.regs, power := e'.power, net := e'.net
                            front := { s.eng.front with dbReads := e'.front.dbReads, dbRetry := e'.front.dbRetry
                                                        dbLines := e'.front.dbLines } } ∧
          regsKept [.pwrSts] s.eng e')) ∧
    ((dev, line) ∈ s.eng.front.dbRetry →
      (∀ slots, dev = thisDev s.eng → ∃ e', answers (.doorbellRetry dev line true slots) s e' ∧
        heldLine (dev, line) e' = readLine (dev, line) s.eng ∧
        e'.front.dbRetry = s.eng.front.dbRetry.erase (dev, line)) ∧
      (∀ slots, dev ≠ thisDev s.eng → ∃ e', answers (.doorbellRetry dev line false slots) s e' ∧
        e' = { s.eng with front := { s.eng.front with dbRetry := s.eng.front.dbRetry.erase (dev, line) } }) ∧
      (∀ slots r, dev = thisDev s.eng → (ringOf r s.eng).state = .running → (ringOf r s.eng).ctx.dbLine = line →
        (r, ringOf r s.eng) ∈ s.eng.front.rings → (s.eng.front.rings.map (·.1)).Nodup →
        ∃ e', answers (.doorbellRetry dev line false slots) s e' ∧ (ringOf r e').state = .error ∧
          getF .sts Fld.STS_RING_ERROR e' = 1))) ∧
  (∀ (s : State) (r line slot : Nat) (slots : List (BitVec 32)), enabled s.eng = true → slot < 16 →
    (thisDev s.eng, line) ∈ s.eng.front.dbReads → runningAt line slot s.eng = [r] → (ringOf r s.eng).state = .running →
    (ringOf r s.eng).broken = none →
    (∀ k, k < 16 → k ≠ slot → (readLine (thisDev s.eng, line) s.eng).getD k 0 = (heldLine (thisDev s.eng, line) s.eng).getD k 0) →
    let p := (readLine (thisDev s.eng, line) s.eng).getD slot 0
    p ≠ (heldLine (thisDev s.eng, line) s.eng).getD slot 0 →
    let x := ringOf r s.eng
    let tooFar := 2 ^ x.ctx.log2Size < (p - x.nextPos).toNat ∨ 2 ^ x.ctx.log2Size < (p - x.pLast).toNat
    (¬ tooFar → ∃ e', answers (.doorbellLineRead (thisDev s.eng) line slots) s e' ∧ ringOf r e' = { x with pLast := p } ∧
      (∀ r', r' ≠ r → ringOf r' e' = ringOf r' s.eng) ∧
      e' = { s.eng with regs := e'.regs, power := e'.power
                        front := { s.eng.front with rings := e'.front.rings, dbReads := e'.front.dbReads
                                                    dbRetry := e'.front.dbRetry, dbLines := e'.front.dbLines } } ∧
      regsKept [.pwrSts] s.eng e') ∧
    (tooFar → ∃ e', answers (.doorbellLineRead (thisDev s.eng) line slots) s e' ∧ (ringOf r e').state = .error ∧
      (ringOf r e').pLast = x.pLast ∧ (ringOf r e').nextPos = x.nextPos ∧ (x.err = 0 → (ringOf r e').err = 1) ∧
      getF .sts Fld.STS_RING_ERROR e' = 1))

/-- R43, R44: a fetch takes the next ring in ascending cyclic order with unfetched positions, reads at most 8 slots, none
past P_last, none across the end of the ring and none above the limits in flight, and moves NEXT_POS past them. R37, R43: the
oldest read of a ring arrives: each of its descriptors becomes a task of the ring's PRIV and DOMAIN, ready where its SEQ is
its position and otherwise waiting for a re-read (ended with ABORTED_BY_HOST while the ring is ABORTING). A re-read 1 µs
later that finds its SEQ makes it ready; the third that does not ends it with SEQ_MISMATCH. R54: a failed descriptor read:
the position completes with DESC_FETCH, the ring takes the fault DESC_FETCH and goes from RUNNING to ERROR, and NEXT_POS is
one past the position. -/
def Obligations.DescriptorsFetched : Prop :=
  (∀ (s : State) (r : Nat), enabled s.eng = true →
    (visitOrder s.eng).find? (fun q => decide (0 < fetchable q s.eng)) = some r →
    ∃ e' n, answers .descFetch s e' ∧ 1 ≤ n ∧ n ≤ 8 ∧
      n ≤ ((ringOf r s.eng).pLast - (ringOf r s.eng).nextPos).toNat ∧
      (ringOf r s.eng).nextPos.toNat % 2 ^ (ringOf r s.eng).ctx.log2Size + n ≤ 2 ^ (ringOf r s.eng).ctx.log2Size ∧
      inflightOf r s.eng + n ≤ (ringOf r s.eng).ctx.maxInflight ∧ inflightAll s.eng + n ≤ 8192 ∧
      ringOf r e' = { ringOf r s.eng with nextPos := (ringOf r s.eng).nextPos + BitVec.ofNat 32 n } ∧
      e'.front.fetches = s.eng.front.fetches ++ [⟨r, (ringOf r s.eng).nextPos, n⟩] ∧ e'.front.fetchPtr = r + 1 ∧
      (∀ r', r' ≠ r → ringOf r' e' = ringOf r' s.eng) ∧
      e' = { s.eng with front := { s.eng.front with fetches := e'.front.fetches, fetchPtr := r + 1, rings := e'.front.rings } }) ∧
  (∀ (s : State) (r : Nat), alive s.eng = true →
    (∀ f, firstFetch r s.eng = some f → f.ring = r → f.count ≤ 8 →
      ∃ e', answers (.descArrival r) s e' ∧ e'.tasks.length = s.eng.tasks.length + f.count ∧
        (∀ i, i < f.count → ∃ t, e'.tasks[s.eng.tasks.length + i]? = some t ∧
          t.ref = .ring r (f.pos + BitVec.ofNat 32 i) ∧ t.desc = readDesc (ringOf r s.eng).ctx (f.pos + BitVec.ofNat 32 i) s.eng ∧
          t.priv = (ringOf r s.eng).ctx.priv ∧ t.domain = (ringOf r s.eng).ctx.domain ∧ t.order = s.eng.front.order + i ∧
          ((ringOf r s.eng).state = .aborting → t.phase = .ended ∧ t.status = 0x70) ∧
          ((ringOf r s.eng).state ≠ .aborting → dSeq t.desc = (f.pos + BitVec.ofNat 32 i).toNat → t.phase = .ready) ∧
          ((ringOf r s.eng).state ≠ .aborting → dSeq t.desc ≠ (f.pos + BitVec.ofNat 32 i).toNat →
            t.phase = .seqWait 0 (now s.eng))) ∧
        e'.front.fetches = s.eng.front.fetches.erase f ∧
        e' = { s.eng with tasks := e'.tasks
                          front := { s.eng.front with fetches := e'.front.fetches, order := e'.front.order, rings := e'.front.rings } }) ∧
    (∀ pos t tries t0, findTask (.ring r pos) s.eng = some t → t.phase = .seqWait tries t0 → elapsedUs t0 1 s.eng = true →
      (dSeq (readDesc (ringOf r s.eng).ctx pos s.eng) = pos.toNat →
        ∃ e', answers (.seqReread r pos) s e' ∧
          findTask (.ring r pos) e' = some { t with desc := readDesc (ringOf r s.eng).ctx pos s.eng, phase := .ready } ∧
          e' = { s.eng with tasks := e'.tasks, front := { s.eng.front with rings := e'.front.rings } }) ∧
      (dSeq (readDesc (ringOf r s.eng).ctx pos s.eng) ≠ pos.toNat → tries + 1 < 3 →
        ∃ e', answers (.seqReread r pos) s e' ∧
          findTask (.ring r pos) e' =
            some { t with desc := readDesc (ringOf r s.eng).ctx pos s.eng, phase := .seqWait (tries + 1) (now s.eng) } ∧
          e' = { s.eng with tasks := e'.tasks }) ∧
      (dSeq (readDesc (ringOf r s.eng).ctx pos s.eng) ≠ pos.toNat → 3 ≤ tries + 1 →
        ∃ e' t', answers (.seqReread r pos) s e' ∧ findTask (.ring r pos) e' = some t' ∧ t'.phase = .ended ∧
          t'.status = 0x20 ∧ t'.detail = 0x03 ∧ t'.items = 0 ∧ e' = { s.eng with tasks := e'.tasks, grad := e'.grad }))) ∧
  (∀ (s : State) (r k : Nat) (f : Fetch), alive s.eng = true → r < 1024 → firstFetch r s.eng = some f → k < f.count →
    findTask (.ring r (f.pos + BitVec.ofNat 32 k)) s.eng = none → f.count ≤ 8 → (ringOf r s.eng).state = .running →
    ∃ e' t, answers (.descReadFault r k) s e' ∧ findTask (.ring r (f.pos + BitVec.ofNat 32 k)) e' = some t ∧
      t.phase = .ended ∧ t.status = 0x30 ∧ t.detail = 0x01 ∧ t.read = false ∧
      (ringOf r e').nextPos = f.pos + BitVec.ofNat 32 k + 1 ∧ (ringOf r e').state = .error ∧
      ((ringOf r s.eng).err = 0 → (ringOf r e').err = 2) ∧ getF .sts Fld.STS_RING_ERROR e' = 1 ∧
      e'.tasks.length = s.eng.tasks.length + k + 1 ∧
      (∀ r', r' ≠ r → ringOf r' e' = ringOf r' s.eng) ∧
      e' = { s.eng with regs := e'.regs, tasks := e'.tasks, front := e'.front, net := e'.net, logs := e'.logs
                        counters := e'.counters, pinAlert := e'.pinAlert, mem := { s.eng.mem with host := e'.mem.host } } ∧
      regsKept [.sts, .faultSts, .logSts 0] s.eng e')

/-- R46 to R50, R54, R61: the record of the next position whose task has ended is written at the position's slot of the
completion ring, the task leaves flight and the next record is that of the next position; the ring's pending interrupt
requests count up and at INT_COUNT become one message. An error of that write discards the record, stops the ring's record
writes and makes the ring ERROR with CPL_WRITE. A pending request INT_DELAY µs old becomes a message. -/
def Obligations.CompletionRecords : Prop :=
  ∀ (s : State) (r : Nat) (t : Task), r < 1024 → alive s.eng = true → s.eng.mem.wf = true →
    let x := ringOf r s.eng
    let a := cplAddr x.ctx x.cplPos
    let q := ringCtxAddr r s.eng + 56
    (recordOf r x.cplPos s.eng = some t → x.state ≠ .stopped → ringSaving r s.eng = false → x.cplStopped = false →
      (a + 32 ≤ q ∨ q + 8 ≤ a) →
      (∃ e', answers (.completionWrite r) s e' ∧ hostRead a 32 e' = taskRecord x.ctx x.cplPos t ∧
        (ringOf r e').cplPos = x.cplPos + 1 ∧ findTask (.ring r x.cplPos) e' = none ∧
        (∀ b, (b < a ∨ a + 32 ≤ b) → (b < q ∨ q + 8 ≤ b) → memGet b e'.mem.host = memGet b s.eng.mem.host) ∧
        (∀ r', r' ≠ r → ringOf r' e' = ringOf r' s.eng) ∧
        e' = { s.eng with front := { s.eng.front with rings := e'.front.rings, msix := e'.front.msix }, tasks := e'.tasks
                          jobs := e'.jobs, grad := e'.grad, net := e'.net, mem := { s.eng.mem with host := e'.mem.host } } ∧
        (thisDev s.eng = 0 → t.read = true → dCompleteInt t.desc = true → t.status < 0x10 → t.flags = 0 → x.failed = false →
          x.broken = none → x.ctx.intEnable = true →
          (x.intPending + 1 < max x.ctx.intCount 1 →
            (ringOf r e').intPending = x.intPending + 1 ∧ e'.front.msix = s.eng.front.msix) ∧
          (max x.ctx.intCount 1 ≤ x.intPending + 1 →
            (ringOf r e').intPending = 0 ∧ e'.front.msix = s.eng.front.msix ++ [x.ctx.intVector]))) ∧
      (∃ e', answers (.cplWriteFault r) s e' ∧ (ringOf r e').cplStopped = true ∧ (ringOf r e').cplPos = x.cplPos + 1 ∧
        findTask (.ring r x.cplPos) e' = none ∧ getF .sts Fld.STS_RING_ERROR e' = 1 ∧
        (x.state = .running ∨ x.state = .draining ∨ x.state = .halted → (ringOf r e').state = .error) ∧
        (x.err = 0 → (ringOf r e').err = 3) ∧
        (∀ b, (b < q ∨ q + 8 ≤ b) → memGet b e'.mem.host = memGet b s.eng.mem.host) ∧
        (∀ r', r' ≠ r → ringOf r' e' = ringOf r' s.eng) ∧
        e' = { s.eng with regs := e'.regs, front := { s.eng.front with rings := e'.front.rings, msix := e'.front.msix }
                          tasks := e'.tasks, jobs := e'.jobs, grad := e'.grad, net := e'.net, logs := e'.logs
                          counters := e'.counters, pinAlert := e'.pinAlert, mem := { s.eng.mem with host := e'.mem.host } } ∧
        regsKept [.sts, .faultSts, .logSts 0] s.eng e')) ∧
    (0 < x.intPending → x.ctx.intEnable = true → usTicks x.ctx.intDelay ≤ now s.eng - x.intFirst →
      ∃ e', answers (.intDelayExpiry r) s e' ∧ ringOf r e' = { x with intPending := 0 } ∧
        (thisDev s.eng = 0 → e'.front.msix = s.eng.front.msix ++ [x.ctx.intVector] ∧ e'.net = s.eng.net) ∧
        (∀ r', r' ≠ r → ringOf r' e' = ringOf r' s.eng) ∧
        e' = { s.eng with front := { s.eng.front with rings := e'.front.rings, msix := e'.front.msix }, net := e'.net })

/-! Tasks without a stream. -/


/-! Tasks -/
/-- R39, R41, R42: NOP ends with DONE and ITEMS 1, an opcode that is not assigned with BAD_OPCODE; FENCE starts and stays
running; once nothing it waits for is left it ends with DONE and ITEMS 1. R107, R422: STATS_READ with SET 0 writes the 512
bytes of the slice counters at OUT, and with SET 1 the two regeneration counters of the slot and 48 bytes 0; CLEAR then
clears what was read; the task ends with DONE and ITEMS 1. -/
def Obligations.SimpleTasksComplete : Prop :=
  (∀ (s : State) (t : Task),
    (startsClean t (fun _ _ => none) s.eng = true → dOpcode t.desc = 0x1F →
      ∃ e', answers (.nop t.ref) s e' ∧ findTask t.ref e' = some (outcome t 0x01 0 1 s.eng) ∧
        (∀ q, q ≠ t.ref → findTask q e' = findTask q s.eng) ∧
        e' = { s.eng with tasks := e'.tasks, front := { s.eng.front with rings := e'.front.rings } }) ∧
    (findTask t.ref s.eng = some t → findJob t.ref s.eng = none → canStart t s.eng = true →
      opcodes.lookup (dOpcode t.desc) = none →
      ∃ e', answers (.nop t.ref) s e' ∧ findTask t.ref e' = some (outcome t 0x20 0x01 0 s.eng) ∧
        (∀ q, q ≠ t.ref → findTask q e' = findTask q s.eng) ∧
        e' = { s.eng with tasks := e'.tasks, front := { s.eng.front with rings := e'.front.rings } }) ∧
    (startsClean t (fun _ _ => none) s.eng = true → dOpcode t.desc = 0x1E →
      ∃ e', answers (.fence t.ref) s e' ∧
        findTask t.ref e' = some { t with phase := .running, step := getF .stepSts Fld.STEP_STS_OPEN_STEP s.eng,
                                          precise := dPrecise t.desc || getB .ctl Fld.CTL_PRECISE_DEFAULT s.eng } ∧
        (∀ q, q ≠ t.ref → findTask q e' = findTask q s.eng) ∧
        e' = { s.eng with tasks := e'.tasks, front := { s.eng.front with rings := e'.front.rings } }) ∧
    (findTask t.ref s.eng = some t → alive s.eng = true → dOpcode t.desc = 0x1E → t.phase = .running →
      (∀ r p, t.ref = .ring r p → (ringOf r s.eng).cplPos = p ∧ (ringOf r s.eng).broken = none) →
      (∀ u ∈ s.eng.tasks, fenceWaits t u = false) →
      ∃ e', answers (.fenceRelease t.ref) s e' ∧
        findTask t.ref e' = some { t with phase := .ended, status := 0x01, detail := 0, flags := 0, items := 1, clipped := 0, quantised := 0 } ∧
        (∀ q, q ≠ t.ref → findTask q e' = findTask q s.eng) ∧ e' = { s.eng with tasks := e'.tasks })) ∧
  (∀ (s : State) (t : Task), startsClean t statsCheck s.eng = true → dOpcode t.desc = 0x20 → s.eng.mem.wf = true →
    (dq t.desc 1 0 1 = 0 →
      ∃ e', answers (.statsRead t.ref true) s e' ∧ findTask t.ref e' = some (outcome t 0x01 0 1 s.eng) ∧
        eaRead (dq t.desc 2 0 64) 512 e' = ((List.range 4).map (fun n => counterBytes n s.eng)).flatten ∧
        e'.counters = (if dq t.desc 1 1 1 = 1 then [] else s.eng.counters) ∧
        (thisDev s.eng = 0 → e'.net = s.eng.net) ∧
        e' = { s.eng with tasks := e'.tasks, front := { s.eng.front with rings := e'.front.rings }, mem := e'.mem
                          counters := e'.counters, net := e'.net }) ∧
    (dq t.desc 1 0 1 = 1 →
      let c := slotOf (dq t.desc 1 16 12) s.eng
      ∃ e', answers (.statsRead t.ref true) s e' ∧ findTask t.ref e' = some (outcome t 0x01 0 1 s.eng) ∧
        eaRead (dq t.desc 2 0 64) 64 e' = toBytes 8 c.regenQ ++ toBytes 8 c.regenC ++ List.replicate 48 0 ∧
        slotOf (dq t.desc 1 16 12) e' =
          (if dq t.desc 1 1 1 = 1 then { c with regenQ := 0, regenC := 0, markQ := 0, markC := 0 } else c) ∧
        (thisDev s.eng = 0 → e'.net = s.eng.net) ∧
        e' = { s.eng with tasks := e'.tasks, front := { s.eng.front with rings := e'.front.rings }, mem := e'.mem
                          ctxs := e'.ctxs, net := e'.net }) ∧
    (∃ e', answers (.statsRead t.ref false) s e' ∧ findTask t.ref e' = some (outcome t 0x30 0x11 0 s.eng) ∧ e'.mem = s.eng.mem))

/-- R39, R46, R53, R128: a task of 0 items ends with DONE and ITEMS 0 and gives its slot back. R39, R43, R459: a task of
privilege U and of an opcode that asks for S ends at its start with OPCODE_PRIV and writes nothing but its outcome. -/
def Obligations.EmptyAndPrivilegedTasks : Prop :=
  (∀ (s : State) (t : Task),
    let done (c : Instr) : Prop := ∃ u, exec c s = .next { s with eng := settle u } ∧
      findTask t.ref u = some (outcome t 0x01 0 0 s.eng) ∧ findJob t.ref u = none ∧
      slotBusy (dq t.desc 1 4 2) (dq t.desc 1 0 4) u = false
    (startsOnSlot t poolCheck s.eng = true → dq t.desc 6 0 24 = 0 →
      (dOpcode t.desc = 0x01 → done (.lookupPool t.ref)) ∧ (dOpcode t.desc = 0x02 → done (.gatherRows t.ref)) ∧
      (dOpcode t.desc = 0x05 → done (.combine t.ref))) ∧
    (startsOnSlot t pageCheck s.eng = true → dOpcode t.desc = 0x03 → dq t.desc 6 0 24 = 0 → done (.pageGather t.ref)) ∧
    (startsOnSlot t dispatchCheck s.eng = true → dOpcode t.desc = 0x04 → dq t.desc 6 0 24 = 0 → done (.dispatch t.ref)) ∧
    (startsOnSlot t gradCheck s.eng = true → dOpcode t.desc = 0x08 → dq t.desc 6 0 24 = 0 → done (.gradScatter t.ref)) ∧
    (startsOnSlot t scatterCheck s.eng = true → dOpcode t.desc = 0x0A → dq t.desc 4 0 32 = 0 → done (.scatterAdd t.ref)) ∧
    (startsOnSlot t rowXferCheck s.eng = true → dq t.desc 3 0 24 = 0 →
      (dOpcode t.desc = 0x10 → done (.rowWrite t.ref)) ∧ (dOpcode t.desc = 0x11 → done (.rowRead t.ref))) ∧
    (startsOnSlot t replicaCheck s.eng = true → dOpcode t.desc = 0x13 → dq t.desc 2 0 3 = 0 → dq t.desc 3 0 24 = 0 →
      done (.replicaSetInstall t.ref)) ∧
    (startsOnSlot t exportCheck s.eng = true → dOpcode t.desc = 0x14 → dq t.desc 4 0 40 = 0 → done (.stateExport t.ref)) ∧
    (startsOnSlot t (fun _ _ => none) s.eng = true → dOpcode t.desc = 0x15 → dq t.desc 5 0 32 = 0 → done (.stateImport t.ref))) ∧
  (∀ (s : State) (t : Task), findTask t.ref s.eng = some t → findJob t.ref s.eng = none → canStart t s.eng = true → t.priv = 0 →
    let refused (c : Instr) : Prop := ∃ u, exec c s = .next { s with eng := settle u } ∧
      findTask t.ref u = some (outcome t 0x60 0x01 0 s.eng) ∧
      u = { s.eng with tasks := u.tasks, front := { s.eng.front with rings := u.front.rings }, grad := u.grad }
    (dOpcode t.desc = 0x10 → refused (.rowWrite t.ref)) ∧ (dOpcode t.desc = 0x12 → refused (.migrate t.ref)) ∧
    (dOpcode t.desc = 0x13 → dq t.desc 2 0 3 = 0 → refused (.replicaSetInstall t.ref)) ∧
    (dOpcode t.desc = 0x14 → refused (.stateExport t.ref)) ∧ (dOpcode t.desc = 0x15 → refused (.stateImport t.ref)) ∧
    (dOpcode t.desc = 0x19 → dTable t.desc = 0 → refused (.ringSave t.ref)))

/-- R89 to R93: CTX_LOAD whose image and entries pass holds them until its slot is quiet; CTX_UNLOAD holds the unload of a
loaded slot, and of an empty one ends at once with DONE and ITEMS 1. Once the slot is quiet the image is in its slot, each
shard-map entry at its place of the store, or the slot is empty, and the task ends with DONE and ITEMS 1. -/
def Obligations.ContextsLoad : Prop :=
  ∀ (s : State) (t : Task),
    (∀ acc, startsClean t (fun _ _ => none) s.eng = true → dOpcode t.desc = 0x18 → dq t.desc 3 0 1 = 0 → loadBefore t s.eng = false →
      loadCheck acc t s.eng = none → slotInUse (dTable t.desc) t.ref (beginTask t s.eng) = false →
      ∃ e', answers (.ctxLoad t.ref acc) s e' ∧
        findTask t.ref e' = some { t with phase := .running, step := getF .stepSts Fld.STEP_STS_OPEN_STEP s.eng,
                                          precise := dPrecise t.desc || getB .ctl Fld.CTL_PRECISE_DEFAULT s.eng } ∧
        (findJob t.ref e').map (·.aux) = some ((readImage t s.eng).toNat :: (readEntries t s.eng).map (·.toNat)) ∧
        slotOf (dTable t.desc) e' = slotOf (dTable t.desc) s.eng ∧
        e' = { s.eng with tasks := e'.tasks, jobs := e'.jobs, front := { s.eng.front with rings := e'.front.rings } }) ∧
    (startsClean t (fun _ _ => none) s.eng = true → dOpcode t.desc = 0x18 → dq t.desc 3 0 1 = 1 → loadBefore t s.eng = false →
      (∃ e', answers (.ctxUnload t.ref) s e' ∧
        ((slotOf (dTable t.desc) s.eng).loaded = false → findTask t.ref e' = some (outcome t 0x01 0 1 s.eng) ∧ e'.jobs = s.eng.jobs) ∧
        ((slotOf (dTable t.desc) s.eng).loaded = true → domainRefused t s.eng = false →
          slotInUse (dTable t.desc) t.ref (beginTask t s.eng) = false →
          findTask t.ref e' = some { t with phase := .running, step := getF .stepSts Fld.STEP_STS_OPEN_STEP s.eng,
                                            precise := dPrecise t.desc || getB .ctl Fld.CTL_PRECISE_DEFAULT s.eng } ∧
          (findJob t.ref e').map (·.aux) = some []) ∧
        e' = { s.eng with tasks := e'.tasks, jobs := e'.jobs, front := { s.eng.front with rings := e'.front.rings } })) ∧
    (∀ j, findTask t.ref s.eng = some t → findJob t.ref s.eng = some j → alive s.eng = true → dOpcode t.desc = 0x18 → t.phase = .running →
      slotInUse (dTable t.desc) t.ref s.eng = false → slotQuiet (dTable t.desc) t.ref s.eng = true →
      ∃ u, exec (.ctxLoadInstall t.ref) s = .next { s with eng := settle u } ∧ findJob t.ref u = none ∧
        (j.aux = [] → slotOf (dTable t.desc) u = {} ∧ ∀ k x, (k, x) ∈ u.shards → x.owner ≠ dTable t.desc) ∧
        (∀ img ents, j.aux = img :: ents → (!cComposed (BitVec.ofNat 1024 img) && shardOverlap (dTable t.desc) (BitVec.ofNat 1024 img) s.eng) = false →
          slotOf (dTable t.desc) u = { loaded := true, img := BitVec.ofNat 1024 img } ∧
          (∀ k x, ents[k]? = some x → shardEntry (cShardFirst (BitVec.ofNat 1024 img) + k) u = BitVec.ofNat 64 x) ∧
          (findTask t.ref u).map (fun v => (v.phase, v.status, v.items)) = some (.ended, 0x01, 1)) ∧
        (∀ n, n ≠ dTable t.desc → slotOf n u = slotOf n s.eng) ∧
        u = { s.eng with regs := u.regs, tasks := u.tasks, jobs := u.jobs, ctxs := u.ctxs, shards := u.shards, nextId := u.nextId
                         net := u.net, grad := u.grad, cache := u.cache, upd := u.upd, hot := u.hot })

/-- R20, R43, R187: a task that starts on a free stream slot is running, of the step now open; its job holds the slot, whose
SLOT_BUSY bit is 1 while every other slot's bit is as it was. A task whose slot is taken waits for it with its job. A
persistent task holds its slot between rounds with SLOT_PERSIST 1 (R297). -/
def Obligations.StreamTaskTakesSlot : Prop :=
  ∀ (s : State) (t : Task), startsClean t poolCheck s.eng = true → dOpcode t.desc = 0x01 → alive s.eng = true →
    let n := dq t.desc 1 4 2
    let q := dq t.desc 1 0 4
    let v : Task := { t with phase := .running, step := getF .stepSts Fld.STEP_STS_OPEN_STEP s.eng,
                             precise := dPrecise t.desc || getB .ctl Fld.CTL_PRECISE_DEFAULT s.eng }
    (let h := slotHeld t s.eng
     findTask t.ref h = some v ∧
     findJob t.ref h = some { ref := t.ref, opcode := 0x01, slice := n, queue := dq t.desc 2 3 3, prog := now s.eng, slot := some q } ∧
     slotBusy n q h = true ∧ (∀ m k, m < 4 → k < 16 → (m ≠ n ∨ k ≠ q) → slotBusy m k h = slotBusy m k s.eng) ∧
     h = { s.eng with regs := h.regs, tasks := h.tasks, jobs := h.jobs, front := { s.eng.front with rings := h.front.rings } } ∧
     regsKept [.slcStreamSts n] s.eng h) ∧
    (slotBusy n q s.eng = true →
      ∃ u, exec (.lookupPool t.ref) s = .next { s with eng := settle u } ∧ findTask t.ref u = some v ∧
        (findJob t.ref u).map (fun j => (j.waitSlot, j.slot)) = some (true, none) ∧
        u = { s.eng with tasks := u.tasks, jobs := u.jobs, front := { s.eng.front with rings := u.front.rings } }) ∧
    (slotBusy n q s.eng = false → dPersist t.desc = true →
      ∃ u, exec (.lookupPool t.ref) s = .next { s with eng := settle u } ∧ findTask t.ref u = some v ∧ slotBusy n q u = true ∧
        bitsOf (getF (.slcStreamSts n) Fld.SLC_STREAM_STS_SLOT_PERSIST u) q 1 = 1 ∧
        (findJob t.ref u).map (fun j => (j.between, j.slot)) = some (true, some q) ∧
        u = { s.eng with regs := u.regs, tasks := u.tasks, jobs := u.jobs, front := { s.eng.front with rings := u.front.rings } } ∧
        regsKept [.slcStreamSts n] s.eng u)

/-- R127, R129, R130, R145, R176: LOOKUP_POOL, GATHER_ROWS and COMBINE on their slot have BAGS items and read the lists that
their descriptor names: 8 bytes of index for each row of a gathering task (TOP_K rows for each token of COMBINE), the BAGS +
1 offsets of LOOKUP_POOL, 4 bytes of weight where the mode is weighted, the bias vector of PRELOAD 1 and the rescale table;
their outputs lie at the rows, scale records and side records of R153; then bags open. -/
def Obligations.PoolingTasksStart : Prop :=
  ∀ (s : State) (t : Task) (op : Nat), startsOnSlot t poolCheck s.eng = true → dOpcode t.desc = op →
    op = 0x01 ∨ op = 0x02 ∨ op = 0x05 →
    let h := slotHeld t s.eng
    let c := cfgOf t h
    let k := if op = 0x05 then dq t.desc 2 6 4 else 1
    let wtd := decide (dq t.desc 2 0 3 = 3) || decide (dq t.desc 2 0 3 = 4)
    let plain (a n : Nat) : LStream := { cursor := 0, blk := a, start := a, left := n, need := n, ended := true }
    let lists : List LStream :=
      [{ cursor := dBl t.desc 1, need := if op = 0x01 then 0 else 8 * k * dq t.desc 6 0 24 },
       { cursor := dBl t.desc 2, need := if op = 0x01 then 4 * (dq t.desc 6 0 24 + 1) else 0 },
       { cursor := dBl t.desc 3, need := if op ≠ 0x01 ∧ wtd = true then 4 * k * dq t.desc 6 0 24 else 0 },
       if dq t.desc 3 1 2 = 1 then
         plain (profF t .slcProfBias Fld.SLC_PROF_BIAS_BIAS_ADDR h * 64) (4 * cWidth (imgOf (dTable t.desc) h))
       else { cursor := 0, ended := true },
       if cRescale (imgOf (dTable t.desc) h) = 0 then { cursor := 0, ended := true }
       else plain (2 ^ 62 + cRescale (imgOf (dTable t.desc) h)) (4 * cWidth (imgOf (dTable t.desc) h))]
    let u := updJob t.ref (fun j => { j with
      pool := some { cfg := c }, total := dq t.desc 6 0 24, issued := true, outs := poolOuts c
      lists := if dq t.desc 6 0 24 = 0 then [] else lists }) h
    exec (if op = 0x01 then .lookupPool t.ref else if op = 0x02 then .gatherRows t.ref else .combine t.ref) s =
      .next { s with eng := settle (settleDone t.ref (poolAdvance t.ref (2 * dq t.desc 6 0 24 + 2) (pump t.ref u))) }

/-- R168, R181, R191: DISPATCH reads TOKENS rows of its input format and TOKENS sets of routes, PAGE_GATHER its sessions of
16 bytes and its appended rows, GRAD_SCATTER its indices, offsets, weights, bag gradients and rescale table; then each takes
up in order what is in. -/
def Obligations.ExpertAndGradientTasksStart : Prop :=
  ∀ (s : State) (t : Task),
    let h := slotHeld t s.eng
    let n := dq t.desc 6 0 24
    let w := cWidth (imgOf (dTable t.desc) h)
    (startsOnSlot t dispatchCheck s.eng = true → dOpcode t.desc = 0x04 →
      exec (.dispatch t.ref) s = .next { s with eng := settle (settleDone t.ref (dispatchAdvance t.ref (n + 1) (pump t.ref
        (updJob t.ref (fun j => { j with
          total := n, issued := true
          aux := [0, 0, 0] ++ List.replicate (getF (.slcMoeCtl (dq t.desc 1 4 2) (dq t.desc 3 0 4)) Fld.SLC_MOE_CTL_EXPERTS_M1 h + 1) 0
          lists := if n = 0 then [] else
            [{ cursor := dBl t.desc 1, need := n * streamRow (dq t.desc 6 24 8) w },
             { cursor := dBl t.desc 2, need := n * (if dq t.desc 6 36 1 = 1 then
                 4 * (getF (.slcMoeCtl (dq t.desc 1 4 2) (dq t.desc 3 0 4)) Fld.SLC_MOE_CTL_EXPERTS_M1 h + 1)
                 else 8 * dq t.desc 6 32 4) }]
          outs := (dBl t.desc 3, 8 * dq t.desc 6 32 4) :: (if dBl t.desc 4 = 0 then [] else [(dBl t.desc 4, 4 * dq t.desc 6 32 4)])
          }) h)))) }) ∧
    (startsOnSlot t pageCheck s.eng = true → dOpcode t.desc = 0x03 →
      exec (.pageGather t.ref) s = .next { s with eng := settle (settleDone t.ref (pageAdvance t.ref (n + 1) (pump t.ref
        (updJob t.ref (fun j => { j with
          total := n, issued := true, aux := [0, 0]
          lists := if n = 0 then [] else
            [{ cursor := dBl t.desc 1, need := 16 * n },
             if dq t.desc 6 52 1 = 1 ∧ streamRow (dq t.desc 6 32 8) w ≠ 0 then
               { cursor := dBl t.desc 2, need := streamRow (dq t.desc 6 32 8) w * n }
             else { cursor := 0, ended := true }]
          outs := (dBl t.desc 3, streamRow (dq t.desc 6 24 8) w) ::
            (if ofScaled (dq t.desc 6 24 8) then [(2 ^ 64 + dAddr3 t.desc 4, 8)] else []) }) h)))) }) ∧
    (startsOnSlot t gradCheck s.eng = true → dOpcode t.desc = 0x08 →
      exec (.gradScatter t.ref) s = .next { s with eng := settle (settleDone t.ref (gradAdvance t.ref (2 * n + 2) (pump t.ref
        (updJob t.ref (fun j => { j with
          total := n, issued := true, aux := [0]
          lists := if n = 0 then [] else
            [{ cursor := dBl t.desc 1, need := if dq t.desc 2 0 3 = 0 then 8 * n else 0 },
             if dq t.desc 2 0 3 = 0 then { cursor := 0, ended := true } else { cursor := dBl t.desc 2, need := 4 * (n + 1) },
             if dq t.desc 2 0 3 = 3 ∨ dq t.desc 2 0 3 = 4 then { cursor := dBl t.desc 3 } else { cursor := 0, ended := true },
             { cursor := dBl t.desc 4, need := n * streamRow (dq t.desc 6 24 8) w },
             if cRescale (imgOf (dTable t.desc) h) = 0 then { cursor := 0, ended := true }
             else { cursor := 0, blk := 2 ^ 62 + cRescale (imgOf (dTable t.desc) h), left := 4 * w, need := 4 * w, ended := true }] })
          h)))) })

/-- R250, R252, R281, R282, R336: SCATTER_ADD reads COUNT indices of 8 bytes and as many operands, ROW_WRITE COUNT records,
ROW_READ COUNT entries of 8 bytes, STATE_IMPORT its records from the first header on; STATE_EXPORT asks for every row of its
range in order, with its state row. -/
def Obligations.RowTransferTasksStart : Prop :=
  ∀ (s : State) (t : Task),
    let h := slotHeld t s.eng
    let i := imgOf (dTable t.desc) h
    (startsOnSlot t scatterCheck s.eng = true → dOpcode t.desc = 0x0A →
      let n := dq t.desc 4 0 32
      exec (.scatterAdd t.ref) s = .next { s with eng := settle (settleDone t.ref (scatterAdvance t.ref 1 (pump t.ref
        (updJob t.ref (fun j => { j with
          total := n, issued := true, aux := [0]
          lists := if n = 0 then [] else [{ cursor := dBl t.desc 1, need := 8 * n },
            { cursor := dBl t.desc 2, need := dq t.desc 4 32 13 * addSize (dq t.desc 2 0 3) * n }] }) h)))) }) ∧
    (startsOnSlot t rowXferCheck s.eng = true → dOpcode t.desc = 0x10 →
      let n := dq t.desc 3 0 24
      exec (.rowWrite t.ref) s = .next { s with eng := settle (settleDone t.ref (rowWriteAdvance t.ref (n + 1) (pump t.ref
        (updJob t.ref (fun j => { j with
          total := n, issued := true, aux := [0]
          lists := if n = 0 then [] else
            [{ cursor := dBl t.desc 1, need := n * recordSize i (decide (dq t.desc 2 0 1 = 1)) }] }) h)))) }) ∧
    (startsOnSlot t rowXferCheck s.eng = true → dOpcode t.desc = 0x11 →
      let n := dq t.desc 3 0 24
      exec (.rowRead t.ref) s = .next { s with eng := settle (settleDone t.ref (rowReadAdvance t.ref (n + 1) (pump t.ref
        (updJob t.ref (fun j => { j with
          total := n, issued := true, aux := [0]
          lists := if n = 0 then [] else [{ cursor := dBl t.desc 1, need := 8 * n }]
          outs := [(dBl t.desc 2, recordSize i (dReadWide t.desc))] }) h)))) }) ∧
    (startsOnSlot t (fun _ _ => none) s.eng = true → dOpcode t.desc = 0x15 →
      let n := dq t.desc 5 0 32
      exec (.stateImport t.ref) s = .next { s with eng := settle (settleDone t.ref (importAdvance t.ref (3 * n + 3) (pump t.ref
        (updJob t.ref (fun j => { j with
          issued := decide (n = 0), aux := [0, 0, 0, 0, 0, 0, 0, 0]
          lists := if n = 0 then [] else [{ cursor := dBl t.desc 1, need := 64 }] }) h)))) }) ∧
    (startsOnSlot t exportCheck s.eng = true → dOpcode t.desc = 0x14 →
      let n := dq t.desc 4 0 40
      exec (.stateExport t.ref) s = .next { s with eng := settle (settleDone t.ref
        (forEach (List.range n) (fun k e =>
            let row := shardRow i (dq t.desc 2 0 8) (dq t.desc 3 0 40 + k)
            askRow (.item t.ref k) (dTable t.desc) { row } true false (place (dTable t.desc) row e).slice e)
          (updJob t.ref (fun j => { j with
            total := ceilDiv n (dq t.desc 2 32 16), unit := dq t.desc 2 32 16, count := n, issued := true
            outs := [(dBl t.desc 1, exportBytes i (dq t.desc 2 8 3) (dq t.desc 2 16 13) (dq t.desc 2 32 16))] }) h))) })

/-- R262, R263: REPLICA_SET INSTALL, REMOVE and VERIFY read their list of rows and act on each; REMOVE_TABLE frees every
replica of the table here and sends MCAST_REMOVE to every other member of its group, whose acknowledgements it awaits; each
command runs the descriptor of its own ACTION alone. -/
def Obligations.ReplicaSetStarts : Prop :=
  ∀ (s : State) (t : Task), startsOnSlot t replicaCheck s.eng = true → dOpcode t.desc = 0x13 →
    let h := slotHeld t s.eng
    let n := dq t.desc 3 0 24
    let listed : State := { s with eng := settle (settleDone t.ref (replicaAdvance t.ref (n + 1) (pump t.ref
      (updJob t.ref (fun j => { j with
        total := n, issued := true, aux := [0]
        lists := if n = 0 then [] else [{ cursor := dBl t.desc 1, need := 8 * n }] }) h)))) }
    (dq t.desc 2 0 3 = 0 → exec (.replicaSetInstall t.ref) s = .next listed ∧ exec (.replicaSetRemove t.ref) s = .next { s with eng := settle s.eng }) ∧
    (dq t.desc 2 0 3 = 1 → exec (.replicaSetRemove t.ref) s = .next listed) ∧
    (dq t.desc 2 0 3 = 2 → exec (.replicaSetVerify t.ref) s = .next listed) ∧
    (dq t.desc 2 0 3 = 3 →
      ∃ u, exec (.replicaSetRemoveTable t.ref) s = .next { s with eng := settle (settleDone t.ref u) } ∧
        (∀ x ∈ u.hot.replicas, x.table ≠ dTable t.desc) ∧
        (∀ x ∈ s.eng.hot.replicas, x.table ≠ dTable t.desc → x ∈ u.hot.replicas) ∧
        (mcastTo (dTable t.desc) s.eng = [] → findJob t.ref u = (findJob t.ref h).map (fun j =>
          { j with issued := true, lead := 1, prog := now s.eng })) ∧
        (∀ d, d ∈ mcastTo (dTable t.desc) s.eng → reachable d s.eng = true →
          ∃ p m, (p, m) ∈ u.net.egress ∧ m.h.dstDev = d ∧ m.b = .mcastRemove (dTable t.desc) (2 ^ 40) true))

/-- R272 to R277: MIGRATE on its slot asks for every row of the shard, with its state where the table has one, and its stream
slot is busy on every slice of the shard. Once all copies are in, the switch writes the entry of the new home with EPOCH + 1
and sends it to every other device that can be reached; once all of these have acknowledged and FWD_WINDOW has passed,
forwarding ends and the task is done with the rows of the shard as ITEMS. -/
def Obligations.MigrateMovesShard : Prop :=
  ∀ (s : State) (t : Task),
    let i := imgOf (dTable t.desc) s.eng
    let sh := dq t.desc 1 8 8
    let k := cShardFirst i + sh
    let slices := if cInterleave i then [0, 1, 2, 3] else [seSlice (shardEntry k s.eng)]
    (startsClean t migrateCheck s.eng = true → dOpcode t.desc = 0x12 →
      (∀ n ∈ slices, slotBusy n (dq t.desc 1 0 4) s.eng = false) →
      ∃ v, exec (.migrate t.ref) s = .next { s with eng := settle (forEach (List.range (shardLen i sh)) (fun rl e =>
          askRow (.migrate t.ref rl) (dTable t.desc) { row := shardRow i sh rl } (decide (cTier i ≠ 0)) false
            (place (dTable t.desc) (shardRow i sh rl) e).slice e) v) } ∧
        (∀ n ∈ slices, slotBusy n (dq t.desc 1 0 4) v = true) ∧
        (findJob t.ref v).map (fun j => (j.total, j.slot, j.aux, j.waitSlot)) = some (shardLen i sh, some (dq t.desc 1 0 4), slices, false) ∧
        v.hot.migs = s.eng.hot.migs ++ [{ ref := t.ref, slot := dTable t.desc, shard := sh, newDev := dq t.desc 1 16 6
                                          newSlice := dq t.desc 1 22 2, newBase := dq t.desc 2 0 25 * 4096
                                          next := shardLen i sh, old := shardEntry k s.eng }] ∧
        v = { s.eng with regs := v.regs, tasks := v.tasks, jobs := v.jobs, front := { s.eng.front with rings := v.front.rings }
                         hot := { s.eng.hot with migs := v.hot.migs } } ∧
        regsKept (slices.map .slcStreamSts) s.eng v) ∧
    (∀ m j, s.eng.hot.migs.find? (fun x => decide (x.ref = t.ref)) = some m → findJob t.ref s.eng = some j → alive s.eng = true →
      m.phase = .copy → m.open_ = 0 → j.total ≤ j.lead → j.fault = none → j.slot.isSome = true → shardBusy m.slot m.shard s.eng = false →
      ∃ u, exec (.migrateSwitch t.ref) s = .next { s with eng := settle u } ∧
        shardEntry (cShardFirst (imgOf m.slot s.eng) + m.shard) u =
          makeEntry m.newDev (if cInterleave (imgOf m.slot s.eng) then 0 else m.newSlice) ((seEpoch m.old + 1) % 256) m.newBase ∧
        (∀ d, d < podSize s.eng → d ≠ thisDev s.eng → reachable d s.eng = true →
          ∃ p h lost, (p, ⟨h, .shardMap m.slot m.shard (shardEntry (cShardFirst (imgOf m.slot s.eng) + m.shard) u) lost⟩) ∈ u.net.egress ∧
            h.dstDev = d) ∧
        (∀ y ∈ u.hot.migs, y.ref = t.ref → y.phase = .forward ∧
          ∀ d, d ∈ y.mapWait ↔ d < podSize s.eng ∧ d ≠ thisDev s.eng ∧ reachable d s.eng = true) ∧
        u = { s.eng with shards := u.shards, nextId := u.nextId, net := u.net, cache := u.cache, hot := u.hot }) ∧
    (∀ m j, s.eng.hot.migs.find? (fun x => decide (x.ref = t.ref)) = some m → findJob t.ref s.eng = some j →
      findTask t.ref s.eng = some t → t.phase = .running → dOpcode t.desc = 0x12 → alive s.eng = true →
      m.phase = .forward → m.mapWait = [] → elapsedUs m.tAck (max 1 (getF .replCfg Fld.REPL_CFG_FWD_WINDOW s.eng)) s.eng = true →
      ∃ u, exec (.fwdWindowExpiry t.ref) s = .next { s with eng := settle u } ∧ findJob t.ref u = none ∧
        (∀ y ∈ u.hot.migs, y.ref ≠ t.ref) ∧
        (findTask t.ref u).map (fun v => (v.phase, v.status, v.items)) = some (.ended, doneStatus j.flags, j.total) ∧
        shardEntry (cShardFirst (imgOf m.slot s.eng) + m.shard) u = shardEntry (cShardFirst (imgOf m.slot s.eng) + m.shard) s.eng ∧
        u = { s.eng with regs := u.regs, tasks := u.tasks, jobs := u.jobs, shards := u.shards, rowReqs := u.rowReqs, net := u.net
                         grad := u.grad, cache := u.cache, hot := u.hot })

/-- R297 to R300: REARM NEXT starts a round of a persistent task between rounds, and waits while a round runs; REARM END ends
the persistent task with the items of its rounds and waits for its record. ROUND_END: the REARM that started the round
completes with its items, and the task is between rounds again with SLOT_PERSIST 1. -/
def Obligations.PersistentRounds : Prop :=
  ∀ (s : State) (t p : Task) (j : Job),
    let n := dq t.desc 1 4 2
    let q := dq t.desc 1 0 4
    let alone (r : TaskRef) (a b : Nat) : Prop := ∀ x ∈ s.eng.tasks, x.ref ≠ r → x.phase = .running → dOpcode x.desc = 0x1C →
      ¬(dq x.desc 1 4 2 = a ∧ dq x.desc 1 0 4 = b)
    (startsClean t rearmCheck s.eng = true → dOpcode t.desc = 0x1C → persistentAt n q (beginTask t s.eng) = some (j, p) →
      (dq t.desc 1 6 2 = 0 → j.between = false →
        ∃ e', exec (.rearmNext t.ref) s = .next { s with eng := settle e' } ∧
          findTask t.ref e' = some { t with phase := .running, step := getF .stepSts Fld.STEP_STS_OPEN_STEP s.eng,
                                            precise := dPrecise t.desc || getB .ctl Fld.CTL_PRECISE_DEFAULT s.eng } ∧
          e' = { s.eng with tasks := e'.tasks, front := { s.eng.front with rings := e'.front.rings } }) ∧
      (dq t.desc 1 6 2 = 0 → j.between = true → j.fault = none → alone t.ref n q →
        exec (.rearmNext t.ref) s = .next { s with eng := settle (startRound j p t.ref (beginTask t s.eng)) }) ∧
      (dq t.desc 1 6 2 = 1 → j.between = true → j.fault = none → alone t.ref n q → p.ref ≠ t.ref → p.phase = .running → j.ref = p.ref → j.opcode ≠ 0x12 →
        ∃ u, exec (.rearmEnd t.ref) s = .next { s with eng := settle u } ∧ findJob p.ref u = none ∧ slotBusy n q u = false ∧
          (findTask p.ref u).map (fun v => (v.phase, v.status, v.items)) = some (.ended, doneStatus p.flags, j.sumItems) ∧
          (findTask t.ref u).map (·.phase) = some .running ∧
          (findJob t.ref u).map (·.rearm) = some (some p.ref) ∧
          u = { s.eng with regs := u.regs, tasks := u.tasks, jobs := u.jobs, rowReqs := u.rowReqs, net := u.net, grad := u.grad
                           hot := u.hot, front := { s.eng.front with rings := u.front.rings } })) ∧
    (∀ c, findJob p.ref s.eng = some j → findTask p.ref s.eng = some p → alive s.eng = true → dPersist p.desc = true →
      j.between = false → j.rearm = some t.ref → findTask t.ref s.eng = some t → t.phase = .running → dOpcode t.desc = 0x1C →
      p.ref ≠ t.ref → j.fault = none → j.issued = true → j.open_ = [] → j.heldOut = [] → j.xfers = [] → j.acks = 0 → j.total ≤ j.lead →
      j.slot = some c → c < 16 → alone t.ref j.slice c →
      ∃ u, exec (.roundEnd p.ref) s = .next { s with eng := settle u } ∧
        (findTask t.ref u).map (fun v => (v.phase, v.status, v.items)) = some (.ended, doneStatus j.flags, itemsOf j j.total) ∧
        (findJob p.ref u).map (fun k => (k.between, k.rearm, k.sumItems, k.slot)) =
          some (true, none, j.sumItems + itemsOf j j.total, some c) ∧
        bitsOf (getF (.slcStreamSts j.slice) Fld.SLC_STREAM_STS_SLOT_PERSIST u) c 1 = 1 ∧
        u = { s.eng with regs := u.regs, mem := u.mem, tasks := u.tasks, jobs := u.jobs, net := u.net, grad := u.grad } ∧
        regsKept [.slcStreamSts j.slice] s.eng u)

/-- R360 to R365: RING_SAVE of a ring with no task in flight writes an image with MAGIC 0x5352, LAYOUT 1, the ring's PRIV,
DOMAIN and LOG2_SIZE, its next position and TASKS 0, and leaves the ring STOPPED; RING_RESTORE of such an image runs a
STOPPED ring at the image's NEXT position with its context, PRIV and DOMAIN as the image gives them. Each ends with DONE and
the number of tasks as ITEMS. -/
def Obligations.RingSaveAndRestore : Prop :=
  ∀ (s : State) (t : Task), s.eng.mem.wf = true →
    let k := dq t.desc 1 0 10
    let a := dq t.desc 2 0 64
    let x := ringOf k s.eng
    let q := ringCtxAddr k s.eng + 56
    (eaSpace a ≠ 0 ∨ a + 128 ≤ q ∨ q + 8 ≤ a) →
    (startsClean t ringSaveCheck s.eng = true → dOpcode t.desc = 0x19 → tasksOfRing k s.eng = [] → eaFits a 128 = true →
      ∃ u, exec (.ringSave t.ref) s = .next { s with eng := settle u } ∧ findTask t.ref u = some (outcome t 0x01 0 0 s.eng) ∧
        (ringOf k u).state = .stopped ∧ (ringOf k u).ctx = x.ctx ∧
        (x.state ≠ .stopped → (ringOf k u).nextPos = x.startAt ∧ (ringOf k u).cplPos = x.startAt) ∧
        eaNat a 8 u = (0x5352 + 2 ^ 16 + x.ctx.priv * 2 ^ 24 + x.ctx.domain * 2 ^ 32 + x.ctx.log2Size * 2 ^ 40) % 2 ^ 64 ∧
        eaNat (a + 8) 8 u = (if x.state = .stopped then x.nextPos.toNat else x.startAt.toNat) ∧
        u = { s.eng with regs := u.regs, mem := u.mem, tasks := u.tasks, jobs := u.jobs, front := u.front, net := u.net
                         grad := u.grad }) ∧
    (startsClean t (ringRestoreCheck true false) s.eng = true → dOpcode t.desc = 0x1A → getB .safeInject Fld.SAFE_INJECT_ARM s.eng = false →
      bitsOf (eaNat a 128 s.eng) 96 7 = 0 →
      let c := (restoredCtx t s.eng).2
      tfind (c.dbLine, c.dbSlot) s.eng.front.piSeen = none →
      ∃ u, exec (.ringRestore t.ref true) s = .next { s with eng := settle u } ∧ findTask t.ref u = some (outcome t 0x01 0 0 s.eng) ∧
        (ringOf k u).state = .running ∧ (ringOf k u).ctx = c ∧ c.priv = bitsOf (eaNat a 128 s.eng) 24 2 ∧
        c.domain = bitsOf (eaNat a 128 s.eng) 32 8 ∧
        (ringOf k u).nextPos = BitVec.ofNat 32 (bitsOf (eaNat a 128 s.eng) 64 32) ∧
        hostNat q 8 u = 1 + bitsOf (eaNat a 128 s.eng) 64 32 * 2 ^ 32 ∧
        (thisDev s.eng = 0 → u.net = s.eng.net) ∧
        u = { s.eng with tasks := u.tasks, front := { s.eng.front with rings := u.front.rings }, net := u.net
                         mem := { s.eng.mem with host := u.mem.host } })


/-! Streams and pooling -/
/-- R289, R292, R305: a transfer that completes leaves its slot's list and gives its buffers back to its queue, never above
the depth. The bytes of a list read join the list; the bytes of an output are in their memory and their item has one part
less outstanding; where the item's outputs are undefined, bytes that nothing constrains are. Then the job goes on. -/
def Obligations.TransferCompletes : Prop :=
  ∀ (s : State) (id : Nat) (j : Job) (x : Xfer), alive s.eng = true → s.eng.mem.wf = true →
    s.eng.jobs.find? (fun k => k.xfers.any (fun y => decide (y.id = id) && y.issued)) = some j →
    j.xfers.find? (fun y => decide (y.id = id)) = some x → findJob j.ref s.eng = some j → j.fault = none →
    getB .safeInject Fld.SAFE_INJECT_ARM s.eng = false →
    ∃ v, exec (.bulkTransferDone id .ok .ok) s = .next { s with eng := settle (streamOn j.ref j.opcode v) } ∧
      (j.queue < 8 → freeBufs j.slice j.queue v =
        min (getF (.slcStreamCfg j.slice) (Fld.SLC_STREAM_CFG_DEPTH j.queue) s.eng) (freeBufs j.slice j.queue s.eng + x.bufs)) ∧
      (∀ k l, x.kind = .listRead k → j.lists[k]? = some l →
        findJob j.ref v = some { j with
          xfers := j.xfers.filter (fun y => decide (y.id ≠ id)), prog := now s.eng
          lists := j.lists.set k { l with got := l.got ++ eaRead x.addr x.len s.eng, inflight := l.inflight - x.len } } ∧
        v = { s.eng with regs := v.regs, jobs := v.jobs } ∧ regsKept [.slcQueueSts j.slice] s.eng v) ∧
      (∀ i n, x.kind = .output i ∨ x.kind = .aux i → tfind i j.open_ = some n → 1 < n → undefOut j i s.eng = false →
        eaRead x.addr x.bytes.length v = x.bytes ∧
        findJob j.ref v = some { j with
          xfers := j.xfers.filter (fun y => decide (y.id ≠ id)), prog := now s.eng, open_ := tput i (n - 1) j.open_ } ∧
        (thisDev s.eng = 0 → v.net = s.eng.net) ∧
        v = { s.eng with regs := v.regs, jobs := v.jobs, mem := v.mem, net := v.net } ∧ regsKept [.slcQueueSts j.slice] s.eng v) ∧
      (∀ i n, x.kind = .output i ∨ x.kind = .aux i → tfind i j.open_ = some n → 1 < n → undefOut j i s.eng = true →
        findJob j.ref v = some { j with
          xfers := j.xfers.filter (fun y => decide (y.id ≠ id)), prog := now s.eng, open_ := tput i (n - 1) j.open_ } ∧
        v = { s.eng with freeCtr := v.freeCtr, regs := v.regs, jobs := v.jobs, mem := v.mem, net := v.net } ∧
        regsKept [.slcQueueSts j.slice] s.eng v)

/-- R294 to R296: a write into an LLM line stores its bytes, cut at the end of the line, and every job reads the words of
that line again; a poll reads the words of a task in HBM and host memory again, and a port error of it fails the task with
DEP_READ; a task held DEP_LIMIT ms ends with WATCHDOG and DEP_TIMEOUT, its outputs beyond ITEMS undefined. -/
def Obligations.DependenceWords : Prop :=
  ∀ s : State, alive s.eng = true →
    (∀ die off (bytes : List Byte), die < 4 → off < 2 ^ 27 → s.eng.mem.wf = true →
      ∃ v, exec (.depWordLineWrite die off bytes) s = .next { s with eng := settle (forEach (s.eng.jobs.map (·.ref)) (fun r e =>
          rereadDeps r (fun a => decide (a / 64 * 64 = llmAddr die (off / 64 * 64))) e) v) } ∧
        memRead (die * 2 ^ 27 + off) (min bytes.length (off / 64 * 64 + 64 - off)) v.mem.llm = bytes.take (off / 64 * 64 + 64 - off) ∧
        (∀ a, a < die * 2 ^ 27 + off ∨ die * 2 ^ 27 + off / 64 * 64 + 64 ≤ a → memGet a v.mem.llm = memGet a s.eng.mem.llm) ∧
        v = { s.eng with mem := { s.eng.mem with llm := v.mem.llm } }) ∧
    (∀ r j, findJob r s.eng = some j → j.fault = none →
      (j.lists.any (fun l => match l.dep with | some (a, _, _) => decide (eaSpace a ≠ 2) | none => false) || !j.heldOut.isEmpty) = true →
      exec (.depPollTick r .ok) s = .next { s with eng := settle (rereadDeps r (fun a => decide (eaSpace a ≠ 2)) s.eng) } ∧
      exec (.depPollTick r .portError) s = .next { s with eng := failTask r 0x30 0x61 s.eng }) ∧
    (∀ r j t l a w t0, findJob r s.eng = some j → findTask r s.eng = some t → t.phase = .running → j.fault = none →
      l ∈ j.lists → l.dep = some (a, w, t0) → getF (.slcWdog j.slice) Fld.SLC_WDOG_DEP_LIMIT s.eng ≠ 0 →
      elapsedUs t0 (1000 * getF (.slcWdog j.slice) Fld.SLC_WDOG_DEP_LIMIT s.eng) s.eng = true → issuedCount j = 0 →
      (∀ m ∈ s.eng.hot.migs, m.ref ≠ r) →
      ∃ u, exec (.depTimeout r) s = .next { s with eng := settle (spoilRest j u) } ∧ findJob r u = none ∧
        (findTask r u).map (fun v => (v.phase, v.status, v.detail, v.items)) =
          some (.ended, 0x50, 0x62, j.sumItems + itemsOf j j.lead) ∧
        getF (.slcWdogSts j.slice) Fld.SLC_WDOG_STS_LAST_SLOT u = jobSlot j s.eng % 16 ∧
        u = { s.eng with regs := u.regs, tasks := u.tasks, jobs := u.jobs, rowReqs := u.rowReqs, counters := u.counters
                         logs := u.logs, pinAlert := u.pinAlert, net := u.net, grad := u.grad, hot := u.hot })

/-- R306, R307: a task that has made no progress for LIMIT µs while the watchdog counts it ends with WATCHDOG and
NO_PROGRESS, and EXPIRED of its slice counts it; its outputs beyond ITEMS are undefined (R46). A task below its limit goes
on. -/
def Obligations.StreamWatchdog : Prop :=
  ∀ (s : State) (j : Job) (t : Task), alive s.eng = true → s.eng.jobs = [j] → findTask j.ref s.eng = some t → t.phase = .running →
    wdogCounts j s.eng = true → s.eng.hot.migs = [] →
    let limit := max 1 (getF (.slcWdog j.slice) Fld.SLC_WDOG_LIMIT s.eng)
    (elapsedUs j.prog limit s.eng = true → issuedCount j = 0 →
      ∃ u, exec (.streamWatchdogTick j.slice) s = .next { s with eng := settle (spoilRest j u) } ∧ u.jobs = [] ∧
        (findTask j.ref u).map (fun v => (v.phase, v.status, v.detail, v.items)) =
          some (.ended, 0x50, 0x60, j.sumItems + itemsOf j j.lead) ∧
        getF (.slcWdogSts j.slice) Fld.SLC_WDOG_STS_EXPIRED u =
          min (getF (.slcWdogSts j.slice) Fld.SLC_WDOG_STS_EXPIRED s.eng + 1) (2 ^ Fld.SLC_WDOG_STS_EXPIRED.width - 1) ∧
        u = { s.eng with regs := u.regs, tasks := u.tasks, jobs := u.jobs, rowReqs := u.rowReqs, counters := u.counters
                         logs := u.logs, pinAlert := u.pinAlert, net := u.net, grad := u.grad, hot := u.hot }) ∧
    (elapsedUs j.prog limit s.eng = false →
      exec (.streamWatchdogTick j.slice) s = .next { s with eng := settle s.eng })

/-- R140, R151 to R153, R393: a bag that has everything and passes its checks is written: the lanes of its tiles, with the
outlier lanes merged, finalised by the divisor of its mode, multiplied by the rescale table where there is one, narrowed to
OUT_FMT, at OUT_STRIDE × bag of the output list, with a scale record where OUT_FMT is scaled and a side record where SIDE_EN
is set; a bag that fails is pooled once more from its first index with S of the first computation kept. A failed running
check marks its bag. -/
def Obligations.BagClosesToOutput : Prop :=
  ∀ (s : State) (r : TaskRef) (b : Nat) (j : Job) (pr : PoolRun) (x : Bag), alive s.eng = true → findJob r s.eng = some j →
    j.pool = some pr → findBag r b s.eng = some x → j.fault = none →
    getB .safeInject Fld.SAFE_INJECT_ARM s.eng = false →
    let c := pr.cfg
    let g := partGroup (poolAt j s.eng) c x (closePart x)
    let m := mergedLanes c g s.eng
    let chk := (x.parts.getD (closePart x) ⟨0, 0, 0, ⟨0, 0⟩, false⟩).chk
    let ys := if pr.rescale.isEmpty then (finalise c x m.1).1 else List.zipWith f32Mul (finalise c x m.1).1 pr.rescale
    (bagReady x pr j = true → x.failed = 0 → x.redo = none → abftPasses c.accInt m.2 (m.1.take c.width) chk x.chkInt = true →
      ∃ v, exec (.bagClose r b 0) s = .next { s with eng := settle (poolAdvance r (2 * c.bags + 2)
          (writeItem r b c.outBl (b * c.stride) (padTo c.stride (glazeRow c.outFmt ys).1)
            ((if ofScaled c.outFmt then [(c.scaleAddr + 8 * b, (glazeRow c.outFmt ys).2.1)] else []) ++
             (if c.sideEn then [(c.scaleAddr + (if ofScaled c.outFmt then 8 * c.bags else 0) + 8 * b, (sideRecord ys).1)] else [])) v)) } ∧
        findBag r b v = none ∧ (∀ k, k ≠ b → findBag r k v = findBag r k s.eng) ∧
        v = { s.eng with jobs := v.jobs, grad := v.grad, counters := v.counters }) ∧
    (bagReady x pr j = true → x.failed = 0x05 → x.redo = none → c.accInt = false →
      ∃ v, exec (.bagClose r b 0) s = .next { s with eng := settle (recompute r x pr (lanesSum (m.1.take c.width)) v) } ∧
        v.mem = s.eng.mem ∧ v.jobs = s.eng.jobs ∧ v.tasks = s.eng.tasks ∧
        tget 0 (poolAt j s.eng, 7) v.counters = min (tget 0 (poolAt j s.eng, 7) s.eng.counters + 1) (2 ^ 64 - 1)) ∧
    (∃ u, exec (.abftCheckPeriodic r b true) s = .next { s with eng := settle u } ∧
      findBag r b u = some { x with failed := 0x05 } ∧ u = { s.eng with jobs := u.jobs }) ∧
    (∀ t part q, findTask r s.eng = some t → 1 < x.parts.length → partReady x part = true → x.parts[part]? = some q →
      x.split + 1 < x.parts.length → s.eng.mem.wf = true → j.slice < 4 → scratchOff t c part s.eng + runTiles c * 512 ≤ 2 ^ 27 →
      (groupLanes (partGroup (poolAt j s.eng) c x part) s.eng).length = 64 * runTiles c →
      ∃ u, exec (.splitSlotWritten r b part .ok) s = .next { s with eng := settle u } ∧
        memRead (j.slice * 2 ^ 27 + scratchOff t c part s.eng) (runTiles c * 512) u.mem.llm =
          laneBytes (mergedLanes c (partGroup (poolAt j s.eng) c x part) s.eng).1 ∧
        (findBag r b u).map (fun y => (y.split, y.merged)) = some (x.split + 1, x.merged) ∧
        u = { s.eng with tiles := u.tiles, jobs := u.jobs, mem := { s.eng.mem with llm := u.mem.llm } })


/-! Steps and updates -/
/-- R186, R200, R202, R204: a CLOSE that starts makes its step the closing step, with its dense list, its chain tables and
the configuration it copied, and opens the next step; its flags are those raised for the open step, VETO where its descriptor
asks for it, and CONFIG where a chain table breaks its rules. A second CLOSE waits for the first. R201, R218, R219: an
ARRIVAL that starts counts against its step's DENSE_COUNT and, while the step is undecided, waits with the outcome of its
read; of a step decided SKIP it ends with SKIPPED and the flags of the decision. -/
def Obligations.ClosesAndArrivalsStart : Prop :=
  (∀ (s : State) (t : Task) (acc : Access), alive s.eng = true → dOpcode t.desc = 0x09 → dq t.desc 1 0 2 = 0 →
    (startsClean t (closeCheck acc) s.eng = true → s.eng.grad.closing = none →
      ∃ u c, exec (.stepCloseClose t.ref acc) s = .next { s with eng := settle u } ∧
        findTask t.ref u = some { t with phase := .running, step := getF .stepSts Fld.STEP_STS_OPEN_STEP s.eng,
                                         precise := dPrecise t.desc || getB .ctl Fld.CTL_PRECISE_DEFAULT s.eng } ∧
        u.grad.closing = some c ∧ c.ref = t.ref ∧ c.step = dq t.desc 1 32 32 ∧ c.phase = .waiting ∧ c.sentUp = false ∧
        c.denseCount = dq t.desc 1 8 8 ∧ c.dense = (denseList t s.eng).map (fun w => (bitsOf w 0 12, bitsOf w 32 21 * 64)) ∧
        c.chains = (members s.eng).map (fun h => (h, chainsOf h s.eng)) ∧
        u.grad.flagsOpen = 0 ∧
        u.grad.flagsClosing = orFlags s.eng.grad.flagsOpen (orFlags (if dq t.desc 1 2 1 = 1 then 16 else 0)
          (if (members s.eng).all (fun h => chainOk h s.eng) then 0 else 64)) ∧
        getF .stepSts Fld.STEP_STS_OPEN_STEP u = (dq t.desc 1 32 32 + 1) % 2 ^ 32 ∧
        getF .stepSts Fld.STEP_STS_CLOSING u = 1 ∧
        u = { s.eng with regs := u.regs, tasks := u.tasks, grad := u.grad, front := { s.eng.front with rings := u.front.rings } } ∧
        regsKept [.stepSts, .slcGradSts 0, .slcGradSts 1, .slcGradSts 2, .slcGradSts 3] s.eng u) ∧
    (findTask t.ref s.eng = some t → s.eng.grad.closing ≠ none →
      exec (.stepCloseClose t.ref acc) s = .next { s with eng := settle s.eng })) ∧
  (∀ (s : State) (t : Task) (acc : Access), alive s.eng = true → dOpcode t.desc = 0x09 → dq t.desc 1 0 2 = 1 →
    startsClean t arrivalCheck s.eng = true →
    let k := dq t.desc 1 32 32
    (decisionOf k s.eng = none →
      ∃ u, exec (.stepCloseArrival t.ref acc) s = .next { s with eng := settle u } ∧
        findTask t.ref u = some { t with phase := .running, step := k, precise := dPrecise t.desc || getB .ctl Fld.CTL_PRECISE_DEFAULT s.eng } ∧
        tget 0 k u.grad.arrived = tget 0 k s.eng.grad.arrived + 1 ∧
        u.grad.arrWait = s.eng.grad.arrWait ++ [(t.ref, acc)] ∧
        u = { s.eng with tasks := u.tasks, front := { s.eng.front with rings := u.front.rings }
                         grad := { s.eng.grad with arrived := u.grad.arrived, arrWait := u.grad.arrWait } }) ∧
    (∀ fl, decisionOf k s.eng = some (false, fl) → s.eng.grad.arrWait = [] →
      ∃ u, exec (.stepCloseArrival t.ref acc) s = .next { s with eng := settle u } ∧
        (findTask t.ref u).map (fun v => (v.phase, v.status, v.detail)) = some (.ended, 0x04, 0x80 + fl) ∧
        u.grad.arrWait = [] ∧ regsKept [.stepSts] s.eng u ∧
        u = { s.eng with regs := u.regs, tasks := u.tasks, grad := u.grad, front := { s.eng.front with rings := u.front.rings } }))

/-- R188, R202, R205, R217: the sort waits for the tasks of the step. Once done, every home member has one run in each slice:
the merged rows of the closing step that the slice holds for that home, table and row ascending, DENSE tables aside; rows
with a value that is not finite raise NONFINITE and a lost line raises LOST. Where host software has broken R199 the values
of a slice's rows are undefined. The CLOSE then votes, or is held while the step before it still arrives; it resumes when
that has ended. -/
def Obligations.StepSorts : Prop :=
  ∀ (s : State) (c : Closing), alive s.eng = true → s.eng.grad.closing = some c →
    (c.phase = .waiting → stepBusy c.step s.eng = false →
      exec .mergeSortStart s = .next { s with eng := settle { s.eng with
        grad := { s.eng.grad with closing := some { c with phase := .sorting } } } }) ∧
    (stepBusy c.step s.eng = true → exec .mergeSortStart s = .next { s with eng := settle s.eng }) ∧
    (∀ lost, c.phase = .sorting →
      ∃ u c', exec (.mergeSortDone lost) s = .next { s with eng := settle u } ∧ u.grad.closing = some c' ∧
        c' = { c with runs := c'.runs, phase := if s.eng.grad.arrival = none then .gate else .held } ∧
        (∀ d n, d ∈ members s.eng → n < 4 → ∃ r ∈ c'.runs, r.home = d ∧ r.slice = n ∧ r.left = r.recs ∧
          (let rows := (mergedRows n c.step s.eng).filter (fun x => !cDense (imgOf x.table s.eng) &&
             decide ((place x.table x.row s.eng).device = d))
           r.recs.map (fun x => (x.table, x.row, x.count)) = rows.map (fun x => (x.table, x.row, x.count)) ∧
           ((n, c.step) ∉ s.eng.grad.spoilt → r.recs = rows))) ∧
        (lost = true → hasFlag u.grad.flagsClosing 8 = true) ∧
        (∀ n x, n < 4 → (n, c.step) ∉ s.eng.grad.spoilt → x ∈ mergedRows n c.step s.eng → x.pairs.any (fun l => !f32IsFin l.s || !f32IsFin l.c) = true →
          hasFlag u.grad.flagsClosing 1 = true) ∧
        u = { s.eng with mem := { s.eng.mem with llm := u.mem.llm }, freeCtr := u.freeCtr
                         grad := { s.eng.grad with closing := some c', flagsClosing := u.grad.flagsClosing } }) ∧
    (c.phase = .held → s.eng.grad.arrival = none →
      exec .closeHeldResume s = .next { s with eng := settle { s.eng with
        grad := { s.eng.grad with closing := some { c with phase := .gate } } } }) ∧
    (s.eng.grad.arrival ≠ none → exec .closeHeldResume s = .next { s with eng := settle s.eng })

/-- R204, R207: a member below the root whose sort is done and whose children have all reported sends its flags and digest to
its parent, once; when its timer has run out it does so with TIMEOUT among the flags; it asks again 100 µs after that or
after the last request. R204, R206, R207: the root, once every member below it has reported, decides: PROCEED where no flag
is set, SKIP otherwise. The decision is in SHD_STEP_STS, among the last four, and on its way to every child. After SKIP the
CLOSE ends with SKIPPED and the flags, and nothing of the step is kept, its dense regions undefined; after PROCEED the runs
go into the chains. -/
def Obligations.GateVotesAndDecides : Prop :=
  (∀ (s : State) (c : Closing) (p : Nat), alive s.eng = true → s.eng.grad.closing = some c → rootValid s.eng = true →
    gateParent s.eng = some p → reachable p s.eng = true →
    let toParent (b : Body) (e : Engine) : Engine :=
      { e with net := { e.net with egress := e.net.egress ++ [(portTo p s.eng, ⟨hdrTo p 0 s.eng, b⟩)] } }
    let fl := orFlags s.eng.grad.flagsClosing c.upFlags
    (c.phase = .gate → c.sentUp = false → (∀ d ∈ gateChildren s.eng, d ∈ c.heard) →
      exec .gateUpSend s = .next { s with eng := settle (toParent (.gateUp c.step fl (gateDigest s.eng)) { s.eng with
        grad := { s.eng.grad with closing := some { c with sentUp := true, sentAt := now s.eng } } }) }) ∧
    (c.phase ≠ .chains → c.sentUp = false → s.eng.grad.arrival = none →
      elapsedUs c.start (max 1 (getF .stepCfg Fld.STEP_CFG_GATE_TIMEOUT s.eng)) s.eng = true →
      let fc := orFlags s.eng.grad.flagsClosing 32
      exec .gateTimeout s = .next { s with eng := settle (toParent (.gateUp c.step (orFlags fc c.upFlags) (gateDigest s.eng)) { s.eng with
        grad := { s.eng.grad with
          flagsClosing := fc, closing := some { c with timeout := true, sentUp := true, sentAt := now s.eng } } }) }) ∧
    (c.phase ≠ .chains → c.sentUp = true → elapsedUs c.sentAt 100 s.eng = true →
      exec .gateAskTimer s = .next { s with eng := settle (toParent (.gateAsk c.step) { s.eng with
        grad := { s.eng.grad with closing := some { c with sentAt := now s.eng } } }) })) ∧
  (∀ (s : State) (c : Closing) (t : Task), alive s.eng = true → s.eng.grad.closing = some c → rootValid s.eng = true →
    gateParent s.eng = none → c.phase = .gate → c.sentUp = false → (∀ d ∈ gateChildren s.eng, d ∈ c.heard) →
    findTask c.ref s.eng = some t → t.phase = .running →
    let fl := orFlags s.eng.grad.flagsClosing c.upFlags
    let decided (w : Engine) : Prop :=
      w.grad.decided = ((c.step, decide (fl = 0), fl) :: s.eng.grad.decided).take 4 ∧
      (∀ d ∈ gateChildren s.eng, reachable d s.eng = true →
        (portTo d s.eng, (⟨hdrTo d 0 s.eng, .gateDown c.step (decide (fl = 0)) fl⟩ : Msg)) ∈ w.net.egress) ∧
      getF .stepSts Fld.STEP_STS_LAST_SKIPPED w = (if fl = 0 then 0 else 1) ∧
      getF .stepSts Fld.STEP_STS_LAST_FLAGS w = fl % 2 ^ Fld.STEP_STS_LAST_FLAGS.width
    (fl = 0 → ∃ w, exec .gateUpSend s = .next { s with eng := settle (releaseArrivals c.step (startChains w)) } ∧
      decided w ∧ w.grad.closing = some { c with sentUp := true } ∧
      w = { s.eng with regs := w.regs, grad := w.grad, net := w.net, logs := w.logs, counters := w.counters, pinAlert := w.pinAlert }) ∧
    (fl ≠ 0 → s.eng.grad.arrWait = [] →
      ∃ w, exec .gateUpSend s = .next { s with eng := settle w } ∧ decided w ∧ w.grad.closing = none ∧
        (∀ x ∈ w.grad.coal, x.step ≠ c.step) ∧
        (findTask c.ref w).map (fun v => (v.phase, v.status, v.detail)) = some (.ended, 0x04, 0x80 + fl) ∧
        w = { s.eng with regs := w.regs, tasks := w.tasks, grad := w.grad, net := w.net, logs := w.logs, counters := w.counters
                         pinAlert := w.pinAlert, freeCtr := w.freeCtr, mem := { s.eng.mem with llm := w.mem.llm } } ∧
        (c.dense = [] → w.mem = s.eng.mem ∧ w.freeCtr = s.eng.freeCtr)))

/-- R215, R242 to R244: a chain of a home slice that made no progress for CHAIN_TIMEOUT ends there, and the CLOSE will end
with DATA_LOST and CHAIN_TIMEOUT; a state row that arrives whole lets everything that waited for it go on, and leaves the
list; an arrival whose state has not come in time is left out, with a record, and its deliverer is told. -/
def Obligations.ArrivalsAndChainsGoOn : Prop :=
  ∀ s : State, alive s.eng = true →
    (∀ c n chain i, s.eng.grad.closing = some c → c.phase = .chains →
      (insOf (thisDev s.eng) n c).find? (fun x => decide (x.chain = chain)) = some i → i.ended = false →
      elapsedUs i.t0 (max 1 (getF .stepCfg Fld.STEP_CFG_CHAIN_TIMEOUT s.eng)) s.eng = true →
      exec (.chainTimeout n chain) s = .next { s with eng := settle (feedAll { s.eng with
        grad := { s.eng.grad with closing := some { c with
          fault := c.fault.or (some (0x40, 0x31))
          ins := c.ins.map (fun x => if x.home = thisDev s.eng ∧ x.slice = n ∧ x.chain = chain then { x with ended := true }
            else x) } } }) }) ∧
    (∀ id d w a parked, s.eng.upd.waits.find? (fun x => decide (x.id = id)) = some w → ownSrc (stateSrc w.slot s.eng) s.eng = true →
      s.eng.upd.waits.filter (fun x => decide (x.slot = w.slot) && decide (x.row = w.row)) = [w] → w.use = .arrival a parked →
      badSectors w.slot w.row (stateHalves w.slice w.slot w.row s.eng) s.eng = [] → getB .safeInject Fld.SAFE_INJECT_ARM s.eng = false →
      ∃ v, exec (.stateRowArrival id .ok d) s = .next { s with eng := settle (feedAll (applyArrival a
          (let n := (place w.slot w.row s.eng).slice
           if stateLine n w.slot w.row v then (seeState n w.slot w.row v).1 else (seeState w.slice w.slot w.row s.eng).1)
          (if parked then 32 else 0) v)) } ∧
        v.upd.waits = s.eng.upd.waits.filter (fun x => !(decide (x.slot = w.slot) && decide (x.row = w.row)))) ∧
    (∀ id w a parked, s.eng.upd.waits.find? (fun x => decide (x.id = id)) = some w → w.use = .arrival a parked →
      elapsedUs w.t0 (max 1 (getF (.slcUpdCfg w.slice) Fld.SLC_UPD_CFG_STATE_TIMEOUT s.eng)) s.eng = true →
      ∃ v, exec (.stateTimeout id) s = .next { s with eng := settle (feedAll (noteApplied a 0 true v)) } ∧
        v.upd.waits = s.eng.upd.waits.filter (fun x => decide (x.id ≠ id)) ∧
        getF (.slcUpdSts w.slice) Fld.SLC_UPD_STS_PARKED_NOW v = (parkedOf w.slice v).length % 2 ^ Fld.SLC_UPD_STS_PARKED_NOW.width ∧
        v = { s.eng with regs := v.regs, upd := v.upd, logs := v.logs, counters := v.counters, pinAlert := v.pinAlert })


/-! Hot rows -/
/-- R261, R268, R269, R410: a member that leaves a multicast of a table unacknowledged for MCAST_WINDOW is dropped for the
table, once, with a DROP on its way; where it has not acknowledged that in time it is held as lost, and no multicast waits
for it. A dropped member asks every home concerned to let it rejoin; a fetch that is not answered is repeated once, and the
second time the replica becomes INVALID. -/
def Obligations.HotRowMembers : Prop :=
  ∀ s : State, alive s.eng = true →
    let us := max 1 (getF .replCfg Fld.REPL_CFG_MCAST_WINDOW s.eng)
    (∀ table dev, (∃ m ∈ s.eng.hot.mcasts, m.table = table ∧ dev ∈ m.members ∧ elapsedUs m.t0 us s.eng = true) →
      isDropped table dev s.eng = false → reachable dev s.eng = true →
      ∃ u, exec (.mcastLagExpiry table dev) s = .next { s with eng := settle u } ∧ isDropped table dev u = true ∧
        (portTo dev s.eng, (⟨{ hdrTo dev 0 s.eng with tableId := table }, .drop table⟩ : Msg)) ∈ u.net.egress ∧
        (∃ w ∈ u.net.waits, w.peer = dev ∧ w.answer = 0x09 ∧ w.table = table) ∧
        getF .replSts Fld.REPL_STS_DROPS u = min (getF .replSts Fld.REPL_STS_DROPS s.eng + 1) (2 ^ Fld.REPL_STS_DROPS.width - 1) ∧
        u = { s.eng with regs := u.regs, hot := { s.eng.hot with dropped := u.hot.dropped }, net := u.net } ∧
        regsKept [.replSts] s.eng u) ∧
    (∀ table dev, isDropped table dev s.eng = true → exec (.mcastLagExpiry table dev) s = .next { s with eng := settle s.eng }) ∧
    (∀ table dev x, s.eng.hot.dropped.find? (fun y => decide (y.table = table) && decide (y.member = dev)) = some x →
      x.acked = false → elapsedUs x.t0 us s.eng = true → dev ≠ thisDev s.eng → dev < 64 → memberIsLost dev s.eng = false →
      (∀ a ∈ s.eng.net.awaits, a.2 ≠ dev) →
      ∃ w, exec (.dropAckTimeout table dev) s = .next { s with eng := settle (settle w) } ∧ memberIsLost dev w = true ∧
        getF .faultSts Fld.FAULT_STS_MEMBER_LOST w = 1 ∧ (∀ y ∈ w.net.waits, y.peer ≠ dev) ∧
        (∀ y ∈ w.net.unacked, y.msg.h.dstDev ≠ dev) ∧
        w.hot.mcasts = (s.eng.hot.mcasts.map (fun m => { m with members := m.members.erase dev })).filter (fun m => !m.members.isEmpty)) ∧
    (∀ table home, (table, home) ∈ s.eng.hot.rejoin → (∀ w ∈ s.eng.net.waits, ¬(w.answer = 0x0B ∧ w.table = table)) →
      (∀ m ∈ s.eng.net.heldIn, m.h.srcDev ≠ home) →
      ∃ u, exec (.rejoinStart table home) s = .next { s with eng := settle u } ∧
        (∀ d, (d ∈ droppedHomes table s.eng ∨ (droppedHomes table s.eng = [] ∧ d = home)) → reachable d s.eng = true →
          (portTo d s.eng, (⟨{ hdrTo d 0 s.eng with tableId := table }, .rejoin table⟩ : Msg)) ∈ u.net.egress) ∧
        u = { s.eng with net := u.net }) ∧
    (∀ table row r, findReplica table row s.eng = some r → r.st = .pending → elapsedUs r.t0 us s.eng = true →
      (r.tries = 0 →
        ∃ u, exec (.replicaFetchTimeout table row) s = .next { s with eng := settle u } ∧
          findReplica table row u = some { r with tries := 1, t0 := now s.eng } ∧
          (let p := place table row s.eng
           reachable p.device s.eng = true →
             (portTo p.device s.eng, p.device, Body.replicaFetch table row) ∈ u.net.egress.map (fun x => (x.1, x.2.h.dstDev, x.2.b))) ∧
          u = { s.eng with hot := { s.eng.hot with replicas := u.hot.replicas }, net := u.net }) ∧
      (r.tries ≠ 0 →
        ∃ u, exec (.replicaFetchTimeout table row) s = .next { s with eng := settle u } ∧
          findReplica table row u = some { r with st := .invalid } ∧
          u = { s.eng with hot := { s.eng.hot with replicas := u.hot.replicas }, regs := u.regs, logs := u.logs
                           counters := u.counters, pinAlert := u.pinAlert }))

/-- R256, R265: SHD_SLC_SKETCH_CLR sets every counter of its slice and LOOKUPS to zero; once LOOKUPS has reached 2^24 every
counter of the slice is halved and LOOKUPS is zero, and an automatic replica of it without its reference bit is freed. The
counters of the other slices are unchanged. R238: GO on a loaded table with a state tier starts a sweep of the slice with
MISMATCHES 0, on a slot without a table it ends with RESULT 2 and on a table without a state tier with RESULT 1; while a
sweep runs GO has no effect. A sweep whose rows are all done ends with RESULT 0; a row whose working copy, side-row, scale
code and VERSION_LO are those that its master gives is left as it is. -/
def Obligations.SketchAndDrift : Prop :=
  (∀ (s : State) (n : Nat), alive s.eng = true → n < 4 →
    (slicePoweredOff n s.eng = false →
      ∃ e', answers (.sketchClear n) s e' ∧ (∀ j x, sketchAt n j x e' = 0) ∧
        (∀ m j x, m ≠ n → sketchAt m j x e' = sketchAt m j x s.eng) ∧
        getF (.slcSketchSts n) Fld.SLC_SKETCH_STS_LOOKUPS e' = 0 ∧
        e' = { s.eng with regs := e'.regs, power := { s.eng.power with quiet := now s.eng }, lostRegs := e'.lostRegs
                          hot := { s.eng.hot with sketch := e'.hot.sketch } } ∧
        regsKept [.slcSketchSts n, .pwrSts] s.eng e') ∧
    (2 ^ 24 ≤ getF (.slcSketchSts n) Fld.SLC_SKETCH_STS_LOOKUPS s.eng → (s.eng.hot.sketch.map (·.1)).Nodup →
      ∃ e', answers (.sketchHalving n) s e' ∧ (∀ j x, sketchAt n j x e' = sketchAt n j x s.eng / 2) ∧
        (∀ m j x, m ≠ n → sketchAt m j x e' = sketchAt m j x s.eng) ∧
        getF (.slcSketchSts n) Fld.SLC_SKETCH_STS_LOOKUPS e' = 0 ∧
        (∀ r ∈ e'.hot.replicas, r.slice = n → ∃ q ∈ s.eng.hot.replicas, (q.auto = true → q.refBit = true) ∧
          r = { q with refBit := false }) ∧
        e' = { s.eng with regs := e'.regs, hot := { s.eng.hot with sketch := e'.hot.sketch, replicas := e'.hot.replicas } } ∧
        regsKept [.slcSketchSts n, .slcReplSts n] s.eng e')) ∧
  (∀ (s : State) (n : Nat), alive s.eng = true → n < 4 →
    (slicePoweredOff n s.eng = false →
      let slot := getF (.slcDriftCtl n) Fld.SLC_DRIFT_CTL_TABLE_ID s.eng
      let go (e : Engine) := getF (.slcDriftCtl n) Fld.SLC_DRIFT_CTL_GO e
      ∃ e', answers (.driftCheckGo n) s e' ∧
        (go s.eng = 1 → onlyRegsWoken [] s.eng e') ∧
        (go s.eng = 0 → getF (.slcDriftSts n) Fld.SLC_DRIFT_STS_MISMATCHES e' = 0 ∧
          ((slotOf slot s.eng).loaded = false →
            go e' = 0 ∧ getF (.slcDriftSts n) Fld.SLC_DRIFT_STS_RESULT e' = 2) ∧
          ((slotOf slot s.eng).loaded = true → cTier (imgOf slot s.eng) = 0 →
            go e' = 0 ∧ getF (.slcDriftSts n) Fld.SLC_DRIFT_STS_RESULT e' = 1) ∧
          ((slotOf slot s.eng).loaded = true → cTier (imgOf slot s.eng) ≠ 0 →
            go e' = 1 ∧ e'.upd.drifts = s.eng.upd.drifts ++
              [{ slice := n, slot, next := getF (.slcDriftFirst n) Fld.SLC_DRIFT_FIRST_FIRST s.eng }]) ∧
          e' = { s.eng with regs := e'.regs, power := e'.power, lostRegs := e'.lostRegs
                            upd := { s.eng.upd with drifts := e'.upd.drifts } } ∧
          regsKept [.slcDriftCtl n, .slcDriftSts n, .pwrSts] s.eng e')) ∧
    (∀ d, s.eng.upd.drifts.find? (fun x => decide (x.slice = n)) = some d →
      (driftNext n d s.eng (2 * cShards (imgOf d.slot s.eng) + 2) = none →
        ∃ u, exec (.driftCheckRow n) s = .next { s with eng := settle u } ∧ (∀ x ∈ u.upd.drifts, x.slice ≠ n) ∧
          getF (.slcDriftCtl n) Fld.SLC_DRIFT_CTL_GO u = 0 ∧ getF (.slcDriftSts n) Fld.SLC_DRIFT_STS_RESULT u = 0 ∧
          u = { s.eng with regs := u.regs, upd := { s.eng.upd with drifts := u.upd.drifts } } ∧
          regsKept [.slcDriftCtl n, .slcDriftSts n] s.eng u) ∧
      (∀ d' row, driftNext n d s.eng (2 * cShards (imgOf d.slot s.eng) + 2) = some (d', row) →
        stateHere n d.slot row s.eng = true → cOutliers (imgOf d.slot s.eng) = 0 →
        let i := imgOf d.slot s.eng
        let st := parseSt i (seeState n d.slot row s.eng).1
        let wk := seeRow n d.slot (place d.slot row s.eng) s.eng
        let ls := if fmtScaled (cFormat i) then st.ls else 0
        let g := regen i [] ls st.master
        wk.2 = true → g.data = wk.1.data → g.side = wk.1.side → ls = wk.1.ls → st.ver % 256 = wk.1.ver →
        exec (.driftCheckRow n) s = .next { s with eng := settle { s.eng with
          upd := { s.eng.upd with drifts := s.eng.upd.drifts.map (fun x => if x.slice = n then d' else x) } } })))


/-! Cache and memory -/
/-- R325, R326: a write of SHD_SLC_WAY_CFG that keeps the limits starts a change: RECONF_BUSY is 1, the register still reads
its old value, and no line of a changed way is left; once the slice's write-backs are done the register holds the new kinds.
A write that breaks a limit has no effect. -/
def Obligations.WaysChangeKind : Prop :=
  ∀ (s : State) (n : Nat), alive s.eng = true → n < 4 → slicePoweredOff n s.eng = false →
    (∀ v, wayCfgOk n v s.eng = true →
      ∃ e', answers (.wayCfgWrite n v) s e' ∧ getF (.slcWaySts n) Fld.SLC_WAY_STS_RECONF_BUSY e' = 1 ∧
        getReg (.slcWayCfg n) e' = getReg (.slcWayCfg n) s.eng ∧ tfind n e'.cache.reconf = some (v &&& 0xFFFFFFFFFFFF) ∧
        (∀ l ∈ e'.cache.lines, l.slice = n → l.way < 24 → cfgKind v l.way = wayKind n l.way s.eng) ∧
        (∀ p ∈ e'.hot.replicas, p.slice = n → p.way < 24 → wayKind n p.way s.eng = 3 → cfgKind v p.way = 3) ∧
        e' = { s.eng with regs := e'.regs, power := e'.power, lostRegs := e'.lostRegs, cache := e'.cache, net := e'.net
                          nextId := e'.nextId, hot := { s.eng.hot with replicas := e'.hot.replicas } }) ∧
    (∀ v, wayCfgOk n v s.eng = false → ∃ e', answers (.wayCfgWrite n v) s e' ∧ onlyRegsWoken [] s.eng e') ∧
    (∀ v, tfind n s.eng.cache.reconf = some v →
      ((∀ w ∈ s.eng.cache.writes, w.evict = true → w.slice ≠ n) →
        ∃ e', answers (.wayReconfDone n) s e' ∧ getReg (.slcWayCfg n) e' = v ∧
          getF (.slcWaySts n) Fld.SLC_WAY_STS_RECONF_BUSY e' = 0 ∧ tfind n e'.cache.reconf = none ∧
          e' = { s.eng with regs := e'.regs, cache := { s.eng.cache with reconf := e'.cache.reconf } } ∧
          regsKept [.slcWayCfg n, .slcWaySts n] s.eng e') ∧
      ((∃ w ∈ s.eng.cache.writes, w.evict = true ∧ w.slice = n) → answers (.wayReconfDone n) s s.eng)) ∧
    (∀ w, (tget (0, 0) (n, w) s.eng.cache.ways).2 = 2 ^ 20 →
      ∃ e', answers (.wayAccessCountWrap n w) s e' ∧ tget (0, 0) (n, w) e'.cache.ways = (0, 0) ∧
        (∀ k, k ≠ (n, w) → tget (0, 0) k e'.cache.ways = tget (0, 0) k s.eng.cache.ways) ∧
        e' = { s.eng with cache := { s.eng.cache with ways := e'.cache.ways } })

/-- R319, R323, R328, R333: a read whose row passes its checks ends its request: the row fills the reader's cache and goes to
what asked for it. The HBM write of a row, and a write-back, store their bytes; the write is then visible as far as memory
goes, and the entry of the Crumb buffer may be used again. R86: an invalidation reaches a slice, which drops its copy of the
row and no other line and acknowledges; the write waits for the acknowledgements it has not received. -/
def Obligations.MemoryAccessesComplete : Prop :=
  (∀ s : State, alive s.eng = true → getB .safeInject Fld.SAFE_INJECT_ARM s.eng = false →
    (∀ id d q v, s.eng.rowReqs.find? (fun x => decide (x.id = id)) = some q → q.waitState = false → q.val = some v → stateDatum q s.eng = none →
      ∃ u, exec (.sectorReadDone id .ok d none) s = .next { s with eng := settle (deliverRow q v false
          (fillReq q (readerOf q s.eng) u)) } ∧ (∀ x ∈ u.rowReqs, x.id ≠ id) ∧ u = { s.eng with rowReqs := u.rowReqs }) ∧
    (∀ id w, s.eng.cache.writes.find? (fun x => decide (x.id = id)) = some w → w.evict = false → w.hbm = true →
      s.eng.mem.wf = true →
      ∃ u, exec (.hbmWriteDone id none) s = .next { s with eng := settle u } ∧
        (∀ p, w.parts = [p] → p.src = thisDev s.eng → memRead p.addr p.bytes.length u.mem.hbm = p.bytes) ∧
        (∀ a, (∀ p ∈ w.parts, p.src ≠ 64 → a < p.addr ∨ p.addr + p.bytes.length ≤ a) → memGet a u.mem.hbm = memGet a s.eng.mem.hbm) ∧
        u.cache.writes.find? (fun x => decide (x.id = id)) = some { w with hbm := false, parts := [] } ∧
        u = { s.eng with cache := u.cache, mem := { u.mem with host := s.eng.mem.host, llm := s.eng.mem.llm } }) ∧
    (∀ id w p, s.eng.cache.writes.find? (fun x => decide (x.id = id)) = some w → w.evict = true → w.parts = [p] →
      s.eng.mem.wf = true → p.src = thisDev s.eng → p.src ≠ 64 →
      ∃ u, exec (.crumbWritebackDone id) s = .next { s with eng := settle u } ∧
        memRead p.addr p.bytes.length u.mem.hbm = p.bytes ∧ (∀ x ∈ u.cache.writes, x.id ≠ id) ∧
        (∀ x ∈ u.cache.crumb, x.wb ≠ some id) ∧
        getF (.slcWaySts w.slice) Fld.SLC_WAY_STS_CRUMB_USED u =
          (u.cache.crumb.filter (fun x => decide (x.line.slice = w.slice))).length % 512 ∧
        u = { s.eng with regs := u.regs, cache := u.cache
                         mem := { s.eng.mem with hbm := u.mem.hbm, hbmSide := u.mem.hbmSide } } ∧
        regsKept [.slcWaySts w.slice] s.eng u)) ∧
  (∀ (s : State) (id n : Nat), alive s.eng = true →
    (∀ w, s.eng.cache.writes.find? (fun x => decide (x.id = id)) = some w → n ∈ w.inv →
      ∃ e', answers (.invalidation id n) s e' ∧
        (∀ l ∈ e'.cache.lines, l ∈ s.eng.cache.lines) ∧
        (∀ l ∈ s.eng.cache.lines, l.slice ≠ n ∨ l.kind ≠ .copy → l ∈ e'.cache.lines) ∧
        (∀ l ∈ e'.cache.lines, l.slice = n → l.kind = .copy →
          (l.src, l.base) ∉ reqBases w.slot (place w.slot w.row s.eng) s.eng) ∧
        e'.cache.writes.find? (fun x => decide (x.id = id)) = some { w with inv := w.inv.erase n, invAck := w.invAck ++ [n] } ∧
        e' = { s.eng with cache := { s.eng.cache with lines := e'.cache.lines, writes := e'.cache.writes } }) ∧
    (∀ w, s.eng.cache.writes.find? (fun x => decide (x.id = id)) = some w → n ∈ w.invAck →
      ∃ u, exec (.invalidationAck id n) s = .next { s with eng := settle u } ∧
        u.cache.writes.find? (fun x => decide (x.id = id)) = some { w with invAck := w.invAck.erase n } ∧
        (∀ k, k ≠ id → u.cache.writes.find? (fun x => decide (x.id = k)) = s.eng.cache.writes.find? (fun x => decide (x.id = k))) ∧
        u = { s.eng with cache := { s.eng.cache with writes := u.cache.writes } }))


/-! Near path -/
/-- R344, R345, R348, R350, R453: a near-path instruction that the vector core can issue enters the engine with a task of its
own, at the issuing privilege and in its domain, with the control block as it stands, and does what it can at once. A count
of 0 ends it DONE with no items and a disabled engine ends it with BAD_DESCRIPTOR and DETAIL 0xD0, either retired unless it
runs precise. One whose start checks fail ends with their status, and has done nothing. An add with the ignored index adds
nothing; the last add issued retires SHD.SADD. -/
def Obligations.NearPathIssues : Prop :=
  ∀ (s : State) (thread level domain count cb : Nat) (vs1 vs2 : List Word) (vals : List Byte), canIssue thread s.eng = true →
    let e := s.eng
    let blank (kind : Nat) (vs2 : List Word) (vals : List Byte) : NearIn :=
      { id := e.nextId, thread, kind, cbAddr := cb, cb := eaNat cb 64 e, vs1, vs2, vals, count, level
        precise := decide (bitsOf (eaNat cb 64 e) 2 1 = 1) || getB .ctl Fld.CTL_PRECISE_DEFAULT e }
    let task (x : NearIn) : Task := { ref := .near e.nextId, desc := nearDesc x e, phase := .ready, priv := level, domain }
    let entered (x : NearIn) (t : Task) : Engine :=
      { e with nextId := e.nextId + 1, tasks := e.tasks ++ [t], near := { e.near with ins := e.near.ins ++ [x] } }
    let refused (x : NearIn) (st dt : Nat) : Engine :=
      entered { x with retired := !x.precise } { task x with phase := .ended, status := st, detail := dt }
    let fresh : Prop := (∀ x ∈ e.near.ins, x.id ≠ e.nextId) ∧ findTask (.near e.nextId) e = none ∧ findJob (.near e.nextId) e = none
    let issues (c : Instr) (x : NearIn) : Prop :=
      (getB .ctl Fld.CTL_ENABLE e = true → count ≠ 0 →
        exec c s = .next { s with eng := nearStep e.nextId (entered x (task x)) }) ∧
      (getB .ctl Fld.CTL_ENABLE e = true → count = 0 → answers c s (refused x 0x01 0)) ∧
      (getB .ctl Fld.CTL_ENABLE e = false → answers c s (refused x 0x20 0xD0)) ∧
      (∀ st dt, getB .ctl Fld.CTL_ENABLE e = true → count ≠ 0 → fresh → heldByLoad (task x) (entered x (task x)) = false →
        nearCheck x (task x) (beginTask (task x) (entered x (task x))) = some (st, dt) →
        answers c s (entered { x with retired := !x.precise }
          { task x with phase := .ended, step := getF .stepSts Fld.STEP_STS_OPEN_STEP e, status := st, detail := dt }))
    issues (.shdGpool thread level domain vs1 vs2 count cb) (blank 1 vs2 []) ∧
    issues (.shdGather thread level domain vs1 count cb) (blank 2 [] []) ∧
    issues (.shdSadd thread level domain vs1 vals count cb) (blank 3 [] vals) ∧
    (let x := blank 3 [] vals
     let t := task x
     let w := updNear e.nextId (fun x => { x with retired := !x.precise }) (beginTask t (entered x t))
     let done (items : Nat) : Task := { t with phase := .ended, step := getF .stepSts Fld.STEP_STS_OPEN_STEP e, status := 0x01, items }
     getB .ctl Fld.CTL_ENABLE e = true → fresh → heldByLoad t (entered x t) = false →
      nearCheck x t (beginTask t (entered x t)) = none →
      (0 < count → (∀ k, k < count → vs1[k]? = some (BitVec.allOnes 64)) →
        answers (.shdSadd thread level domain vs1 vals count cb) s (entered { x with retired := !x.precise } (done count))) ∧
      (∀ i v, count = 1 → vs1[0]? = some i →
        addEntry (cbMode x) (eaAddr (cbOut x)) (cbStride x) i.toNat (vals.take (cbLen x * addSize (cbMode x))) (cbSlice x) domain
          (decide (level ≠ 3)) w = (.ok 0 0 false, v) →
        ∃ u, answers (.shdSadd thread level domain vs1 vals count cb) s u ∧ u.mem = v.mem ∧
          findTask (.near e.nextId) u = some (done 1)))

/-- R353: SHD.SYNC of a thread whose instructions have all given their outcomes returns SHD_XSTS and clears it, and traps
where its status is a failure or XTRAP is set; while outcomes are awaited the thread waits. The last outcome lets a waiting
thread go on. R351 to R353: the oldest instruction of a thread hands over its outcome once its task has ended, and nothing of
it stays in the engine. The outcome joins SHD_XSTS: the first failure or skip keeps its status, DETAIL and place, flags and
XTRAP add up; an instruction that runs precise and fails traps at once, and SHD_XSTS holds its outcome alone. -/
def Obligations.NearPathOutcomes : Prop :=
  (∀ (s : State) (thread : Nat), alive s.eng = true → s.eng.near.syncs.contains thread = false →
    let x := xstsOf thread s.eng
    ((∀ y ∈ s.eng.near.ins, y.thread ≠ thread) →
      ∃ u, answers (.shdSync thread) s u ∧
        u.near.words = s.eng.near.words ++ [(thread, xstsWord x, decide (0x10 ≤ x.status) || x.xtrap)] ∧
        xstsOf thread u = {} ∧ (∀ k, k ≠ thread → xstsOf k u = xstsOf k s.eng) ∧
        u = { s.eng with near := { s.eng.near with words := u.near.words, xsts := u.near.xsts } }) ∧
    ((∃ y ∈ s.eng.near.ins, y.thread = thread) → (∀ y ∈ s.eng.near.ins, y.thread = thread → y.retired = true) →
      answers (.shdSync thread) s { s.eng with near := { s.eng.near with syncs := s.eng.near.syncs ++ [thread] } })) ∧
  (∀ (s : State) (x : NearIn) (t : Task), alive s.eng = true →
    s.eng.near.ins.find? (fun y => decide (y.thread = x.thread)) = some x →
    findTask (.near x.id) s.eng = some t → t.phase = .ended →
    let o : NearOut := { thread := x.thread, id := x.id, status := t.status, detail := t.detail, flags := t.flags, items := t.items
                         xtrap := (hasFlag t.flags 2 && decide (bitsOf x.cb 5 1 = 1)) || (hasFlag t.flags 1 && decide (bitsOf x.cb 6 1 = 1)) }
    let traps := decide (0x10 ≤ o.status) || o.xtrap
    let old := xstsOf x.thread s.eng
    (∃ u, answers (.nearOutcome x.thread) s u ∧ u.near.outs = s.eng.near.outs ++ [o] ∧
      findTask (.near x.id) u = none ∧ (∀ y ∈ u.near.ins, y.id ≠ x.id) ∧ (∀ y ∈ s.eng.near.ins, y.id ≠ x.id → y ∈ u.near.ins) ∧
      (∀ r, r ≠ .near x.id → findTask r u = findTask r s.eng) ∧ (∀ k, k ≠ x.thread → xstsOf k u = xstsOf k s.eng) ∧
      u = { s.eng with tasks := u.tasks, near := { s.eng.near with
        ins := u.near.ins, outs := u.near.outs, xsts := u.near.xsts, syncs := u.near.syncs, words := u.near.words, traps := u.near.traps } } ∧
      (s.eng.near.syncs.contains x.thread = false →
        u.near.syncs = s.eng.near.syncs ∧ u.near.words = s.eng.near.words ∧
        ((x.precise && traps) = true →
          u.near.traps = s.eng.near.traps ++ [(x.thread, xstsWord (xstsOf x.thread u))] ∧ xstsOf x.thread u = xstsTake {} o) ∧
        ((x.precise && traps) = false → u.near.traps = s.eng.near.traps ∧ xstsOf x.thread u = xstsTake old o)) ∧
      (s.eng.near.syncs.contains x.thread = true → (∀ y ∈ s.eng.near.ins, y.thread = x.thread → y.id = x.id) →
        (x.precise && traps) = false →
        u.near.words = s.eng.near.words ++ [(x.thread, xstsWord (xstsTake old o), xstsTraps (xstsTake old o))] ∧
        x.thread ∉ u.near.syncs)) ∧
    (xstsTake old o).flags = Nat.lor old.flags o.flags ∧ (xstsTake old o).xtrap = (old.xtrap || o.xtrap) ∧
    (old.status ≠ 0 → old.status ≠ 2 → (xstsTake old o).status = old.status ∧ (xstsTake old o).detail = old.detail) ∧
    (old.status = 0 ∨ old.status = 2 → o.status ≠ 1 → o.status ≠ 2 →
      (xstsTake old o).status = o.status ∧ (xstsTake old o).detail = o.detail ∧ (xstsTake old o).index = old.count))

/-- R354: an interrupt asks the last instruction of a thread that has not retired to stop, and it goes on from there; the
window starts then, and a window of 0 is over at once. Once STOP_WINDOW × 100 ns have passed without a bag boundary, the
instruction knows it. R357: a record whose CRC, EPOCH, KIND, CB_ADDR and COUNT hold, at a privilege not above the issuer's
and in its domain (or issued at M), is consumed, counts in RESUMES, and the instruction goes on from its stop point with the
record's privilege, domain, flags and counts. A record of a higher privilege is refused with PRIVILEGE and DETAIL 0x04 and
counts in REFUSED. With a record that is unusable SHD.SADD ends with DATA_LOST and DETAIL 0x90. -/
def Obligations.NearPathStopsAndResumes : Prop :=
  (∀ (s : State) (x : NearIn), alive s.eng = true → x.retired = false →
    (s.eng.near.ins.find? (fun y => decide (y.thread = x.thread) && !y.retired) = some x → x.stop = none →
      exec (.nearStopRequest x.thread) s = .next { s with eng := nearStep x.id { s.eng with near := { s.eng.near with
        ins := s.eng.near.ins.map (fun y => if y.id = x.id then
          { y with stop := some (now s.eng), expired := decide (getF .nearCfg Fld.NEAR_CFG_STOP_WINDOW s.eng = 0) } else y) } } }) ∧
    (∀ t0, s.eng.near.ins.find? (fun y => decide (y.thread = x.thread) && !y.retired && y.stop.isSome && !y.expired) = some x →
      x.stop = some t0 →
      (getF .nearCfg Fld.NEAR_CFG_STOP_WINDOW s.eng * 375 ≤ (now s.eng - t0) * 40 →
        exec (.nearStopWindowExpiry x.thread) s = .next { s with eng := nearStep x.id { s.eng with near := { s.eng.near with
          ins := s.eng.near.ins.map (fun y => if y.id = x.id then { y with expired := true } else y) } } }) ∧
      ((now s.eng - t0) * 40 < getF .nearCfg Fld.NEAR_CFG_STOP_WINDOW s.eng * 375 →
        answers (.nearStopWindowExpiry x.thread) s s.eng)) ∧
    -- SHD.GATHER between rows returns its record and leaves the engine, not retired
    (∀ t, s.eng.near.ins.find? (fun y => decide (y.thread = x.thread) && !y.retired) = some x → x.stop = none → x.kind = 2 →
      findNear x.id s.eng = some x → x.pend = [] → x.pos < x.count → findTask (.near x.id) s.eng = some t → t.phase = .running →
      findJob (.near x.id) s.eng = none → t.priv < 4 → t.domain < 256 →
      ∃ u r, answers (.nearStopRequest x.thread) s u ∧ findTask (.near x.id) u = none ∧ findNear x.id u = none ∧
        tfind (x.thread, x.level) u.near.recs = some r ∧ r.length = 64 ∧ bitsOf (ofBytes r) 0 2 = 2 ∧
        bitsOf (ofBytes r) 32 13 = x.pos % 2 ^ 13 ∧ ofBytes (r.drop 60) = crc32 (r.take 60) ∧
        u = { s.eng with tasks := u.tasks, near := { s.eng.near with ins := u.near.ins, recs := u.near.recs } })) ∧
  (∀ (s : State) (thread level domain kind count cb : Nat) (vs1 vs2 : List Word) (vals rec : List Byte),
    canIssue thread s.eng = true → getB .ctl Fld.CTL_ENABLE s.eng = true → getB .safeInject Fld.SAFE_INJECT_ARM s.eng = false →
    rec.length = 64 → level < 4 → count ≠ 0 →
    let e := s.eng
    let f (q lo w : Nat) : Nat := bitsOf (ofBytes rec) (64 * q + lo) w
    let c : Instr := .nearResume thread level domain kind vs1 vs2 vals count cb rec
    let sound : Prop := crc32 (rec.take 60) = ofBytes (rec.drop 60) ∧ f 0 16 16 = getF .nearSts Fld.NEAR_STS_EPOCH e
    let same : Prop := f 0 0 2 = kind ∧ f 1 0 64 = cb ∧ f 2 0 13 = count
    let recs := e.near.recs.filter (fun x => decide (x.1.1 ≠ thread) || decide (x.2 ≠ rec))
    let blank : NearIn := { id := e.nextId, thread, kind, cbAddr := cb, cb := eaNat cb 64 e, vs1, vs2, vals, count, level
                            precise := decide (bitsOf (eaNat cb 64 e) 2 1 = 1) || getB .ctl Fld.CTL_PRECISE_DEFAULT e }
    let entered (x : NearIn) (t : Task) (w : Engine) : Engine :=
      { w with nextId := e.nextId + 1, tasks := e.tasks ++ [t], near := { e.near with recs, ins := e.near.ins ++ [x] } }
    (sound → same → privRank (f 0 4 2) ≤ privRank level → f 0 8 8 = domain ∨ level = 3 →
      ∃ w, exec c s = .next { s with eng := nearStep e.nextId (entered
          { blank with pos := min (f 0 32 13) count, bagStart := min (f 0 48 13) (f 0 32 13)
                       saveCrc := if f 0 2 1 = 1 then some (f 2 32 32) else none }
          { ref := .near e.nextId, desc := nearDesc blank e, phase := .ready, priv := f 0 4 2, domain := f 0 8 8, flags := f 2 16 8
            quantised := f 3 0 32, clipped := f 3 32 32 } w) } ∧
        onlyRegs [.nearSts] e w ∧
        getF .nearSts Fld.NEAR_STS_RESUMES w = min (getF .nearSts Fld.NEAR_STS_RESUMES e + 1) (2 ^ 32 - 1)) ∧
    (sound → same → privRank level < privRank (f 0 4 2) →
      ∃ u, answers c s u ∧ findTask (.near e.nextId) u = some ((findTask (.near e.nextId) e).getD
          { ref := .near e.nextId, desc := nearDesc blank e, phase := .ended, priv := level, domain, status := 0x60, detail := 0x04 }) ∧
        getF .nearSts Fld.NEAR_STS_REFUSED u = min (getF .nearSts Fld.NEAR_STS_REFUSED e + 1) (2 ^ 16 - 1) ∧
        getF .nearSts Fld.NEAR_STS_EPOCH u = getF .nearSts Fld.NEAR_STS_EPOCH e ∧ u.near.recs = recs ∧ u.mem = e.mem) ∧
    (¬ sound → kind = 3 →
      ∃ u, answers c s u ∧ findTask (.near e.nextId) u = some ((findTask (.near e.nextId) e).getD
          { ref := .near e.nextId, desc := nearDesc blank e, phase := .ended, priv := level, domain, status := 0x40, detail := 0x90 }) ∧
        getReg .nearSts u = getReg .nearSts e ∧ u.near.recs = recs ∧ u.mem = e.mem))


/-! Links and messages -/
/-- R367, R374, R376, R402, R410: a flit that passes its check changes nothing, one that fails counts in CRC_ERRORS of its
port, and one the peer rejects counts in LINK_RETRIES; a port that is down leaves service, and the first device that no port
reaches any more is lost, then the others; a die-to-die bundle leaves service, its edge with the last one, and a slice
without a path to base die 0 puts the engine into the fault state; a message of an unknown TYPE counts in BAD_MESSAGE.
(Messages that flits carry come as commands of their own: the model's choice, notes/assumptions/37.md.) -/
def Obligations.LinksFail : Prop :=
  ∀ s : State, alive s.eng = true → getB .safeInject Fld.SAFE_INJECT_ARM s.eng = false →
    let sat (f : Field) (x : Nat) : Nat := min x (2 ^ f.width - 1)
    (∀ link bytes nack, link < 20 →
      (nack = false → flitOk bytes = true → answers (.flit link bytes nack) s s.eng) ∧
      (nack = false → flitOk bytes = false →
        ∃ u, answers (.flit link bytes nack) s u ∧
          (link < 16 → getF (.nlPortSts link) Fld.NL_PORT_STS_CRC_ERRORS u =
            sat Fld.NL_PORT_STS_CRC_ERRORS (getF (.nlPortSts link) Fld.NL_PORT_STS_CRC_ERRORS s.eng + 1)) ∧
          u = { s.eng with regs := u.regs, logs := u.logs, counters := u.counters, pinAlert := u.pinAlert, freeCtr := u.freeCtr } ∧
          regsKept [.nlPortSts link, .faultSts, .logSts 0, .logSts 1, .logSts 2, .logSts 3] s.eng u) ∧
      (nack = true → link < 16 →
        ∃ u, answers (.flit link bytes nack) s u ∧ onlyRegs [.nlPortSts link] s.eng u ∧
          getF (.nlPortSts link) Fld.NL_PORT_STS_LINK_RETRIES u =
            sat Fld.NL_PORT_STS_LINK_RETRIES (getF (.nlPortSts link) Fld.NL_PORT_STS_LINK_RETRIES s.eng + 1)) ∧
      (nack = true → 16 ≤ link →
        ∃ u, answers (.flit link bytes nack) s u ∧ onlyRegs [.d2dEdgeSts (link - 16)] s.eng u ∧
          getF (.d2dEdgeSts (link - 16)) Fld.D2D_EDGE_STS_LINK_RETRIES u =
            sat Fld.D2D_EDGE_STS_LINK_RETRIES (getF (.d2dEdgeSts (link - 16)) Fld.D2D_EDGE_STS_LINK_RETRIES s.eng + 1))) ∧
    (∀ p, p < 16 → getB (.nlPortSts p) Fld.NL_PORT_STS_UP s.eng = true →
      let uses (d : Nat) : Prop := d < podSize s.eng ∧ routeValid d s.eng = true ∧
        portsReach d (setF (.nlPortSts p) Fld.NL_PORT_STS_UP 0 s.eng) = false
      ((∀ d, ¬ uses d) →
        ∃ u, exec (.portLinkDown p) s = .next { s with eng := settle u } ∧
          getB (.nlPortSts p) Fld.NL_PORT_STS_UP u = false ∧ getF .faultSts Fld.FAULT_STS_LINK_DEGRADED u = 1 ∧
          u = { s.eng with regs := u.regs, logs := u.logs, counters := u.counters, pinAlert := u.pinAlert } ∧
          regsKept [.nlPortSts p, .faultSts, .logSts (p / 4)] s.eng u) ∧
      (∀ d, uses d → (∀ x, x < d → ¬ uses x) → d ≠ thisDev s.eng → memberIsLost d s.eng = false →
        (∀ a ∈ s.eng.net.awaits, a.2 ≠ d) →
        ∃ w, exec (.portLinkDown p) s = .next { s with eng := settle (forEach ((List.range (podSize s.eng)).drop (d + 1))
            (fun x e => if routeValid x e && !portsReach x e then loseMember x 3 e else e) (settle w)) } ∧
          getB (.nlPortSts p) Fld.NL_PORT_STS_UP w = false ∧ memberIsLost d w = true ∧
          getF .faultSts Fld.FAULT_STS_MEMBER_LOST w = 1 ∧ (∀ y ∈ w.net.waits, y.peer ≠ d) ∧ (∀ y ∈ w.net.unacked, y.msg.h.dstDev ≠ d))) ∧
    (∀ x, x < 4 →
      let up := getF (.d2dEdgeSts x) Fld.D2D_EDGE_STS_BUNDLES_UP s.eng
      let down := setBit .d2dPath Fld.D2D_PATH_EDGE_DOWN x true s.eng
      (1 < up → ∃ u, answers (.d2dBundleFail x) s u ∧ onlyRegs [.d2dEdgeSts x] s.eng u ∧
        getF (.d2dEdgeSts x) Fld.D2D_EDGE_STS_BUNDLES_UP u = up - 1) ∧
      (up = 1 → ∃ u, answers (.d2dBundleFail x) s u ∧ getF (.d2dEdgeSts x) Fld.D2D_EDGE_STS_BUNDLES_UP u = 0 ∧
        bitsOf (getF .d2dPath Fld.D2D_PATH_EDGE_DOWN u) x 1 = 1 ∧ getF .faultSts Fld.FAULT_STS_LINK_DEGRADED u = 1 ∧
        inFault u = (List.range 4).any (fun n => !(dieReached down).contains n && !slicePoweredOff n s.eng) ∧
        (inFault u = true → u.pinFault = .low ∧ u.pinAlive = .low) ∧ u.tasks = s.eng.tasks ∧
        (inFault u = false ∨ (∀ j ∈ s.eng.jobs, j.outs = []) → u.mem = s.eng.mem))) ∧
    (∀ src typ, ∃ u, answers (.badMessage src typ) s u ∧
      getF .nlE2eSts Fld.NL_E2E_STS_BAD_MESSAGE u = sat Fld.NL_E2E_STS_BAD_MESSAGE (getF .nlE2eSts Fld.NL_E2E_STS_BAD_MESSAGE s.eng + 1) ∧
      u = { s.eng with regs := u.regs, logs := u.logs, counters := u.counters, pinAlert := u.pinAlert } ∧
      regsKept [.nlE2eSts, .faultSts, .logSts 0] s.eng u)

/-- R377, R378, R410: a message unacknowledged within E2E_TIMEOUT leaves again, at most three times, then it is undelivered
and its destination is lost; a CONTROL request without an answer is repeated as it was, FAULT_NOTICE three times in all, and
for END_ACK, REJOIN_ACK and SHARD_MAP_ACK the receiver is lost after 4 × E2E_TIMEOUT. -/
def Obligations.ResendsAndRepeats : Prop :=
  ∀ s : State, alive s.eng = true →
    let lost (d : Nat) (w : Engine) : Prop := memberIsLost d w = true ∧ getF .faultSts Fld.FAULT_STS_MEMBER_LOST w = 1 ∧
      (∀ y ∈ w.net.waits, y.peer ≠ d) ∧ (∀ y ∈ w.net.unacked, y.msg.h.dstDev ≠ d)
    let timeout := max 1 (getF .nlE2eCfg Fld.NL_E2E_CFG_E2E_TIMEOUT s.eng)
    (∀ dev cls seq x, findUnacked dev cls seq s.eng = some x →
      (elapsedUs x.t0 timeout s.eng = false → answers (.e2eResendTimeout dev cls seq) s s.eng) ∧
      (elapsedUs x.t0 timeout s.eng = true → x.resends < 3 →
        ∃ u, answers (.e2eResendTimeout dev cls seq) s u ∧
          u.net.egress = s.eng.net.egress ++ [(portTo dev s.eng, x.msg)] ∧
          findUnacked dev cls seq u = some { x with resends := x.resends + 1, t0 := now s.eng } ∧
          u = { s.eng with regs := u.regs, counters := u.counters
                           net := { s.eng.net with egress := u.net.egress, unacked := u.net.unacked } } ∧
          regsKept [.nlE2eSts] s.eng u) ∧
      (elapsedUs x.t0 timeout s.eng = true → 3 ≤ x.resends → dev < 64 → dev ≠ thisDev s.eng → memberIsLost dev s.eng = false →
        (∀ a ∈ s.eng.net.awaits, a.2 ≠ dev) →
        ∃ w, exec (.e2eResendTimeout dev cls seq) s = .next { s with eng := settle (forEach
            (s.eng.net.unacked.filter (fun y => decide (y.msg.h.dstDev = dev))) undelivered (settle w)) } ∧ lost dev w ∧
          getF .nlE2eSts Fld.NL_E2E_STS_UNDELIVERED w =
            min (getF .nlE2eSts Fld.NL_E2E_STS_UNDELIVERED s.eng + 1) (2 ^ Fld.NL_E2E_STS_UNDELIVERED.width - 1))) ∧
    (∀ peer answer table item w,
      let hit (x : CtrlWait) : Bool := decide (x.peer = peer) && decide (x.answer = answer) && decide (x.table = table) && decide (x.item = item)
      s.eng.net.waits.find? hit = some w →
      elapsedUs w.tLast (max 1 (getF .nlE2eCfg Fld.NL_E2E_CFG_CTRL_REPEAT s.eng)) s.eng = true →
      let again : Prop := ∃ u, answers (.ctrlRepeatTimer peer answer table item) s u ∧
        u.net.egress = s.eng.net.egress ++ [(portTo peer s.eng, w.msg)] ∧
        u.net.waits.find? hit = some { w with tLast := now s.eng, sent := w.sent + 1 } ∧
        u = { s.eng with net := { s.eng.net with egress := u.net.egress, waits := u.net.waits } }
      (answer = 0 → w.sent < 2 → again) ∧
      (answer = 0 → 2 ≤ w.sent →
        answers (.ctrlRepeatTimer peer answer table item) s { s.eng with net := { s.eng.net with
          egress := s.eng.net.egress ++ [(portTo peer s.eng, w.msg)], waits := s.eng.net.waits.filter (fun x => !hit x) } }) ∧
      (answer ≠ 0 → mayRepeat w s.eng = true →
        ¬ (answer ∈ [0x06, 0x0B, 0x0D] ∧ elapsedUs w.t0 (4 * timeout) s.eng = true) → again) ∧
      (answer ∈ [0x06, 0x0B, 0x0D] → mayRepeat w s.eng = true → elapsedUs w.t0 (4 * timeout) s.eng = true →
        peer < 64 → peer ≠ thisDev s.eng → memberIsLost peer s.eng = false → (∀ a ∈ s.eng.net.awaits, a.2 ≠ peer) →
        ∃ v, exec (.ctrlRepeatTimer peer answer table item) s = .next { s with eng := settle (settle v) } ∧ lost peer v))

/-- R371, R372: the expansion die is admitted where its link is up and its capability is whole, with SIDEBITS and ORDERED and
enough of both numbers; else REFUSE says why. The loss of the link ends admission. Ejection waits until nothing is in flight.
Data of a read that an admitted die answers serve the read. -/
def Obligations.ExpansionDie : Prop :=
  ∀ s : State, alive s.eng = true →
    (∀ cap, writable .ucieCtl s.eng = true →
      let up := getB .ucieSts Fld.UCIE_STS_LINK_UP s.eng
      let v := ofBytes ((cap.getD []).take 32)
      ∃ u, answers (.ucieAdmit cap) s u ∧ u.mem = { s.eng.mem with expCap := cap } ∧
        (up = false → getF .ucieSts Fld.UCIE_STS_REFUSE u = 1) ∧
        (up = true → cap = none → getF .ucieSts Fld.UCIE_STS_REFUSE u = 2) ∧
        (up = true → (∃ b, cap = some b ∧ (b.length ≠ 32 ∨ bitsOf v 0 16 ≠ 0x5845 ∨ bitsOf v 16 8 ≠ 1)) →
          getF .ucieSts Fld.UCIE_STS_REFUSE u = 3) ∧
        ((∃ b, cap = some b ∧ up = true ∧ b.length = 32) → bitsOf v 0 16 = 0x5845 → bitsOf v 16 8 = 1 →
          bitsOf v 26 38 = 0 → bitsOf v 112 16 = 0 → bitsOf v 128 128 = 0 →
          (bitsOf v 24 1 = 0 ∨ bitsOf v 25 1 = 0 → getF .ucieSts Fld.UCIE_STS_REFUSE u = 4) ∧
          (bitsOf v 24 1 = 1 → bitsOf v 25 1 = 1 → bitsOf v 64 32 = 0 ∨ bitsOf v 96 16 < 64 →
            getF .ucieSts Fld.UCIE_STS_REFUSE u = 5) ∧
          (bitsOf v 24 1 = 1 → bitsOf v 25 1 = 1 → bitsOf v 64 32 ≠ 0 → 64 ≤ bitsOf v 96 16 →
            getF .ucieSts Fld.UCIE_STS_ADMITTED u = 1 ∧ getF .ucieCap Fld.UCIE_CAP_CAPACITY u = bitsOf v 64 32 ∧
            getF .ucieCap Fld.UCIE_CAP_MAX_OUTSTANDING u = bitsOf v 96 16)) ∧
        regsKept [.ucieSts, .ucieCap, .pwrSts] s.eng u ∧
        u = { s.eng with regs := u.regs, lostRegs := u.lostRegs, power := u.power, mem := u.mem }) ∧
    (writable .ucieCtl s.eng = true → ∃ u, exec .ucieEject s = .next { s with eng := settle u } ∧
      getF .ucieCtl Fld.UCIE_CTL_EJECT u = 1 ∧ onlyRegsWoken [.ucieCtl] s.eng u) ∧
    (∃ u, answers .ucieLinkDown s u ∧ getF .ucieSts Fld.UCIE_STS_LINK_UP u = 0 ∧ getF .ucieSts Fld.UCIE_STS_ADMITTED u = 0 ∧
      u = { s.eng with regs := u.regs, logs := u.logs, counters := u.counters, pinAlert := u.pinAlert } ∧
      regsKept [.ucieSts, .faultSts, .logSts 3] s.eng u) ∧
    (∀ id acc d w, dieAdmitted s.eng = true → s.eng.upd.waits.find? (fun x => decide (x.id = id)) = some w →
      stateSrc w.slot s.eng = 64 → exec (.sectorData id acc d) s = .next { s with eng := settle (stateRowArrival id acc d s.eng) } ∧
        exec (.stateRowArrival id acc d) s = exec (.sectorData id acc d) s) ∧
    (∀ id acc d q, dieAdmitted s.eng = true → (∀ w ∈ s.eng.upd.waits, w.id ≠ id) → q ∈ s.eng.rowReqs → q.id = id → q.wide = true →
      stateSrc q.slot s.eng = 64 → ∃ u, answers (.sectorData id acc d) s u ∧ answers (.sectorReadDone id acc d none) s u)

/-- R95, R375 to R379, R387, R402, R410: a message is dropped during a reset and by a device outside the pod, and in the
fault state unless it writes a register; one for another device leaves by the route table with HOPS counted, or is dropped at
seven hops or without a route; one that fails its CRC is asked for again, or discarded in the CONTROL class; a number already
delivered is acknowledged again, and one ahead of its turn is held; of the others, one whose table is of another generation
is rejected, and one that passes starts its operation, whose numbers are then acknowledged. -/
def Obligations.MessagesChecked : Prop :=
  ∀ (c : Instr) (m : Msg) (s : State), msgOf c = some m →
    let e := s.eng
    let w := touch e
    let k := (m.h.srcDev, bodyClass m.b)
    let q := tget 0 k e.net.seqIn
    let passed (c : Instr) : Prop := alive e = true → thisDev e < podSize e → m.h.dstDev ≠ thisDev e →
      (routeValid m.h.dstDev e = false → answers c s w) ∧
      (routeValid m.h.dstDev e = true → m.h.hops < 6 →
        answers c s { w with net := { e.net with egress := e.net.egress ++
          [(portTo m.h.dstDev e, { m with h := { m.h with hops := m.h.hops + 1 } })] } }) ∧
      (routeValid m.h.dstDev e = true → 6 ≤ m.h.hops →
        ∃ u, answers c s u ∧ u = { w with regs := u.regs } ∧ regsKept [.nlE2eSts, .pwrSts] e u ∧
          getF .nlE2eSts Fld.NL_E2E_STS_LOOP_DROPS u =
            min (getF .nlE2eSts Fld.NL_E2E_STS_LOOP_DROPS e + 1) (2 ^ Fld.NL_E2E_STS_LOOP_DROPS.width - 1))
    (e.inReset.isSome = true ∨ podSize e ≤ thisDev e → answers c s e) ∧
    (inFault e = true → (∀ off size v, m.b ≠ .regWrite off size v) → answers c s e) ∧
    passed c ∧ passed (.messageForward m) ∧
    (alive e = true → thisDev e < podSize e → m.h.dstDev = thisDev e → getB .safeInject Fld.SAFE_INJECT_ARM e = false →
      (m.h.crcOk = false → numbered m = false →
        ∃ u, answers c s u ∧ u = { w with regs := u.regs, logs := u.logs, counters := u.counters, freeCtr := u.freeCtr, pinAlert := u.pinAlert }) ∧
      (m.h.crcOk = false → numbered m = true → m.h.srcDev ≠ thisDev e → reachable m.h.srcDev e = true →
        ∃ u, answers c s u ∧ u.net.egress = e.net.egress ++
            [(portTo m.h.srcDev e, ⟨hdrTo m.h.srcDev 0 e, .e2eNack k.2 m.h.seq⟩)] ∧
          u = { w with net := { e.net with egress := u.net.egress }, regs := u.regs, logs := u.logs, counters := u.counters
                       freeCtr := u.freeCtr, pinAlert := u.pinAlert }) ∧
      (m.h.crcOk = true → numbered m = true → m.h.seq ≠ q →
        (seqAfter m.h.seq q = false → reachable m.h.srcDev e = true →
          answers c s { w with net := { e.net with egress := e.net.egress ++
            [(portTo m.h.srcDev e, ⟨hdrTo m.h.srcDev 0 e, .e2eAck k.2 ((q + 2 ^ 32 - 1) % 2 ^ 32)⟩)] } }) ∧
        (seqAfter m.h.seq q = true →
          (∀ x ∈ e.net.heldIn, ¬ (x.h.srcDev = k.1 ∧ bodyClass x.b = k.2 ∧ x.h.seq = m.h.seq)) →
          answers c s { w with net := { e.net with heldIn := e.net.heldIn ++ [m] } })) ∧
      (m.h.crcOk = true → (numbered m = true → m.h.seq = q) → tableChecked m.b = true → genOk m.h e = false →
        exec c s = .next { s with eng := msgEnded m (rejectMsg m 0 (msgTaken m e)) })) ∧
    (msgPasses m e = true → exec c s = .next { s with eng := msgEnded m (settle (actOn m (msgTaken m e))) })

/-- R204, R207, R212, R377, R378, R402: an E2E_ACK releases all it covers and an E2E_NACK has the message resent; a parent
keeps a child's GATE_UP once, with CONFIG for another digest, and answers it or a GATE_ASK with the decision where there is
one; a member takes the decision from GATE_DOWN and hands it on; END_ACK marks the run acknowledged, and a REPLAY starts the
run again above its key; a fault notice makes the sender lost; an ASK is answered once the item has been acted on. -/
def Obligations.GatesAndAcks : Prop :=
  ∀ (s : State) (h : Hdr),
    (∀ cls seq, msgActs (.e2eAck h cls seq) s fun t u =>
      (∀ x, x ∈ u.net.unacked ↔ x ∈ t.net.unacked ∧ ¬ (x.msg.h.dstDev = h.srcDev ∧ x.cls = cls ∧ seqAfter x.msg.h.seq seq = false)) ∧
      u = { t with net := { t.net with unacked := u.net.unacked } }) ∧
    (∀ cls seq x, findUnacked h.srcDev cls seq s.eng = some x → msgActs (.e2eNack h cls seq) s fun t u =>
      (x.resends < 3 → u.net.egress = t.net.egress ++ [(portTo h.srcDev t, x.msg)] ∧
        findUnacked h.srcDev cls seq u = some { x with resends := x.resends + 1, t0 := now t } ∧
        u = { t with regs := u.regs, counters := u.counters, net := { t.net with egress := u.net.egress, unacked := u.net.unacked } } ∧
        regsKept [.nlE2eSts] t u) ∧
      (3 ≤ x.resends → u = t)) ∧
    (∀ step fl dig, msgActs (.gateUp h step fl dig) s fun t u =>
      (∀ go f, decisionOf step t = some (go, f) → reachable h.srcDev t = true →
        u = { t with net := { t.net with egress := t.net.egress ++ [(portTo h.srcDev t, ⟨hdrTo h.srcDev 0 t, .gateDown step go f⟩)] } }) ∧
      (∀ c, decisionOf step t = none → t.grad.closing = some c → c.step = step → c.sentUp = false →
        (h.srcDev ∈ c.heard → u = t) ∧
        (h.srcDev ∉ c.heard → u = { t with grad := { t.grad with closing := some { c with
          heard := c.heard ++ [h.srcDev]
          upFlags := orFlags c.upFlags (orFlags fl (if dig = gateDigest t then 0 else 64)) } } }))) ∧
    (∀ step go fl, msgActs (.gateDown h step go fl) s fun t u =>
      (∀ c, t.grad.closing = some c → c.step = step → c.phase ≠ .chains → go = false ∨ c.sentUp = true → rootValid t = true →
        (∃ w, u = releaseArrivals step (if go then startChains w else w) ∧ w.grad.decided = ((step, go, fl) :: t.grad.decided).take 4 ∧
          (∀ d ∈ gateChildren t, reachable d t = true → (portTo d t, (⟨hdrTo d 0 t, .gateDown step go fl⟩ : Msg)) ∈ w.net.egress) ∧
          (go = false → w.grad.closing = none ∧ getF .stepSts Fld.STEP_STS_LAST_SKIPPED w = 1))) ∧
      (t.grad.closing = none → u = t)) ∧
    (∀ step, msgActs (.gateAsk h step) s fun t u =>
      (∀ go f, decisionOf step t = some (go, f) → reachable h.srcDev t = true →
        u = { t with net := { t.net with egress := t.net.egress ++ [(portTo h.srcDev t, ⟨hdrTo h.srcDev 0 t, .gateDown step go f⟩)] } }) ∧
      (decisionOf step t = none → u = t)) ∧
    (∀ step c, s.eng.grad.closing = some c → c.step = step → c.applied.length < 4 → msgActs (.endAck h step) s fun t u =>
      u.grad.closing = some { c with runs := c.runs.map (fun r => if r.home = h.srcDev ∧ r.slice = h.srcSlice then { r with acked := true } else r) } ∧
      (∀ w ∈ u.net.waits, ¬ (w.peer = h.srcDev ∧ w.answer = 0x06 ∧ w.table = h.srcSlice ∧ w.item = step)) ∧
      u = { t with grad := { t.grad with closing := u.grad.closing }, net := { t.net with waits := u.net.waits } }) ∧
    (∀ step table row one home slice chain fromStart c r, s.eng.grad.closing = some c → c.step = step → c.phase = .chains →
      findRun home slice s.eng = some r → (∀ x n, myLink c home s.eng = some (x, n) → n.1 = 0) →
      msgActs (.replay h step table row one home slice chain fromStart) s fun t u =>
        ∃ w, u = chainAdvance home slice (linkFuel home slice w) w ∧
          (let above := r.recs.filter (fun x => fromStart || (keyLe (table, row) (x.table, x.row) && decide ((x.table, x.row) ≠ (table, row))))
           findRun home slice w = some { r with left := if one then above.take 1 else above, sentEnd := false, sent := 0 }) ∧
          w = { t with grad := { t.grad with closing := w.grad.closing } }) ∧
    (∀ cause sl, h.srcDev < 64 → memberIsLost h.srcDev s.eng = false → h.srcDev ≠ thisDev s.eng →
      (∀ a ∈ s.eng.net.awaits, a.2 ≠ h.srcDev) →
      msgActs (.faultNotice h cause sl) s fun _ u =>
        ∃ w, u = settle w ∧ memberIsLost h.srcDev w = true ∧ getF .faultSts Fld.FAULT_STS_MEMBER_LOST w = 1 ∧
          (∀ y ∈ w.net.waits, y.peer ≠ h.srcDev) ∧ (∀ y ∈ w.net.unacked, y.msg.h.dstDev ≠ h.srcDev)) ∧
    (∀ typ table item, msgActs (.ask h typ table item) s fun t u =>
      (∀ v, typ = 0x10 → tfind (h.srcDev, table, item / 256) t.hot.acted = some v → verNewer (item % 256) v = false →
        reachable h.srcDev t = true →
        u = { t with net := { t.net with egress := t.net.egress ++ [(portTo h.srcDev t,
          ⟨{ hdrTo h.srcDev h.srcSlice t with tableId := table, ref := item }, .mcastAck table (item / 256) (item % 256)⟩)] } }) ∧
      (typ = 0x10 → tfind (h.srcDev, table, item / 256) t.hot.acted = none → u = t) ∧
      (∀ c, typ = 0x06 → t.grad.closing = some c → c.step = item → table ∈ c.applied → reachable h.srcDev t = true →
        u = { t with net := { t.net with egress := t.net.egress ++ [(portTo h.srcDev t,
          ⟨{ hdrTo h.srcDev table t with srcSlice := table }, .endAck item⟩)] } }))

/-- R258 to R270: what a DROP, a REJOIN, their answers and the multicasts do at the device that takes them. DROP makes the
replicas from that home INVALID, once, and is acknowledged; DROP_ACK and MCAST_ACK take the member off the multicasts that
wait for it; REJOIN adds the member again; REJOIN_ACK fetches every replica the drop made INVALID. A multicast row replaces
an older replica or a PENDING one, installs one where it says so, and is discarded otherwise; a VALID replica that disagrees
is fetched anew; all of them are acknowledged. A home answers a fetch by reading the row, and a holder from its VALID
replica. -/
def Obligations.HotRowMessages : Prop :=
  ∀ (s : State) (h : Hdr) (table : Nat), reachable h.srcDev s.eng = true →
    let back (t : Engine) (b : Body) : Msg := ⟨{ hdrTo h.srcDev 0 t with tableId := table }, b⟩
    let off (t w : Engine) (f : Mcast → List Nat) : Prop := w.hot.mcasts =
      (t.hot.mcasts.map (fun m => { m with members := f m })).filter (fun m => !m.members.isEmpty)
    msgActs (.drop h table) s (fun t u =>
      ((table, h.srcDev) ∈ t.hot.rejoin → u = oneMore (back t (.dropAck table)) t) ∧
      ((table, h.srcDev) ∉ t.hot.rejoin →
        u.hot = { t.hot with
          replicas := t.hot.replicas.map (fun r => if r.table = table ∧ (place table r.row t).device = h.srcDev
            then { r with st := .invalid, dropped := true } else r)
          rejoin := t.hot.rejoin ++ [(table, h.srcDev)] } ∧
        u.net = (oneMore (back t (.dropAck table)) t).net ∧
        u = { t with hot := u.hot, net := u.net, regs := u.regs, logs := u.logs, counters := u.counters, pinAlert := u.pinAlert })) ∧
    msgActs (.dropAck h table) s (fun t u =>
      (isDropped table h.srcDev t = true → ∃ w, u = settle w ∧
        off t w (fun m => if m.table = table then m.members.erase h.srcDev else m.members) ∧
        w.hot.dropped = t.hot.dropped.map (fun x => if x.table = table ∧ x.member = h.srcDev then { x with acked := true } else x)) ∧
      (isDropped table h.srcDev t = false → u = { t with net := { t.net with waits := u.net.waits } })) ∧
    msgActs (.rejoin h table) s (fun t u =>
      (isDropped table h.srcDev t = false → u = oneMore (back t (.rejoinAck table)) t) ∧
      (isDropped table h.srcDev t = true →
        ∃ w, u = sendMsg { hdrTo h.srcDev 0 (settle w) with tableId := table } (.rejoinAck table) (settle w) ∧
          off t w (fun m => if m.table = table then m.members.erase h.srcDev else m.members) ∧
          isDropped table h.srcDev w = false ∧
          getF .replSts Fld.REPL_STS_REJOINS w =
            min (getF .replSts Fld.REPL_STS_REJOINS t + 1) (2 ^ Fld.REPL_STS_REJOINS.width - 1))) ∧
    msgActs (.rejoinAck h table) s (fun t u =>
      (∀ row r, findReplica table row t = some r → r.dropped = true → r.st = .invalid → (place table row t).device = h.srcDev →
        (findReplica table row u).map (·.st) = some .pending) ∧
      (∀ w ∈ u.net.waits, ¬ (w.peer = h.srcDev ∧ w.answer = 0x0B ∧ w.table = table ∧ w.item = 0)) ∧
      ((∀ w ∈ t.net.waits, w.answer = 0x0B → w.table = table → w.peer = h.srcDev ∧ w.item = 0) → ∀ d, (table, d) ∉ u.hot.rejoin) ∧
      u = { t with hot := { t.hot with replicas := u.hot.replicas, rejoin := u.hot.rejoin }, net := u.net }) ∧
    (∀ row ver, msgActs (.mcastAck h table row ver) s (fun t u =>
      let hit (m : Mcast) : Bool := decide (m.table = table) && decide (m.row = row) && decide (m.ver = ver % 256) && m.members.contains h.srcDev
      (∀ k, t.hot.mcasts.findIdx? hit = some k → ∃ w, u = settle w ∧ w.hot.mcasts =
        (t.hot.mcasts.zipIdx.map (fun x => if x.2 = k then { x.1 with members := x.1.members.erase h.srcDev } else x.1)).filter
          (fun m => !m.members.isEmpty)) ∧
      (t.hot.mcasts.findIdx? hit = none → u = { t with net := { t.net with waits := u.net.waits } }))) ∧
    (∀ row kind v, msgActs (.mcastRow h table row kind v) s (fun t u =>
      let acks (w : Engine) : Prop := u = oneMore
        ⟨{ hdrTo h.srcDev h.srcSlice t with tableId := table, ref := mcastItem row h.ref }, .mcastAck table row (h.ref % 256)⟩
        { w with hot := { w.hot with acted := tput (h.srcDev, table, row) (h.ref % 256) w.hot.acted } }
      let valid (r : Replica) : Prop := ∃ w, acks w ∧
        findReplica table row w = some { r with st := .valid, val := v, tries := 0, dropped := false } ∧
        w = { t with hot := { t.hot with replicas := w.hot.replicas } }
      (findReplica table row t = none → kind ≠ 1 → acks t) ∧
      (∀ y, findReplica table row t = none → kind = 1 → truffleWay (place table row t).slice table row t = some y →
        ∃ w r, acks w ∧ findReplica table row w = some r ∧ r.st = .valid ∧ r.val = v ∧ r.way = y ∧
          w = { t with hot := { t.hot with replicas := t.hot.replicas ++ [r] }, regs := w.regs } ∧
          regsKept [.slcReplSts (place table row t).slice] t w) ∧
      (∀ r, findReplica table row t = some r →
        (r.st = .invalid → acks t) ∧ (r.st = .pending → valid r) ∧
        (r.st = .valid → verNewer v.ver r.val.ver = true → valid r) ∧
        (r.st = .valid → verNewer v.ver r.val.ver = false → v.ver % 256 ≠ r.val.ver % 256 → acks t) ∧
        (r.st = .valid → v.ver % 256 = r.val.ver % 256 → r.val.data = v.data → r.val.ls = v.ls → r.val.side = v.side → acks t) ∧
        (r.st = .valid → v.ver % 256 = r.val.ver % 256 → r.val.data ≠ v.data →
          ∃ w, acks w ∧ findReplica table row w = some { r with st := .pending, tries := 0, t0 := now t })))) ∧
    (∀ row all, msgActs (.mcastRemove h table row all) s (fun t u =>
      findReplica table row u = none ∧ (all = true → ∀ r ∈ u.hot.replicas, r.table ≠ table) ∧
      (∀ r ∈ t.hot.replicas, r.table ≠ table → r ∈ u.hot.replicas) ∧
      u.net = (oneMore ⟨{ hdrTo h.srcDev h.srcSlice t with tableId := table, ref := mcastItem row h.ref },
        .mcastAck table row (h.ref % 256)⟩ t).net ∧
      u = { t with regs := u.regs, hot := { t.hot with replicas := u.hot.replicas, acted := u.hot.acted }, net := u.net } ∧
      regsKept [.slcReplSts 0, .slcReplSts 1, .slcReplSts 2, .slcReplSts 3] t u)) ∧
    (∀ row, msgActs (.replicaFetch h table row) s (fun t u =>
      (h.arg = 0 → uncached table row t = true → requested (.reply h.srcDev h.srcSlice h.ref 0 true) table row t u) ∧
      (h.arg = 1 → uncached table row t = true → ∃ w, requested (.reply h.srcDev h.srcSlice h.ref 0 true) table row w u ∧
        onlyRegs [.replSts] t w ∧
        getF .replSts Fld.REPL_STS_DISAGREE w = min (getF .replSts Fld.REPL_STS_DISAGREE t + 1) (2 ^ Fld.REPL_STS_DISAGREE.width - 1)) ∧
      (∀ r, h.arg = 2 → findReplica table row t = some r → r.st = .valid →
        sentTo h.srcDev { tableHdr h.srcDev h.srcSlice table (place table row t) t with ref := h.ref, arg := 2 }
          (.row 0 row (some r.val) {}) t u ∧ u = { t with net := u.net }))) ∧
    (∀ row act, msgActs (.replicaAction h table row act) s (fun t u =>
      (act = 1 → mcastTo h.tableId t = [] →
        sentTo h.srcDev { hdrTo h.srcDev h.srcSlice t with ref := h.ref } (.writeDone h.arg {}) t u ∧ u = { t with net := u.net }) ∧
      (act = 1 → mcastTo h.tableId t ≠ [] →
        (∀ d ∈ mcastTo h.tableId t, ∃ hd, sentTo d hd (.mcastRemove h.tableId row false) t u) ∧
        (∃ m, u.hot.mcasts = t.hot.mcasts ++ [m] ∧ m.table = h.tableId ∧ m.row = row ∧ m.members = mcastTo h.tableId t ∧
          m.acts = [.done h.srcDev h.srcSlice h.ref h.arg {}])) ∧
      (act ≠ 1 → uncached h.tableId row t = true →
        requested (.action act [.done h.srcDev h.srcSlice h.ref h.arg {}]) h.tableId row t u)))

/-- R384: a device that is not the master asks its time parent every INTERVAL; the parent answers with its timestamps and its
error bound, 0 for the master and 255 while not SYNCED. The first answer after reset steps the time by the offset, a later
one slews it; ERR is the parent's plus the offset's size plus 2, at most 255. Three answers in a row with ERR at most 20 set
SYNCED; a larger ERR, or three intervals without an answer, clear it, count in RESYNCS and raise TIME_UNSYNCED. (How the half
of an odd difference is rounded is the model's choice, notes/assumptions/33.md.) -/
def Obligations.TimeExchange : Prop :=
  ∀ s : State,
    let unsynced (t u : Engine) : Prop := getF .nlTimeSts Fld.NL_TIME_STS_SYNCED u = 0 ∧
      getF .nlTimeSts Fld.NL_TIME_STS_RESYNCS u = min (getF .nlTimeSts Fld.NL_TIME_STS_RESYNCS t + 1) (2 ^ 16 - 1) ∧
      getF .faultSts Fld.FAULT_STS_TIME_UNSYNCED u = 1 ∧ u.net.good = 0
    (let p := getF .nlTimeCfg Fld.NL_TIME_CFG_PARENT_PORT s.eng
     let d := getF (.nlPortSts p) Fld.NL_PORT_STS_PEER_DEV s.eng
     alive s.eng = true → getB .nlTimeCfg Fld.NL_TIME_CFG_MASTER s.eng = false → getB (.nlPortSts p) Fld.NL_PORT_STS_UP s.eng = true →
      (s.eng.net.t1 = none ∨ elapsedUs s.eng.net.tSent (timeInterval s.eng) s.eng = true →
        answers .timeExchangeTimer s { s.eng with net := { s.eng.net with
          egress := s.eng.net.egress ++ [(p, ⟨hdrTo d 0 s.eng, .timeSync (localNs s.eng)⟩)]
          t1 := some (localNs s.eng), tSent := now s.eng } }) ∧
      (getB .nlTimeSts Fld.NL_TIME_STS_SYNCED s.eng = true →
        elapsedUs s.eng.net.tReply (3 * timeInterval s.eng) s.eng = true →
        ∃ u, answers .timeReplyLoss s u ∧ unsynced s.eng u ∧
          u = { s.eng with regs := u.regs, net := { s.eng.net with good := 0 }, logs := u.logs, counters := u.counters, pinAlert := u.pinAlert })) ∧
    (∀ h t1, msgActs (.timeSync h t1) s fun t u =>
      let master := getB .nlTimeCfg Fld.NL_TIME_CFG_MASTER t
      let err := if master then 0 else if getB .nlTimeSts Fld.NL_TIME_STS_SYNCED t then getF .nlTimeSts Fld.NL_TIME_STS_ERR t else 255
      u = { t with net := { t.net with egress := t.net.egress ++
        [(timePort h.srcDev t, ⟨{ hdrTo h.srcDev 0 t with arg := err }, .timeReply (localNs t) (localNs t) err⟩)] } }) ∧
    (∀ h t2 t3 err t1, s.eng.net.t1 = some t1 → msgActs (.timeReply h t2 t3 err) s fun t u =>
      let off : Int := ((Int.ofNat t2 - Int.ofNat t1) - (Int.ofNat (localNs t) - Int.ofNat t3)).tdiv 2
      let bound := min 255 (err + off.natAbs + 2)
      u.net.t1 = none ∧ getF .nlTimeSts Fld.NL_TIME_STS_ERR u = bound ∧
      getF .nlTimeSts Fld.NL_TIME_STS_OFFSET u = sat16 off ∧
      (t.net.stepped = false → u.net.stepped = true ∧
        (let x := (Int.ofNat (localThirds t) + 3 * off).toNat
         getReg .time u = BitVec.ofNat 64 (x / 32) ∧ u.net.frac = x % 32)) ∧
      (t.net.stepped = true → getReg .time u = getReg .time t ∧ u.net.slew = 3 * off) ∧
      (bound ≤ 20 → t.net.good < 2 → u.net.good = t.net.good + 1 ∧
        getF .nlTimeSts Fld.NL_TIME_STS_SYNCED u = getF .nlTimeSts Fld.NL_TIME_STS_SYNCED t) ∧
      (bound ≤ 20 → 2 ≤ t.net.good → u.net.good = 3 ∧ getF .nlTimeSts Fld.NL_TIME_STS_SYNCED u = 1) ∧
      (20 < bound → getB .nlTimeSts Fld.NL_TIME_STS_SYNCED t = true → unsynced t u) ∧
      (20 < bound → getB .nlTimeSts Fld.NL_TIME_STS_SYNCED t = false → u.net.good = 0 ∧ getF .nlTimeSts Fld.NL_TIME_STS_SYNCED u = 0) ∧
      u.mem = t.mem ∧ u.tasks = t.tasks ∧ u.net.egress = t.net.egress)

/-- R88, R239 to R242, R274: the state device reads a state row and answers with its bytes where every sector passes its
check at one version, and with none otherwise; it writes a state row in one write, and acknowledges it. State that arrives
lets what waits for it go on; the acknowledgement of a write-back ends it. A broadcast shard-map entry is installed with the
members the old home had dropped, and acknowledged also when it is known; the old home counts the acknowledgements. A copied
row is written at the new home unless a newer copy stands there, and confirmed. -/
def Obligations.StateAndShardMessages : Prop :=
  ∀ (s : State) (h : Hdr), reachable h.srcDev s.eng = true →
    let slot := h.tableId
    (∀ table row low, msgActs (.stateRead h table row low) s fun t u =>
      let p := place slot row t
      let hs := (List.range (stateRowStride (imgOf slot t) / 32)).map (fun k => seeHalf p.slice (thisDev t) (stateAddr slot p t + 32 * k) t)
      let ok := hs.all (fun x => x.ok && decide (x.ver = (hs.map (·.ver)).headD 0))
      let hd : Hdr := { tableHdr h.srcDev h.srcSlice slot p t with ref := h.ref }
      (ok = true → sentTo h.srcDev hd (.stateData slot row (some ((hs.map (·.bytes)).flatten))) t u ∧ u = { t with net := u.net }) ∧
      (ok = false → sentTo h.srcDev hd (.stateData slot row none) t u ∧
        u = { t with net := u.net, regs := u.regs, logs := u.logs, counters := u.counters, freeCtr := u.freeCtr, pinAlert := u.pinAlert })) ∧
    (∀ table row bytes, s.eng.mem.wf = true → msgActs (.stateWrite h table row bytes) s fun t u =>
      let p := place slot row t
      let bs := padTo (stateRowStride (imgOf slot t)) bytes
      memRead (stateAddr slot p t) bs.length u.mem.hbm = bs ∧
      (∀ a, a < stateAddr slot p t ∨ stateAddr slot p t + bs.length ≤ a → memGet a u.mem.hbm = memGet a t.mem.hbm) ∧
      u.mem = { t.mem with hbm := u.mem.hbm, hbmSide := u.mem.hbmSide } ∧
      sentTo h.srcDev { tableHdr h.srcDev h.srcSlice slot p t with ref := h.ref } (.stateWriteAck slot row) t u ∧
      u = { t with mem := u.mem, net := u.net }) ∧
    (∀ table row bytes, msgActs (.stateData h table row bytes) s fun t u =>
      (stateAsked slot row t = false → u = t) ∧
      (∀ bs w a parked, bytes = some bs → t.upd.waits.filter (fun x => decide (x.slot = slot) && decide (x.row = row)) = [w] →
        w.use = .arrival a parked →
        let n := (place slot row t).slice
        ∃ v, u = applyArrival a (if stateLine n slot row v then (seeState n slot row v).1 else bs) (if parked then 32 else 0) v ∧
          v.upd.waits = t.upd.waits.filter (fun x => !(decide (x.slot = slot) && decide (x.row = row))) ∧
          v = { t with upd := v.upd, cache := v.cache, net := v.net, nextId := v.nextId, regs := v.regs })) ∧
    (∀ table row, msgActs (.stateWriteAck h table row) s fun t u =>
      let hit (w : RowW) : Bool := w.evict && w.parts.isEmpty && decide (w.slot = slot) && decide (w.row = row)
      (t.cache.writes.find? hit = none → u = t) ∧
      (∀ w, t.cache.writes.find? hit = some w →
        u.cache = { t.cache with writes := t.cache.writes.filter (fun x => decide (x.id ≠ w.id))
                                 crumb := t.cache.crumb.map (fun c => if c.wb = some w.id then { c with wb := none } else c) } ∧
        u = { t with cache := u.cache, regs := u.regs })) ∧
    (∀ table shard x dropped, msgActs (.shardMap h table shard x dropped) s fun t u =>
      let i := imgOf table t
      let known := (slotOf table t).loaded && !cComposed i && decide (shard < cShards i)
      let ack : Msg := ⟨{ hdrTo h.srcDev 0 t with tableId := table }, .shardMapAck table shard (seEpoch x)⟩
      (known = false ∨ shardEntry (cShardFirst i + shard) t = x → u = oneMore ack t) ∧
      (known = true → shardEntry (cShardFirst i + shard) t ≠ x →
        ∃ w, u = oneMore ack w ∧ shardEntry (cShardFirst i + shard) w = x ∧
          (∀ k, k ≠ cShardFirst i + shard → shardEntry k w = shardEntry k t) ∧
          (∀ d ∈ dropped, isDropped table d w = true) ∧ (∀ y ∈ t.hot.dropped, y ∈ w.hot.dropped) ∧
          w = { t with shards := w.shards, hot := { t.hot with dropped := w.hot.dropped, copied := w.hot.copied } })) ∧
    (∀ table shard epoch, msgActs (.shardMapAck h table shard epoch) s fun t u =>
      u.hot = { t.hot with migs := t.hot.migs.map (fun m =>
        if m.slot = table ∧ m.shard = shard ∧ m.mapWait.contains h.srcDev then
          { m with mapWait := m.mapWait.erase h.srcDev, tAck := now t } else m) } ∧
      (∀ w ∈ u.net.waits, ¬ (w.peer = h.srcDev ∧ w.answer = 0x0D ∧ w.table = table ∧ w.item = shard * 256 + epoch)) ∧
      u = { t with hot := u.hot, net := { t.net with waits := u.net.waits } }) ∧
    (∀ item row base v st, msgActs (.migrateCopy h item row base v st) s fun t u =>
      (∀ old, tfind (slot, row) t.hot.copied = some old → verNewer v.ver old = false →
        sentTo h.srcDev { hdrTo h.srcDev h.srcSlice t with ref := h.ref } (.writeDone item {}) t u ∧ u = { t with net := u.net }) ∧
      ((∀ old, tfind (slot, row) t.hot.copied = some old → verNewer v.ver old = true) →
        (∃ w ∈ u.cache.writes, w.slot = slot ∧ w.row = row ∧ w.ver = v.ver ∧ w.acts = [.done h.srcDev h.srcSlice h.ref item {}]) ∧
        tfind (slot, row) u.hot.copied = some (v.ver % 256) ∧ (∀ k, shardEntry k u = shardEntry k t)))

/-- R144 to R147, R172, R210, R212, R252, R281: a new sub-list opens a home run with its rows and weights, held until its
tile group is free, and a further message adds to the run; a row request is accepted by the tracker; a hint asks for the
state of a row that is not here. Writes of rows, tokens and imported rows become writes in flight, of the row's next version,
that will answer; where the row's state is on another device they wait for it. A chain row whose key comes after those before
it joins its input, and an END closes it; the merge then goes on. -/
def Obligations.RowMessages : Prop :=
  ∀ (s : State) (h : Hdr),
    let slot := h.tableId
    let writes (acts : List VisAct) (row ver : Nat) (u : Engine) : Prop :=
      ∃ w ∈ u.cache.writes, w.slot = slot ∧ w.row = row ∧ w.ver = ver ∧ w.acts = acts ∧ w.evict = false
    let accepted (src : WriteSrc) (item row : Nat) (t u : Engine) : Prop :=
      let acts : List VisAct := [.done h.srcDev h.srcSlice h.ref item {}]
      (cTier (imgOf slot t) = 0 ∨ stateHere (place slot row t).slice slot row t = true →
        (∀ w ∈ t.upd.waits, ¬ (w.slot = slot ∧ w.row = row)) → openMcasts slot row t < 64 → (keptOf slot row t).recomp = false →
        writes acts row (nextVersion slot (keptOf slot row t).ver t) u) ∧
      (cTier (imgOf slot t) ≠ 0 → stateHere (place slot row t).slice slot row t = false →
        ∃ w, w.slot = slot ∧ w.row = row ∧ w.use = .write src acts ∧ w.id = t.nextId ∧
          u = { t with nextId := t.nextId + 1, upd := { t.upd with waits := t.upd.waits ++ [w] }, net := u.net })
    (∀ bag pos tile fl rows ws, msgActs (.subList h bag pos tile fl rows ws) s fun t u =>
      let new := (rows.zipIdx).map (fun q => (q.1.1, q.1.2, if fl.weighted then ws.getD q.2 f32One else f32One))
      let mine (x : HomeRun) : Bool := decide (x.dev = h.srcDev) && decide (x.ref = h.ref) && decide (x.bag = bag) &&
        decide (x.slot = slot) && decide (x.home = h.dstSlice) && decide (x.part = fl.part) && !x.last
      h.srcDev ≠ thisDev t → (∀ x ∈ rows, movedRow slot x.1 t = false) → fl.prefetch = false →
      (t.homeRuns.find? mine = none →
        ∃ r : HomeRun, u = startAllHeld { t with nextId := t.nextId + 1, homeRuns := t.homeRuns ++ [r] } ∧ r.held = true ∧
          r.rows = new ∧ r.last = fl.last ∧ r.at_ = (poolSlice h.dstSlice t, pos, tile) ∧ r.dev = h.srcDev ∧ r.ref = h.ref ∧
          r.bag = bag ∧ r.slotB = fl.subB ∧ r.id = t.nextId) ∧
      (∀ x, t.homeRuns.find? mine = some x → x.held = true →
        u = { t with homeRuns := t.homeRuns.map (fun y => if y.id = x.id
          then { y with rows := y.rows ++ new, last := fl.last, extra := y.extra + fl.extra } else y) })) ∧
    (∀ bag row, msgActs (.rowReq h bag { row }) s fun t u =>
      uncached slot row t = true → requested (.reply h.srcDev h.srcSlice h.ref bag false) slot row t u) ∧
    (∀ table row, msgActs (.prefetchHint h table [row]) s fun t u =>
      (cRule (imgOf table t) = 0 → u = t) ∧ (stateAsked table row t = true → u = t) ∧
      (cRule (imgOf table t) ≠ 0 → (seeState (place table row t).slice table row t).2 = false → stateAsked table row t = false →
        stateSrc table t ≠ 65 →
        ∃ w, w.slot = table ∧ w.row = row ∧ w.use = .prefetch ∧ w.id = t.nextId ∧
          u = { t with nextId := t.nextId + 1, upd := { t.upd with waits := t.upd.waits ++ [w] }, net := u.net })) ∧
    (∀ item row v mz, msgActs (.rowWriteReq h item row v mz) s (accepted (.record v (decide (mz = 1))) item row)) ∧
    (∀ item row bytes contents, msgActs (.importRow h item row bytes contents) s (accepted (.state bytes contents) item row)) ∧
    (∀ item row data rec, msgActs (.token h item row data rec) s fun t u =>
      writes [.done h.srcDev h.srcSlice h.ref item {}] row
        (((seeHalf (place slot row t).slice (thisDev t) (rowAddr slot (place slot row t) t) t).ver + 1) % 256) u ∧
      u = { t with cache := u.cache, net := u.net, nextId := u.nextId, regs := u.regs }) ∧
    (∀ step table row count home slice chain pairs c i, s.eng.grad.closing = some c → c.step = step → chain ≠ 255 →
      (insOf home slice c).find? (fun x => decide (x.chain = chain)) = some i →
      msgActs (.chainRow h step table row count home slice chain pairs) s fun t u =>
        let before := (((i.queue.getLast?).map (fun r => (r.table, r.row))).or i.lastKey).all (fun k => keyLe k (slot, row) && decide (k ≠ (slot, row)))
        (before = true → ∃ w, u = (if home = thisDev t then feedAll w else chainAdvance home slice (linkFuel home slice w) w) ∧
          (w.grad.closing.bind (fun c => (insOf home slice c).find? (fun x => decide (x.chain = chain)))) =
            some { i with queue := i.queue ++ [⟨slot, row, count, pairs⟩], rows := i.rows + 1, lastKey := some (slot, row), t0 := now t } ∧
          w = { t with grad := { t.grad with closing := w.grad.closing }, net := { t.net with waits := w.net.waits } }) ∧
        (before = false → home ≠ thisDev t →
          u = { t with grad := { t.grad with closing := some { c with progress := now t } } })) ∧
    (∀ step home slice chain n c i, s.eng.grad.closing = some c → c.step = step →
      (insOf home slice c).find? (fun x => decide (x.chain = chain)) = some i → home ≠ thisDev s.eng ∨ n ≤ i.rows →
      msgActs (.chainEnd h step home slice chain n) s fun t u =>
        ∃ w, u = (if home = thisDev t then feedAll w else chainAdvance home slice (linkFuel home slice w) w) ∧
          (w.grad.closing.bind (fun c => (insOf home slice c).find? (fun x => decide (x.chain = chain)))) =
            some { i with ended := true, t0 := now t } ∧
          w = { t with grad := { t.grad with closing := w.grad.closing }, net := { t.net with waits := w.net.waits } })

/-- R95, R145, R260, R281, R377: an answer names the task it answers, and ends one of its waits. A partial is merged into the
bag's tiles and its checker lane and no longer awaited; a lost one, and a row that is lost, end the task with DATA_LOST; a
rejection ends it with BAD_TABLE and DETAIL 0x11, or ADDRESS_FAULT and DETAIL 0xC0 where the slice has no power. The rows of
a gather go to vd; a row for a PENDING replica makes it VALID; a confirmed write makes one output of its item visible. -/
def Obligations.AnswersEndWaits : Prop :=
  ∀ (s : State) (h : Hdr),
    let r := refOf h.ref
    (∀ bag lanes chk ci bits part extra j x pr, findJob r s.eng = some j → findBag r bag s.eng = some x → j.pool = some pr →
      j.fault = none → (part = true ∨ (h.srcDev, h.srcSlice, h.tableId) ∈ x.partials) →
      msgActs (.partialIn h bag lanes chk ci bits part extra) s fun t u =>
        (bits.lost = true → u = failTask r 0x40 0x11 (endAwait h t)) ∧
        (∀ p, bits = {} → part = false → extra = 0 → pr.cfg.accInt = false → x.parts = [p] →
          (∀ k, k < runTiles pr.cfg → (tileOf (poolAt j t, p.pos, p.tile + k) t).lanes.length = 64) → lanes.length = 64 * runTiles pr.cfg →
          findBag r bag u = some { x with
            parts := [{ p with chk := (laneMerge p.chk chk).1 }], chkInt := x.chkInt + ci
            partials := x.partials.erase (h.srcDev, h.srcSlice, h.tableId) } ∧
          (∀ k l a b, k < runTiles pr.cfg → l < 64 → (tileOf (poolAt j t, p.pos, p.tile + k) t).lanes[l]? = some a →
            lanes[64 * k + l]? = some b →
            (tileOf (poolAt j t, p.pos, p.tile + k) u).lanes[l]? = some (laneMerge a b).1) ∧
          u = { t with jobs := u.jobs, tiles := u.tiles, net := { t.net with awaits := u.net.awaits } })) ∧
    (∀ bag row val bits, msgActs (.rowIn h bag row val bits) s fun t u =>
      (∀ v p, h.arg = 1 → val = some v → findReplica h.tableId row t = some p → p.st = .pending →
        findReplica h.tableId row u = some { p with st := .valid, val := v, tries := 0, dropped := false } ∧
        u = { t with hot := { t.hot with replicas := u.hot.replicas } }) ∧
      (∀ j, h.arg = 0 → findJob r t = some j → j.fault = none → val = none → u = failTask r 0x40 0x10 (endAwait h t)) ∧
      (∀ id x k v, h.arg = 0 → r = .near id → findJob r t = none → findNear id t = some x → findTask r t = some k →
        k.phase = .running → x.pend = [(bag / 2, bag % 2)] → val = some v → bag % 2 = 0 → tfind (bag / 2, 1) x.got = none →
        tfind (id, bag / 2 * cWidth (imgOf (dTable k.desc) t)) u.near.vd = some (rowValues (imgOf h.tableId t) v.chans v) ∧
        (findNear id u).map (·.pend) = some [])) ∧
    (∀ reason, msgActs (.reject h reason) s fun t u =>
      (h.arg = 0x22 ∨ h.arg = 0x32 ∨ h.arg = 0x33 → u = endAwait h t) ∧
      (h.arg ∈ [0x30, 0x31, 0x34, 0x35, 0x54, 0x55] →
        u = (if reason = 1 then failTask r 0x30 0xC0 else failTask r 0x21 0x11) (endAwait h t))) ∧
    (∀ item bits j, findJob r s.eng = some j → msgActs (.writeDone h item bits) s fun t u =>
      (bits.lost = true → u = failTask r 0x40 0x10 (endAwait h t)) ∧
      (bits = {} → j.opcode ≠ 0x12 → ∃ w, u = settleDone r w ∧
        (∀ k, tfind item j.open_ = some k → 1 < k → (findJob r w).map (·.open_) = some (tput item (k - 1) j.open_)) ∧
        (∀ k, tfind item j.open_ = some k → k ≤ 1 → (findJob r w).map (·.open_) = some (tdel item j.open_)) ∧
        w = { t with jobs := w.jobs, net := { t.net with awaits := w.net.awaits } })) ∧
    (∀ x, (endAwait h x).net.awaits.length = x.net.awaits.length - (if x.net.awaits.any (fun a => decide (a.1 = h.ref)) then 1 else 0) ∧
      endAwait h x = { x with net := { x.net with awaits := (endAwait h x).net.awaits } })

/-- R57, R59, R61, R385, R386: the host's accesses through the head, and the HOST messages. An access to slot 0 of the BAR is
the head's own; one to a later slot is relayed, once start-up has passed step 2, as REG_WRITE or REG_READ, and an unanswered
read returns all ones after 50 µs. The path window leaves over the first port of its path; where no port is left it is this
package's own. REG_DATA ends the read, and a register message does what the host's access does, in the fault state too.
Doorbell lines that arrive are held, their changed slots new producer indices. The head reads and writes host memory and
sends interrupts for the others; data that come back are in the device's own view (the model's choice,
notes/assumptions/4.md). -/
def Obligations.HostThroughHead : Prop :=
  ∀ s : State,
    let e := s.eng
    let stored (off size : Nat) (v : Word) (t u : Engine) : Prop := ∀ r lo, regAccess off size = some (r, lo) →
      plainReg r = true → r ≠ .pwrCtl → writable r t = true → writeBreaks r t = false →
      (∀ i, lo ≤ i → i < lo + 8 * size → r.spec.rw.getLsbD i = true → r.spec.w1c.getLsbD i = false →
        (getReg r u).getLsbD i = v.getLsbD (i - lo)) ∧
      u = { t with regs := u.regs, power := u.power, lostRegs := u.lostRegs } ∧ regsKept [r, .pwrSts] t u
    (∀ slot off size wr tag ok, thisDev e = 0 →
      (∀ v, slot = 0 → wr = some v → ∃ u, answers (.barAccess slot off size wr tag ok) s u ∧ stored off size v e u) ∧
      (slot = 0 → wr = none → ∃ u, answers (.barAccess slot off size wr tag ok) s u ∧ u.busData = (regRead off size e).1 ∧
        u = { e with busData := u.busData, timeShadow := u.timeShadow }) ∧
      (64 < slot → answers (.barAccess slot off size wr tag ok) s (if wr = none then { e with busData := 0 } else e)) ∧
      (0 < slot → slot < 64 → relayOpen e = false →
        answers (.barAccess slot off size wr tag ok) s (if wr = none then { e with busData := BitVec.allOnes 64 } else e)) ∧
      (∀ v, 0 < slot → slot < 64 → relayOpen e = true → inFault e = false → wr = some v →
        (reachable slot e = true → ∃ u, answers (.barAccess slot off size wr tag ok) s u ∧
          sentTo slot (hdrTo slot 0 e) (.regWrite off size v) e u ∧ u = { touch e with net := u.net }) ∧
        (reachable slot e = false → ∃ u, answers (.barAccess slot off size wr tag ok) s u ∧
          getF .sts Fld.STS_RELAY_TIMEOUT u = 1 ∧
          getF .sts Fld.STS_RELAY_TIMEOUTS u = min (getF .sts Fld.STS_RELAY_TIMEOUTS e + 1) (2 ^ Fld.STS_RELAY_TIMEOUTS.width - 1) ∧
          u = { e with regs := u.regs, logs := u.logs, counters := u.counters, pinAlert := u.pinAlert })) ∧
      (0 < slot → slot < 64 → relayOpen e = true → inFault e = false → wr = none → reachable slot e = true →
        ∃ u, answers (.barAccess slot off size wr tag ok) s u ∧ sentTo slot (hdrTo slot 0 e) (.regRead off size tag) e u ∧
          u.net.relays = e.net.relays ++ [{ tag, slot, t0 := now e }] ∧ u = { touch e with net := u.net })) ∧
    (∀ tag r, e.net.relays.find? (fun x => decide (x.tag = tag)) = some r → e.inReset = none → elapsedUs r.t0 50 e = true →
      ∃ u, answers (.relayReadTimeout tag) s u ∧ u.busData = BitVec.allOnes 64 ∧ (∀ x ∈ u.net.relays, x.tag ≠ tag) ∧
        getF .sts Fld.STS_RELAY_TIMEOUT u = 1 ∧
        u = { e with regs := u.regs, logs := u.logs, counters := u.counters, pinAlert := u.pinAlert, busData := u.busData
                     net := { e.net with relays := u.net.relays } }) ∧
    (∀ p ps port off size v tag ok, alive e = true →
      answers (.pathWindowAccess (some (p :: ps)) port off size (some v) tag ok) s { touch e with net := { e.net with
        egress := e.net.egress ++ [(p, ⟨{ hdrTo 0 0 e with arg := packPorts ps }, .regWrite off size v⟩)] } } ∧
      (hostPorts e = p :: ps → answers (.pathWindowAccess none port off size none tag ok) s { touch e with net := { e.net with
        egress := e.net.egress ++ [(p, ⟨{ hdrTo 0 0 e with arg := packPorts ps }, .regRead off size tag⟩)]
        relays := e.net.relays ++ [{ tag, slot := 64, t0 := now e }] } }) ∧
      (∃ u, answers (.pathWindowAccess (some []) port off size (some v) tag ok) s u ∧ stored off size v e u) ∧
      (∃ u, answers (.pathWindowAccess (some []) port off size none tag ok) s u ∧
        u.net.egress = e.net.egress ++ [(port, ⟨hdrTo 0 0 e, .regData tag (regRead off size e).1⟩)] ∧
        u = { e with net := { e.net with egress := u.net.egress }, timeShadow := u.timeShadow })) ∧
    (∀ h off size v, msgActs (.regWrite h off size v) s (stored off size v) ∧
      (inFault e = true → e.inReset = none → thisDev e < podSize e → h.dstDev = thisDev e → h.crcOk = true →
        ∃ u, answers (.regWrite h off size v) s u ∧ answers (.registerWrite off size v true) s u)) ∧
    (∀ h off size tag, reachable h.srcDev e = true → msgActs (.regRead h off size tag) s fun t u =>
      sentTo h.srcDev (hdrTo h.srcDev 0 t) (.regData tag (regRead off size t).1) t u ∧
      u = { t with net := u.net, timeShadow := u.timeShadow }) ∧
    (∀ h tag v, msgActs (.regData h tag v) s fun t u =>
      ((∃ x ∈ t.net.relays, x.tag = tag) →
        u = { t with busData := v, net := { t.net with relays := t.net.relays.filter (fun x => decide (x.tag ≠ tag)) } }) ∧
      ((∀ x ∈ t.net.relays, x.tag ≠ tag) → u = t)) ∧
    (∀ h line slots, (∀ k, k < 16 → runningAt line k e = []) → msgActs (.dbLine h line slots) s fun t u =>
      tfind (thisDev t, line) u.front.dbLines = some slots ∧
      (∀ k, k < 16 → slots.getD k 0 ≠ (heldLine (thisDev t, line) t).getD k 0 → tfind (line, k) u.front.piSeen = some (slots.getD k 0)) ∧
      u = { t with front := { t.front with dbLines := u.front.dbLines, piSeen := u.front.piSeen } }) ∧
    (∀ h a n, reachable h.srcDev e = true → msgActs (.hostRead h a n) s fun t u =>
      (thisDev t = 0 → sentTo h.srcDev (hdrTo h.srcDev h.srcSlice t) (.hostData a (memRead a n t.mem.host)) t u ∧ u = { t with net := u.net }) ∧
      (thisDev t ≠ 0 → u = t)) ∧
    (∀ h a bytes, e.mem.wf = true →
      let written (t u : Engine) : Prop := memRead a bytes.length u.mem.host = bytes ∧
        (∀ x, x < a ∨ a + bytes.length ≤ x → memGet x u.mem.host = memGet x t.mem.host) ∧
        u = { t with mem := { t.mem with host := u.mem.host } }
      msgActs (.hostData h a bytes) s written ∧
      msgActs (.hostWrite h a bytes) s (fun t u => (thisDev t = 0 → written t u) ∧ (thisDev t ≠ 0 → u = t))) ∧
    (∀ h v, msgActs (.msi h v) s fun t u =>
      (thisDev t = 0 → u = { t with front := { t.front with msix := t.front.msix ++ [v] } }) ∧ (thisDev t ≠ 0 → u = t))


/-! Integrity, spares and the event log -/
/-- R14, R401, R406, R407: at a task boundary a position whose core has failed, or whose rotation waits, moves onto the
standby spare; the core that a rotation frees is tested, and takes its place as the standby when there is none. A failing
core counts in FAILED. A latent test that finds a fault puts the engine into the fault state with LATENT. -/
def Obligations.SparesTakeOver : Prop :=
  ∀ (s : State) (n : Nat), alive s.eng = true → n < 4 →
    let sp := Reg.slcSpareSts n
    (∀ pos, pos < 64 → hasStandby n s.eng = true → posBusy n pos s.eng = false →
      let frame (e' : Engine) : Prop := e' = { s.eng with
        regs := e'.regs, safe := e'.safe, logs := e'.logs, counters := e'.counters, pinAlert := e'.pinAlert }
      let spare := getB sp Fld.SLC_SPARE_STS_TEST_VALID s.eng && !s.eng.safe.testing.contains n
      ((n, coreAt n pos s.eng) ∈ s.eng.safe.failed →
        ∃ e', answers (.positionMove n pos) s e' ∧ coreAt n pos e' = getF sp Fld.SLC_SPARE_STS_STANDBY s.eng ∧
          hasStandby n e' = spare ∧ (spare = true → getF sp Fld.SLC_SPARE_STS_STANDBY e' = getF sp Fld.SLC_SPARE_STS_TEST s.eng) ∧
          frame e') ∧
      ((n, coreAt n pos s.eng) ∉ s.eng.safe.failed → (n, pos) ∈ s.eng.safe.moving →
        ∃ e', answers (.positionMove n pos) s e' ∧ coreAt n pos e' = getF sp Fld.SLC_SPARE_STS_STANDBY s.eng ∧
          getF sp Fld.SLC_SPARE_STS_TEST e' = coreAt n pos s.eng ∧ getB sp Fld.SLC_SPARE_STS_TEST_VALID e' = true ∧
          n ∈ e'.safe.testing ∧ e'.safe.moving = s.eng.safe.moving.erase (n, pos) ∧
          getF sp Fld.SLC_SPARE_STS_ROTATIONS e' =
            min (getF sp Fld.SLC_SPARE_STS_ROTATIONS s.eng + 1) (2 ^ Fld.SLC_SPARE_STS_ROTATIONS.width - 1) ∧ frame e') ∧
      ((n, coreAt n pos s.eng) ∉ s.eng.safe.failed → (n, pos) ∉ s.eng.safe.moving → answers (.positionMove n pos) s s.eng)) ∧
    (initState s.eng = 7 → getB .safeCfg Fld.SAFE_CFG_ROTATE_EN s.eng = true → hasStandby n s.eng = true →
      getB sp Fld.SLC_SPARE_STS_TEST_VALID s.eng = true → n ∉ s.eng.safe.testing → (∀ m ∈ s.eng.safe.moving, m.1 ≠ n) →
      slicePoweredOff n s.eng = false →
      elapsedUs (tget (0, 0) n s.eng.safe.rotate).2 (1000 * max 1 (getF .safeCfg Fld.SAFE_CFG_ROTATE_MS s.eng)) s.eng = true →
      let pos := (tget (0, 0) n s.eng.safe.rotate).1
      ∃ v, exec (.spareRotation n) s = exec (.positionMove n pos) { s with eng := v } ∧
        v.safe.moving = s.eng.safe.moving ++ [(n, pos)] ∧ tget (0, 0) n v.safe.rotate = ((pos + 1) % 64, now s.eng) ∧
        v = { s.eng with regs := v.regs, safe := v.safe, power := { s.eng.power with quiet := now s.eng } } ∧
        regsKept [.pwrSts] s.eng v) ∧
    (getB sp Fld.SLC_SPARE_STS_TEST_VALID s.eng = true →
      (hasStandby n s.eng = true → answers (.coreSelfTestDone n true) s { s.eng with
        safe := { s.eng.safe with testing := s.eng.safe.testing.erase n } }) ∧
      (hasStandby n s.eng = false → n ∉ s.eng.safe.testing.erase n →
        ∃ e', answers (.coreSelfTestDone n true) s e' ∧ hasStandby n e' = true ∧
          getF sp Fld.SLC_SPARE_STS_STANDBY e' = getF sp Fld.SLC_SPARE_STS_TEST s.eng ∧
          getB sp Fld.SLC_SPARE_STS_TEST_VALID e' = false ∧
          e' = { s.eng with regs := e'.regs, safe := { s.eng.safe with testing := s.eng.safe.testing.erase n } } ∧
          regsKept [sp] s.eng e') ∧
      (let core := getF sp Fld.SLC_SPARE_STS_TEST s.eng
       (n, core) ∉ s.eng.safe.failed →
        ∃ e', answers (.coreSelfTestDone n false) s e' ∧ (n, core) ∈ e'.safe.failed ∧
          getF sp Fld.SLC_SPARE_STS_LAST_FAILED e' = core ∧ getB sp Fld.SLC_SPARE_STS_TEST_VALID e' = false ∧
          getF sp Fld.SLC_SPARE_STS_FAILED e' = min ((s.eng.safe.failed.filter (fun f => decide (f.1 = n))).length + 1) 3 ∧
          getF .faultSts Fld.FAULT_STS_SPARE_USED e' = 1)) ∧
    (initState s.eng = 7 →
      (∃ e', answers (.latentTest []) s e' ∧ e'.safe = { s.eng.safe with latent := now s.eng } ∧
        e' = { s.eng with regs := e'.regs, power := { s.eng.power with quiet := now s.eng }, safe := e'.safe } ∧
        regsKept [.pwrSts] s.eng e') ∧
      (∀ code inst bad, code < 256 → ∃ e', answers (.latentTest ((code, inst, n) :: bad)) s e' ∧ inFault e' = true ∧
        getF .faultSts Fld.FAULT_STS_CAUSE e' = code ∧ getF .faultSts Fld.FAULT_STS_CAUSE_SLICE e' = n ∧
        getF .faultSts Fld.FAULT_STS_LATENT e' = 1 ∧ e'.pinFault = .low))

/-- R408, R412, R413: OFFLINE takes an in-service slice to OFFLINING, and to OFFLINE with its stand-in and an alert once its
tasks in flight have completed; the host's own offline ends with a write of 0, an automatic one does not. A write of ARM arms
the injection for its check and slice; for a check of the whole engine it leads to the fault state at once. -/
def Obligations.SlicesGoOffline : Prop :=
  ∀ (s : State) (n : Nat), n < 4 →
    let st := getF (.slcSts n) Fld.SLC_STS_STATE s.eng
    (s.eng.inReset = none → st ≠ 3 →
      (∃ e', answers (.sliceOfflineWrite n) s e' ∧ getF (.slcCtl n) Fld.SLC_CTL_OFFLINE e' = 1 ∧
        getF (.slcSts n) Fld.SLC_STS_STATE e' = (if st = 0 then 1 else st) ∧
        e' = { s.eng with regs := e'.regs, power := e'.power, lostRegs := e'.lostRegs, logs := e'.logs
                          counters := e'.counters, pinAlert := e'.pinAlert } ∧
        regsKept [.slcCtl n, .slcSts n, .pwrSts, .logSts n, .faultSts] s.eng e') ∧
      (∃ e', answers (.sliceOnlineWrite n) s e' ∧ getF (.slcCtl n) Fld.SLC_CTL_OFFLINE e' = 0 ∧
        getF (.slcSts n) Fld.SLC_STS_STATE e' =
          (if getB (.slcSts n) Fld.SLC_STS_AUTO s.eng = true ∨ n ∈ s.eng.power.gating then st else 0) ∧
        e' = { s.eng with regs := e'.regs, power := e'.power, lostRegs := e'.lostRegs, logs := e'.logs
                          counters := e'.counters, pinAlert := e'.pinAlert } ∧
        regsKept [.slcCtl n, .slcSts n, .pwrSts, .logSts n, .faultSts] s.eng e')) ∧
    (alive s.eng = true → st = 1 → sliceIdle n s.eng = true →
      ∃ e', answers (.sliceOfflineReached n) s e' ∧ getF (.slcSts n) Fld.SLC_STS_STATE e' = 2 ∧
        getF (.slcSts n) Fld.SLC_STS_AUTO e' = getF (.slcSts n) Fld.SLC_STS_AUTO s.eng ∧
        getF (.slcSts n) Fld.SLC_STS_STAND_IN e' = (standInOf n s.eng).getD 0 ∧
        getF .faultSts Fld.FAULT_STS_SLICE_OFFLINE e' = 1 ∧
        e' = { s.eng with regs := e'.regs, logs := e'.logs, counters := e'.counters, pinAlert := e'.pinAlert } ∧
        regsKept [.slcSts n, .logSts n, .faultSts] s.eng e') ∧
    (alive s.eng = true → (st ≠ 1 ∨ sliceIdle n s.eng = false) → answers (.sliceOfflineReached n) s s.eng) ∧
    (alive s.eng = true → ∀ code,
      (code % 256 ∉ [0x0A, 0x13, 0x14] →
        ∃ e', answers (.injectArm code n) s e' ∧ getF .safeInject Fld.SAFE_INJECT_ARM e' = 1 ∧
          getF .safeInject Fld.SAFE_INJECT_TARGET e' = code % 256 ∧ getF .safeInject Fld.SAFE_INJECT_SLICE e' = n ∧
          onlyRegsWoken [.safeInject] s.eng e') ∧
      (code % 256 ∈ [0x0A, 0x13, 0x14] →
        ∃ e', answers (.injectArm code n) s e' ∧ inFault e' = true ∧ getF .faultSts Fld.FAULT_STS_CAUSE e' = code % 256 ∧
          getF .safeInject Fld.SAFE_INJECT_ARM e' = 0 ∧ e'.pinFault = .low))

/-- R415, R416, R418, R419: a record goes whole from the next cluster's FIFO into the log ring; the oldest one not yet
drained goes, where the host log ring has room, into the host's memory at PI, and PI advances by its log words; where that
write fails it counts as lost and PI stays. FLUSH leaves no record in a FIFO. -/
def Obligations.LogMoves : Prop :=
  ∀ (s : State) (n : Nat), s.eng.inReset = none → n < 4 →
    let l := logOf n s.eng
    (∀ c r rest, nextCluster l = some c → tget [] c l.fifos = r :: rest → ringWords l.ring + logWords r ≤ 4096 →
      ∃ e', answers (.logPack n) s e' ∧
        logOf n e' = { l with fifos := tput c rest l.fifos, ring := l.ring ++ [r], nextCluster := (c + 1) % 8 } ∧
        getF (.logSts n) Fld.LOG_STS_RING_WORDS e' = ringWords (l.ring ++ [r]) % 2 ^ Fld.LOG_STS_RING_WORDS.width ∧
        (∀ m, m ≠ n → logOf m e' = logOf m s.eng) ∧
        e' = { s.eng with regs := e'.regs, logs := e'.logs } ∧ regsKept [.logSts n] s.eng e') ∧
    (nextCluster l = none → answers (.logPack n) s s.eng) ∧
    (∀ r, drainable n s.eng = some r → l.flushTo = none →
      let size := 2 ^ getF (.logHost n) Fld.LOG_HOST_LOG2_SIZE s.eng
      let base := getF (.logHost n) Fld.LOG_HOST_BASE s.eng * 4096
      let pi := getF (.logPi n) Fld.LOG_PI_PI s.eng
      (thisDev s.eng = 0 → s.eng.mem.wf = true → getF (.logPiAddr n) Fld.LOG_PI_ADDR_PI_ADDR s.eng = 0 →
        ∃ e', answers (.logDrain n) s e' ∧
          (∀ i, i < logWords r → hostRead (base + 64 * ((pi + i) % size)) 64 e' =
            ((recBytes (thisDev s.eng) r).drop (64 * i)).take 64) ∧
          getF (.logPi n) Fld.LOG_PI_PI e' = (pi + logWords r) % 2 ^ 32 ∧ logOf n e' = { l with ring := markDrained l.ring } ∧
          (∀ a, (∀ i, i < logWords r → a < base + 64 * ((pi + i) % size) ∨ base + 64 * ((pi + i) % size) + 64 ≤ a) →
            memGet a e'.mem.host = memGet a s.eng.mem.host) ∧
          e' = { s.eng with regs := e'.regs, logs := e'.logs, mem := { s.eng.mem with host := e'.mem.host } } ∧
          regsKept [.logPi n] s.eng e') ∧
      (∃ e', answers (.logHostWriteFault n) s e' ∧ logOf n e' = { l with ring := markDrained l.ring } ∧
        getF (.logSts n) Fld.LOG_STS_LOST_COUNT e' =
          min (getF (.logSts n) Fld.LOG_STS_LOST_COUNT s.eng + 1) (2 ^ Fld.LOG_STS_LOST_COUNT.width - 1) ∧
        getF .faultSts Fld.FAULT_STS_LOG_LOST e' = 1 ∧
        e' = { s.eng with regs := e'.regs, logs := e'.logs, counters := e'.counters, pinAlert := e'.pinAlert } ∧
        regsKept [.logSts n, .faultSts] s.eng e')) ∧
    (getB .logCtl Fld.LOG_CTL_FLUSH s.eng = false →
      ∃ e', answers .logFlush s e' ∧ (∀ c, c < 8 → tget [] c (logOf n e').fifos = []) ∧
        e' = { s.eng with regs := e'.regs, power := e'.power, lostRegs := e'.lostRegs, logs := e'.logs, counters := e'.counters
                          pinAlert := e'.pinAlert, net := e'.net, mem := { s.eng.mem with host := e'.mem.host } })


/-! Resets, start-up, power and pins -/
/-- R426 to R428, R442: a reset puts every register but the near path's EPOCH at its reset value, loses every task, message
and record, and leaves the memories; EPOCH advances by one (after power-on it is not defined). The rail of base die 0 resets
as power-on does. At reset release the engine enters step 1, or step 2 after ENGINE with its PLLs locked, with SHD_FAULT_N
and SHD_ALIVE low. -/
def Obligations.ResetsAndRelease : Prop :=
  ∀ s : State,
    let after (k : ResetKind) (e' : Engine) : Prop :=
      e' = { regs := e'.regs, mem := s.eng.mem, freeCtr := e'.freeCtr, inReset := some k } ∧
      (∀ r, r ≠ .nearSts → getReg r e' = r.spec.reset)
    (s.eng.inReset = none →
      (∃ e', answers .resetEngine s e' ∧ after .engine e' ∧ e'.freeCtr = s.eng.freeCtr ∧
        getF .nearSts Fld.NEAR_STS_EPOCH e' = (getF .nearSts Fld.NEAR_STS_EPOCH s.eng + 1) % 2 ^ 16) ∧
      (∃ e', answers .resetFull s e' ∧ after .full e' ∧ e'.freeCtr = s.eng.freeCtr ∧
        getF .nearSts Fld.NEAR_STS_EPOCH e' = (getF .nearSts Fld.NEAR_STS_EPOCH s.eng + 1) % 2 ^ 16)) ∧
    (∃ e', answers .powerOnReset s e' ∧ after .powerOn e') ∧
    exec (.railMonitorTrip 0) s = exec .powerOnReset s ∧
    (∀ k, s.eng.inReset = some k → inFault s.eng = false →
      ∃ e', answers .resetRelease s e' ∧ e'.inReset = none ∧ initState e' = (if k = .engine then 2 else 1) ∧
        e'.pinFault = .low ∧ e'.pinAlive = .low ∧ e'.pinAlert = .high ∧
        (k = .engine → getF .clkCfg Fld.CLK_CFG_LOCKED e' = 15) ∧
        e' = { s.eng with regs := e'.regs, power := e'.power, inReset := none, pinFault := .low, pinAlert := .high, pinAlive := .low } ∧
        regsKept [.initSts, .clkCfg] s.eng e')

/-- R428: while a reset is in progress no command but a power-on reset and the release of the reset has an effect; a host
read returns data and changes nothing else. (That no task has a job then, which a reset leaves so, is the hypothesis.) -/
def Obligations.ResetHolds : Prop :=
  ∀ (c : Instr) (s : State) (k : ResetKind), s.eng.inReset = some k → s.eng.jobs = [] → actsInReset c = false →
    ∃ v, answers c s { s.eng with busData := v }

/-- R367, R429: in steps 1, 2 and 4 of start-up a slice finishes by locking its PLL, by selecting the lanes of its die edges,
by training its stacks and ports; the step ends with the last slice. Training leaves the stacks of the slice as never written
(the model's choice, notes/assumptions/1.md) and every other byte as it was. R429, R462: the cache test disables the ways
that fail, at most 8; the core test puts the passing cores, in ascending order, into the 64 positions and then the standby
and the test spare, at most two cores having failed. Each ends its step. -/
def Obligations.StartUpStepsEnd : Prop :=
  (∀ (s : State) (n : Nat),
    (∀ us, runsStep 1 n s.eng = true →
      ∃ e', answers (.pllLockDone n us) s e' ∧ stepEnded n s.eng e' ∧
        bitsOf (getF .clkCfg Fld.CLK_CFG_LOCKED e') n 1 = 1 ∧
        getF .clkCfg Fld.CLK_CFG_LOCK_TIME e' = min (max us (getF .clkCfg Fld.CLK_CFG_LOCK_TIME s.eng)) 65535 ∧
        e' = { s.eng with regs := e'.regs, power := e'.power, pinAlert := e'.pinAlert } ∧ regsKept [.clkCfg, .initSts] s.eng e') ∧
    (∀ x p up spares diff, runsStep 2 n s.eng = true → edgesOf[x]? = some p → p.1 = n ∨ p.2 = n →
      ∃ e', answers (.d2dSelectDone n [(x, up, spares, diff)]) s e' ∧
        getF (.d2dEdgeSts x) Fld.D2D_EDGE_STS_BUNDLES_UP e' = min up 16 ∧
        getF (.d2dEdgeSts x) Fld.D2D_EDGE_STS_UNREPAIRED e' = 16 - min up 16 ∧
        getF (.d2dEdgeSts x) Fld.D2D_EDGE_STS_SPARES_USED e' = min spares 128 ∧
        getF (.d2dEdgeSts x) Fld.D2D_EDGE_STS_FUSE_DIFF e' = min diff 255 ∧
        bitsOf (getF .d2dPath Fld.D2D_PATH_EDGE_DOWN e') x 1 = (if up = 0 then 1 else 0) ∧
        (othersDone n s.eng = false → initState e' = 2 ∧ e'.power.done = s.eng.power.done ++ [n]) ∧
        (othersDone n s.eng = true →
          initState e' = if (List.range 4).all (fun m => (dieReached e').contains m) then 3 else 15) ∧
        e' = { s.eng with regs := e'.regs, power := e'.power, pinAlert := e'.pinAlert } ∧
        regsKept [.d2dEdgeSts x, .d2dPath, .initSts] s.eng e') ∧
    (∀ (sp : Nat → Nat) (ports : Nat → Bool × Nat × Nat), runsStep 4 n s.eng = true →
      ∃ e', answers (.hbmTrainingDone n [(sp 0, false), (sp 1, false)] ((List.range 4).map ports) none) s e' ∧ stepEnded n s.eng e' ∧
        (∀ k, k < 2 → getF (.hbmStackSts (2 * n + k)) Fld.HBM_STACK_STS_TRAINED e' = 1 ∧
          getF (.hbmStackSts (2 * n + k)) Fld.HBM_STACK_STS_UNREPAIRED e' = 0 ∧
          getF (.hbmStackSts (2 * n + k)) Fld.HBM_STACK_STS_SPARES_USED e' = min (sp k) 255) ∧
        (∀ k, k < 4 → getB (.nlPortSts (4 * n + k)) Fld.NL_PORT_STS_UP e' = (ports k).1 ∧
          getF (.nlPortSts (4 * n + k)) Fld.NL_PORT_STS_LANES_UP e' = (ports k).2.1 % 64 ∧
          getF (.nlPortSts (4 * n + k)) Fld.NL_PORT_STS_PEER_DEV e' = (ports k).2.2 % 64) ∧
        (∀ a, memGet a e'.mem.hbm = if n * 2 ^ 37 ≤ a ∧ a < (n + 1) * 2 ^ 37 then 0 else memGet a s.eng.mem.hbm) ∧
        e' = { s.eng with regs := e'.regs, power := e'.power, pinAlert := e'.pinAlert
                          mem := { s.eng.mem with hbm := e'.mem.hbm, hbmSide := e'.mem.hbmSide } } ∧
        regsKept [.hbmStackSts (2 * n), .hbmStackSts (2 * n + 1), .nlPortSts (4 * n), .nlPortSts (4 * n + 1),
          .nlPortSts (4 * n + 2), .nlPortSts (4 * n + 3), .ucieSts, .initSts] s.eng e')) ∧
  (∀ (s : State) (n : Nat),
    (∀ ways : List Nat, runsStep 5 n s.eng = true → ((List.range 24).filter (fun w => ways.contains w)).length ≤ 8 →
      ∃ e', answers (.cacheTestDone n ways) s e' ∧ stepEnded n s.eng e' ∧
        (∀ w, w < 24 → ways.contains w = true → wayDisabled n w e' = true) ∧
        (∀ w, w < 24 → ways.contains w = false → wayDisabled n w e' = wayDisabled n w s.eng) ∧
        e' = { s.eng with regs := e'.regs, power := e'.power, logs := e'.logs, counters := e'.counters, pinAlert := e'.pinAlert } ∧
        regsKept [.slcWaySts n, .logSts n, .faultSts, .initSts] s.eng e') ∧
    (∀ cores : List Nat, runsStep 6 n s.eng = true → ((List.range 66).filter (fun c => cores.contains c)).length ≤ 2 →
      let pass := (List.range 66).filter (fun c => !cores.contains c)
      ∃ e', answers (.coreTestDone n cores) s e' ∧ stepEnded n s.eng e' ∧
        (∀ p, p < 64 → coreAt n p e' = pass.getD p 0 ∧ posFilled n p e' = true) ∧
        hasStandby n e' = decide (65 ≤ pass.length) ∧ getF (.slcSpareSts n) Fld.SLC_SPARE_STS_STANDBY e' = pass.getD 64 0 ∧
        getB (.slcSpareSts n) Fld.SLC_SPARE_STS_TEST_VALID e' = decide (66 ≤ pass.length) ∧
        getF (.slcSpareSts n) Fld.SLC_SPARE_STS_FAILED e' = 66 - pass.length ∧
        getF (.slcSts n) Fld.SLC_STS_POSITIONS e' = 64 ∧
        e' = { s.eng with regs := e'.regs, power := e'.power, safe := e'.safe, logs := e'.logs, counters := e'.counters
                          pinAlert := e'.pinAlert }))

/-- R429, R430, R446: TRAIN starts step 4 from WAIT_TRAIN alone; a step that exceeds its time fails every slice that has not
finished it and the engine enters FAILED, with FAIL_CAUSE of the step; CONTINUE then gates the failed slices whose OFF bits
are set and goes on with the next step, and has no effect while such a bit is missing or slice 0 is among them. -/
def Obligations.TrainTimeoutContinue : Prop :=
  ∀ s : State, alive s.eng = true →
    (∃ e', answers .train s e' ∧ initState e' = (if initState s.eng = 3 then 4 else initState s.eng) ∧
      e' = { s.eng with regs := e'.regs, power := e'.power, lostRegs := e'.lostRegs, pinAlert := e'.pinAlert } ∧
      regsKept [.initSts, .pwrSts] s.eng e') ∧
    (∀ st us cause, initState s.eng = st → stepLimit st = some (us, cause) →
      us * 375 ≤ (s.eng.power.up - s.eng.power.stepAt) * 4 → getF .initSts Fld.INIT_STS_FAIL_SLICES s.eng = 0 →
      (∃ n, n < 4 ∧ n ∉ s.eng.power.done) → (∀ n, n < 4 → slicePoweredOff n s.eng = false) →
      ∃ e', answers (.startupStepTimeout none) s e' ∧ initState e' = 15 ∧ e'.power.failStep = st ∧
        getF .initSts Fld.INIT_STS_FAIL_CAUSE e' = cause ∧
        (∀ n, n < 4 → n ∉ s.eng.power.done → sliceFailed n e' = true) ∧
        (st ≠ 2 → ∀ n, n < 4 → n ∈ s.eng.power.done → sliceFailed n e' = false) ∧
        (s.eng.pinFault ≠ .high → e'.pinAlert = .low) ∧
        e' = { s.eng with regs := e'.regs, power := e'.power, pinAlert := e'.pinAlert } ∧ regsKept [.initSts] s.eng e') ∧
    (∀ n, initState s.eng = 15 → 0 < n → n < 4 → (∀ m, m < 4 → (sliceFailed m s.eng = true ↔ m = n)) →
      slicePoweredOff n s.eng = false →
      bitsOf (getF .pwrSlice Fld.PWR_SLICE_OFF s.eng) (n - 1) 1 = 1 →
      ∃ e', answers .continueInit s e' ∧ slicePoweredOff n e' = true ∧ initState e' = stepAfter s.eng.power.failStep ∧
        (∀ l ∈ e'.cache.lines, l.slice ≠ n) ∧ (∀ m k, m ≠ n → tget 0 (m, k) e'.counters = tget 0 (m, k) s.eng.counters) ∧
        e' = { s.eng with regs := e'.regs, lostRegs := e'.lostRegs, tiles := e'.tiles, counters := e'.counters, logs := e'.logs
                          grad := e'.grad, cache := e'.cache, upd := e'.upd, hot := e'.hot, safe := e'.safe
                          power := e'.power, pinAlert := e'.pinAlert }) ∧
    (initState s.eng = 15 →
      sliceFailed 0 s.eng = true ∨ (∃ n, 0 < n ∧ n < 4 ∧ sliceFailed n s.eng = true ∧
        bitsOf (getF .pwrSlice Fld.PWR_SLICE_OFF s.eng) (n - 1) 1 = 0) →
      ∃ e', answers .continueInit s e' ∧ onlyRegsWoken [] s.eng e')

/-- R436, R450: an OFF bit can be set for an OFFLINE slice while no step is closing: its cache is then written back and
emptied; once the writes are done the slice is gated, in POWER_OFF with its PLL stopped. Cleared in READY, the bit starts
steps 1, 2, 4, 5 and 6 for the slice. R340, R434: a stack's report is kept, one that cannot be read makes it stale; a stack
newly above its threshold, or above it for UP_MS more, rises by one LEVEL up to Lmax; at or below the threshold less HYST for
DOWN_MS it falls by one. A LEVEL that leaves 0 sets HBM_THROTTLE. R434, R435, R444, R445: a quiet, enabled engine enters IDLE
after IDLE_US and leaves it when work reaches it; SHD_ALIVE toggles while ENABLE of its register is 1 and base die 0 is
locked. -/
def Obligations.SliceAndStackPower : Prop :=
  (∀ (s : State) (n : Nat), 0 < n → n < 4 →
    (s.eng.inReset = none → initState s.eng ≠ 15 → n ∉ s.eng.power.gating →
      (getF (.slcSts n) Fld.SLC_STS_STATE s.eng = 2 → getB .stepSts Fld.STEP_STS_CLOSING s.eng = false →
        ∃ e', answers (.slicePowerOff n) s e' ∧ bitsOf (getF .pwrSlice Fld.PWR_SLICE_OFF e') (n - 1) 1 = 1 ∧
          e'.power.gating = s.eng.power.gating ++ [n] ∧ (∀ l ∈ e'.cache.lines, l.slice ≠ n) ∧
          e' = { s.eng with regs := e'.regs, power := e'.power, lostRegs := e'.lostRegs, cache := e'.cache, net := e'.net
                            nextId := e'.nextId } ∧ regsKept [.pwrSlice, .pwrSts] s.eng e') ∧
      (getF (.slcSts n) Fld.SLC_STS_STATE s.eng ≠ 2 ∨ getB .stepSts Fld.STEP_STS_CLOSING s.eng = true →
        ∃ e', answers (.slicePowerOff n) s e' ∧ onlyRegsWoken [] s.eng e')) ∧
    (alive s.eng = true → n ∈ s.eng.power.gating → (∀ w ∈ s.eng.cache.writes, w.slice ≠ n) →
      ∃ e', answers (.sliceGateDone n) s e' ∧ slicePoweredOff n e' = true ∧
        bitsOf (getF .clkCfg Fld.CLK_CFG_LOCKED e') n 1 = 0 ∧ bitsOf (getF .pwrSlice Fld.PWR_SLICE_OFF e') (n - 1) 1 = 1 ∧
        e'.power.gating = s.eng.power.gating.erase n ∧ initState e' = initState s.eng ∧ e'.tasks = s.eng.tasks ∧ e'.mem = s.eng.mem) ∧
    (alive s.eng = true → initState s.eng = 7 → slicePoweredOff n s.eng = true → upStep n s.eng = 0 →
      ∃ e', answers (.slicePowerUp n) s e' ∧ bitsOf (getF .pwrSlice Fld.PWR_SLICE_OFF e') (n - 1) 1 = 0 ∧ upStep n e' = 1 ∧
        e' = { s.eng with regs := e'.regs, power := e'.power, lostRegs := e'.lostRegs } ∧ regsKept [.pwrSlice, .pwrSts] s.eng e')) ∧
  (∀ (s : State) (k : Nat), alive s.eng = true → k < 8 →
    let r := Reg.hbmStackSts k
    let l := getF r Fld.HBM_STACK_STS_LEVEL s.eng
    let up := max l (min (thrMax s.eng) (l + 1))
    let frame (e' : Engine) : Prop :=
      (l = 0 → getF r Fld.HBM_STACK_STS_LEVEL e' ≠ 0 → getF .sts Fld.STS_HBM_THROTTLE e' = 1) ∧
      e' = { s.eng with regs := e'.regs, power := e'.power, logs := e'.logs, counters := e'.counters, pinAlert := e'.pinAlert } ∧
      regsKept [r, .sts, .pwrSts, .logSts (k / 2), .faultSts] s.eng e'
    (∀ t th, ∃ e', answers (.hbmTempSample k (some (t, th))) s e' ∧ getF r Fld.HBM_STACK_STS_TEMP e' = t % 256 ∧
      getF r Fld.HBM_STACK_STS_THRESH e' = th % 256 ∧ getF r Fld.HBM_STACK_STS_STALE e' = 0 ∧
      getF r Fld.HBM_STACK_STS_LEVEL e' = (if th % 256 < t % 256 ∧ thrAbove k s.eng = false then up else l) ∧ frame e') ∧
    (∃ e', answers (.hbmTempSample k none) s e' ∧ getF r Fld.HBM_STACK_STS_STALE e' = 1 ∧
      getF r Fld.HBM_STACK_STS_LEVEL e' = (if thrAbove k s.eng = false then up else l) ∧ frame e') ∧
    (∃ e', answers (.throttleRisePeriod k) s e' ∧
      getF r Fld.HBM_STACK_STS_LEVEL e' = (if thrAbove k s.eng = true then up else l) ∧ frame e') ∧
    (∃ e', answers (.throttleFallPeriod k) s e' ∧
      getF r Fld.HBM_STACK_STS_LEVEL e' = (if thrBelow k s.eng = true then l - 1 else l) ∧ frame e')) ∧
  (∀ s : State, alive s.eng = true →
    (let ready := getB .pwrCtl Fld.PWR_CTL_IDLE_EN s.eng && getB .ctl Fld.CTL_ENABLE s.eng && quietNow s.eng &&
        elapsedUs s.eng.power.quiet (max 1 (getF .pwrCtl Fld.PWR_CTL_IDLE_US s.eng)) s.eng
     (ready = true → ∃ e', answers .idleEntry s e' ∧ getF .pwrSts Fld.PWR_STS_IDLE e' = 1 ∧ onlyRegs [.pwrSts] s.eng e') ∧
     (ready = false → answers .idleEntry s s.eng)) ∧
    (getB .pwrSts Fld.PWR_STS_IDLE s.eng = true →
      ∃ e', answers .idleWake s e' ∧ getF .pwrSts Fld.PWR_STS_IDLE e' = 0 ∧
        e' = { s.eng with regs := e'.regs, power := { s.eng.power with quiet := now s.eng } } ∧ regsKept [.pwrSts] s.eng e') ∧
    (bitsOf (getF .clkCfg Fld.CLK_CFG_LOCKED s.eng) 0 1 = 1 →
      answers .aliveHalfPeriod s { s.eng with
        pinAlive := if getB .aliveCfg Fld.ALIVE_CFG_ENABLE s.eng then (if s.eng.pinAlive = .high then .low else .high)
          else .low }) ∧
    (bitsOf (getF .clkCfg Fld.CLK_CFG_LOCKED s.eng) 0 1 = 0 → answers .aliveHalfPeriod s s.eng))

/-- R438 to R441: a cooling profile sets CAP, RAMP, TJ_MAX, STEP and MAX_LEVEL of its row, profile 3 none of them; above the
cap, or above TJ_MAX, LEVEL rises by one up to 8, and falls by one where the power would allow it and TJ is 5 °C below; a
telemetry sample is reported by rail, and the power as the mean of the last ten sums. -/
def Obligations.PowerAndTelemetry : Prop :=
  ∀ s : State,
    (s.eng.inReset = none → ∀ p,
      (∀ cap ramp tj st lv, p % 4 ≠ 3 →
        (cap, ramp, tj, st, lv) = (if p % 4 = 0 then (180, 20, 95, 3, 4) else if p % 4 = 1 then (250, 40, 105, 2, 7)
          else (250, 40, 100, 1, 7)) →
        ∃ e', answers (.profileSelect p) s e' ∧ getF .pwrProfile Fld.PWR_PROFILE_PROFILE e' = p % 4 ∧
          getF .pwrCap Fld.PWR_CAP_CAP e' = cap ∧ getF .pwrCap Fld.PWR_CAP_RAMP e' = ramp ∧
          getF .pwrCap Fld.PWR_CAP_TJ_MAX e' = tj ∧ getF .hbmThrCfg Fld.HBM_THR_CFG_STEP e' = st ∧
          getF .hbmThrCfg Fld.HBM_THR_CFG_MAX_LEVEL e' = lv ∧ onlyRegsWoken [.pwrProfile, .pwrCap, .hbmThrCfg] s.eng e') ∧
      (p % 4 = 3 → ∃ e', answers (.profileSelect p) s e' ∧ getF .pwrProfile Fld.PWR_PROFILE_PROFILE e' = 3 ∧
        onlyRegsWoken [.pwrProfile] s.eng e')) ∧
    (alive s.eng = true →
      let l := getF .pwrSts Fld.PWR_STS_LEVEL s.eng
      let w := getF .pwrSts Fld.PWR_STS_POWER s.eng
      let tj := getF .pwrSts Fld.PWR_STS_TJ s.eng
      let top := getF .pwrCap Fld.PWR_CAP_TJ_MAX s.eng
      let cap := 10 * min 250 (max 60 (getF .pwrCap Fld.PWR_CAP_CAP s.eng))
      (∃ e', answers .powerCapCompare s e' ∧
        getF .pwrSts Fld.PWR_STS_LEVEL e' = (if (cap < w ∨ top < tj) ∧ l < 8 then l + 1 else l) ∧
        getF .pwrSts Fld.PWR_STS_CAP_EVENTS e' = (if (cap < w ∨ top < tj) ∧ l = 0
          then min (getF .pwrSts Fld.PWR_STS_CAP_EVENTS s.eng + 1) 65535 else getF .pwrSts Fld.PWR_STS_CAP_EVENTS s.eng) ∧
        onlyRegs [.pwrSts] s.eng e') ∧
      (∃ e', answers .powerLevelFall s e' ∧
        getF .pwrSts Fld.PWR_STS_LEVEL e' =
          (if 0 < l ∧ w * (17 - l) ≤ cap * (16 - l) ∧ tj + 5 ≤ top then l - 1 else l) ∧ onlyRegs [.pwrSts] s.eng e')) ∧
    (s.eng.inReset = none → ∀ rail : Nat → Option (Nat × Nat × Nat),
      ∃ e', answers (.telemetrySample ((List.range 4).map rail)) s e' ∧
        (∀ d v i t, d < 4 → rail d = some (v, i, t) →
          getF (.pwrTelem d) Fld.PWR_TELEM_VALID e' = 1 ∧ getF (.pwrTelem d) Fld.PWR_TELEM_VOLT e' = min v 65535 ∧
          getF (.pwrTelem d) Fld.PWR_TELEM_CURR e' = min i 65535 ∧
          getF (.pwrTelem d) Fld.PWR_TELEM_POWER e' = min (v * i / 1000) 65535 ∧
          getF (.pwrTelem d) Fld.PWR_TELEM_TEMP e' = min t 255) ∧
        (∀ d, d < 4 → rail d = none → getF (.pwrTelem d) Fld.PWR_TELEM_VALID e' = 0 ∧
          getF (.pwrTelem d) Fld.PWR_TELEM_POWER e' = getF (.pwrTelem d) Fld.PWR_TELEM_POWER s.eng) ∧
        e'.power.sums = ((List.range 4).map (fun d => getF (.pwrTelem d) Fld.PWR_TELEM_POWER e')).sum ::
          s.eng.power.sums.take 9 ∧
        getF .pwrSts Fld.PWR_STS_POWER e' = min (e'.power.sums.sum / e'.power.sums.length) 65535 ∧
        getF .pwrSts Fld.PWR_STS_TJ e' = ((List.range 4).map (fun d => getF (.pwrTelem d) Fld.PWR_TELEM_TEMP e')).foldl max 0 ∧
        e' = { s.eng with regs := e'.regs, power := { s.eng.power with sums := e'.power.sums } } ∧
        regsKept [.pwrTelem 0, .pwrTelem 1, .pwrTelem 2, .pwrTelem 3, .pwrSts] s.eng e')

/-- R402, R403, R425, R442: a clock monitor, and the rail monitor of dies 1 to 3, put the engine into the fault state with
their code as the cause: the pins are low, a FAULT_NOTICE is on its way to every device that can be reached, and memory is as
it was where no task in flight has an output there. -/
def Obligations.MonitorsTrip : Prop :=
  ∀ (s : State) (d : Nat), alive s.eng = true → d < 4 →
    let faulted (cause : Nat) (e' : Engine) : Prop :=
      inFault e' = true ∧ alive e' = false ∧ getF .faultSts Fld.FAULT_STS_CAUSE e' = cause ∧
      getF .faultSts Fld.FAULT_STS_CAUSE_SLICE e' = d ∧ getF .faultSts Fld.FAULT_STS_LATENT e' = 0 ∧
      e'.pinFault = .low ∧ e'.pinAlive = .low ∧
      (∀ m, m < 64 → m ≠ thisDev s.eng → reachable m s.eng = true →
        ∃ h, (portTo m s.eng, (⟨h, .faultNotice cause d⟩ : Msg)) ∈ e'.net.egress ∧ h.dstDev = m) ∧
      e' = { s.eng with regs := e'.regs, logs := e'.logs, counters := e'.counters, net := e'.net, front := e'.front
                        pinFault := .low, pinAlert := e'.pinAlert, pinAlive := .low, mem := e'.mem, freeCtr := e'.freeCtr } ∧
      ((∀ j ∈ s.eng.jobs, j.outs = []) → e'.mem = s.eng.mem ∧ e'.freeCtr = s.eng.freeCtr)
    (∀ lost, ∃ e', answers (.clockMonitorTrip d lost) s e' ∧ faulted 0x13 e' ∧
      bitsOf (getF .clkCfg Fld.CLK_CFG_CLK_FAULT e') d 1 = 1 ∧
      (lost = true → bitsOf (getF .clkCfg Fld.CLK_CFG_LOCKED e') d 1 = 0) ∧ regsKept [.faultSts, .clkCfg, .logSts d] s.eng e') ∧
    (0 < d → ∃ e', answers (.railMonitorTrip d) s e' ∧ faulted 0x14 e' ∧ regsKept [.faultSts, .logSts d] s.eng e')


/-! Steps and the memories -/
/-- A step takes the command at the front of the queue and runs it with the queue's rest, first in, first out. With no
command waiting one period of CLK_TS passes (the model's choice, notes/assumptions/5.md): nothing happens during a reset;
else SHD_INIT_STS.ELAPSED follows the time since the reset, SHD_TIME counts once it runs, at its own rate while no offset is
slewed out, and nothing else changes. -/
def Obligations.StepTakesFront : Prop :=
  ∀ s : State,
    (∀ c rest, s.pending = c :: rest → step s = exec c { s with pending := rest }) ∧
    (∀ c, step { s with pending := c :: s.pending } = exec c s) ∧
    (s.pending = [] →
      ∃ u, step s = .next { s with eng := u } ∧
        (s.eng.inReset.isSome = true → u = s.eng) ∧
        (s.eng.inReset = none →
          getF .initSts Fld.INIT_STS_ELAPSED u = min ((s.eng.power.up + 1) * 4 / 375) (2 ^ 32 - 1) ∧
          (timeRuns s.eng = false → getReg .time u = getReg .time s.eng) ∧
          (timeRuns s.eng = true → s.eng.net.slew = 0 → s.eng.net.frac < 32 → getReg .time u = getReg .time s.eng + 1) ∧
          u = { s.eng with regs := u.regs, power := u.power, net := { s.eng.net with frac := u.net.frac, slew := u.net.slew } } ∧
          regsKept [.initSts, .time] s.eng u))

/-- Every step keeps the four memories in their canonical form: addresses strictly rising, no byte listed that an unlisted
address reads as. -/
def Obligations.MemoryCanonicalKept : Prop :=
  ∀ s s' : State, s.eng.mem.wf = true → step s = .next s' → s'.eng.mem.wf = true

/-- R426, R427: after reset the memories list nothing, which is canonical, no command waits, a power-on reset is in progress,
no task is held, the pins are not driven and every register holds its reset value. (EPOCH of the near path, which has none,
is 0: the model's choice, notes/assumptions/3.md; so is what memory holds at power-on, notes/assumptions/1.md.) -/
def Obligations.StateAtReset : Prop :=
  State.reset.eng.mem.wf = true ∧ State.reset.eng.mem.hbm = [] ∧ State.reset.eng.mem.llm = [] ∧ State.reset.pending = [] ∧
  State.reset.eng.inReset = some .powerOn ∧ (∀ r : Reg, getReg r State.reset.eng = r.spec.reset) ∧
  State.reset.eng.tasks = [] ∧ State.reset.eng.pinAlive = .hiZ ∧ State.reset.eng.pinFault = .hiZ
end

