-- ==== Sys2Proof/Laws/Memory.lean ====
section
/-! SUPPORT. The byte memories: a read after a write, and the canonical form that every memory operation keeps. -/

namespace Sys2Proof.Machine

/-- Below the listed addresses a memory reads 0. -/
theorem memGet_of_wfFrom (m : List (Nat × Byte)) : ∀ (lo a : Nat), memWfFrom lo m = true → a < lo → memGet a m = 0 := by
  induction m with
  | nil => intros; rfl
  | cons p t ih =>
    intro lo a h ha
    obtain ⟨k, b⟩ := p
    simp only [memWfFrom, Bool.and_eq_true, decide_eq_true_eq] at h
    have h1 : k ≠ a := by omega
    have h2 : a < k := by omega
    simp [memGet, h1, h2]

/-- A canonical memory stays one when a lower bound is lowered. -/
theorem memWfFrom_mono (m : List (Nat × Byte)) : ∀ (lo lo' : Nat), lo' ≤ lo → memWfFrom lo m = true → memWfFrom lo' m = true := by
  cases m with
  | nil => intros; rfl
  | cons p t =>
    intro lo lo' hl h
    obtain ⟨k, b⟩ := p
    simp only [memWfFrom, Bool.and_eq_true, decide_eq_true_eq] at h ⊢
    exact ⟨⟨by omega, h.1.2⟩, h.2⟩

/-- Storing one byte keeps the canonical form. -/
theorem memWfFrom_memSet (m : List (Nat × Byte)) :
    ∀ (lo a : Nat) (v : Byte), lo ≤ a → memWfFrom lo m = true → memWfFrom lo (memSet a v m) = true := by
  induction m with
  | nil =>
    intro lo a v ha _
    simp only [memSet]
    split
    · rfl
    · simp_all [memWfFrom]
  | cons p t ih =>
    intro lo a v ha h
    obtain ⟨k, b⟩ := p
    simp only [memWfFrom, Bool.and_eq_true, decide_eq_true_eq] at h
    obtain ⟨⟨hk, hb⟩, ht⟩ := h
    simp only [memSet]
    split
    · rename_i hka
      split
      · exact memWfFrom_mono t (k + 1) lo (by omega) ht
      · rename_i hv
        simp only [memWfFrom, Bool.and_eq_true, decide_eq_true_eq]
        exact ⟨⟨ha, hv⟩, by rw [← hka]; exact ht⟩
    · split
      · split
        · simp only [memWfFrom, Bool.and_eq_true, decide_eq_true_eq]; exact ⟨⟨hk, hb⟩, ht⟩
        · rename_i hlt hv
          simp only [memWfFrom, Bool.and_eq_true, decide_eq_true_eq]
          exact ⟨⟨ha, hv⟩, ⟨by omega, hb⟩, ht⟩
      · simp only [memWfFrom, Bool.and_eq_true, decide_eq_true_eq]
        exact ⟨⟨hk, hb⟩, ih (k + 1) a v (by omega) ht⟩

/-- Storing one byte keeps the canonical form. -/
theorem memory_wf_memSet {m : List (Nat × Byte)} (a : Nat) (v : Byte) (h : Memory.wf m = true) :
    Memory.wf (memSet a v m) = true := memWfFrom_memSet m 0 a v (Nat.zero_le _) h

/-- Storing bytes keeps the canonical form. -/
theorem memory_wf_memWrite (bs : List Byte) : ∀ (a : Nat) (m : List (Nat × Byte)), Memory.wf m = true →
    Memory.wf (memWrite a bs m) = true := by
  induction bs with
  | nil => intro a m h; exact h
  | cons b bs ih => intro a m h; exact ih (a + 1) _ (memory_wf_memSet a b h)

/-- Dropping listed bytes keeps the canonical form. -/
theorem memWfFrom_filter (p : Nat × Byte → Bool) (m : List (Nat × Byte)) :
    ∀ lo, memWfFrom lo m = true → memWfFrom lo (m.filter p) = true := by
  induction m with
  | nil => intros; rfl
  | cons q t ih =>
    intro lo h
    obtain ⟨k, b⟩ := q
    simp only [memWfFrom, Bool.and_eq_true, decide_eq_true_eq] at h
    simp only [List.filter]
    split
    · simp only [memWfFrom, Bool.and_eq_true, decide_eq_true_eq]; exact ⟨h.1, ih _ h.2⟩
    · exact memWfFrom_mono _ (k + 1) lo (by omega) (ih _ h.2)

/-- The byte just stored is read back, in a canonical memory. -/
theorem memGet_memSet_same (m : List (Nat × Byte)) :
    ∀ (lo a : Nat) (v : Byte), memWfFrom lo m = true → memGet a (memSet a v m) = v := by
  induction m with
  | nil => intro lo a v _; simp only [memSet]; split <;> simp_all [memGet]
  | cons p t ih =>
    intro lo a v h
    obtain ⟨k, b⟩ := p
    simp only [memWfFrom, Bool.and_eq_true, decide_eq_true_eq] at h
    simp only [memSet]
    split
    · rename_i hk
      split
      · rename_i hv; rw [memGet_of_wfFrom t (k + 1) a h.2 (by omega), hv]
      · simp [memGet]
    · rename_i hk
      split
      · rename_i hlt
        split
        · rename_i hv; simp [memGet, hk, hlt, hv]
        · simp [memGet]
      · rename_i hlt
        simp only [memGet, if_neg hk, if_neg hlt]
        exact ih (k + 1) a v h.2

/-- A byte stored elsewhere leaves the read as it was. -/
theorem memGet_memSet_other (m : List (Nat × Byte)) :
    ∀ (lo a c : Nat) (v : Byte), memWfFrom lo m = true → c ≠ a → memGet c (memSet a v m) = memGet c m := by
  induction m with
  | nil =>
    intro lo a c v _ hc
    have : a ≠ c := fun h => hc h.symm
    simp only [memSet]; split <;> simp [memGet, this]
  | cons p t ih =>
    intro lo a c v h hc
    obtain ⟨k, b⟩ := p
    simp only [memWfFrom, Bool.and_eq_true, decide_eq_true_eq] at h
    have hac : a ≠ c := fun h => hc h.symm
    simp only [memSet]
    split
    · rename_i hk
      have hkc : k ≠ c := by omega
      split
      · simp only [memGet, if_neg hkc]
        split
        · rename_i hlt; exact memGet_of_wfFrom t (k + 1) c h.2 (by omega)
        · rfl
      · subst hk; simp [memGet, hkc]
    · split
      · rename_i hk hlt
        split
        · rfl
        · simp only [memGet, if_neg hac]
          split
          · rename_i h2
            by_cases hkc : k = c
            · omega
            · simp only [if_neg hkc]; rw [if_pos (by omega)]
          · rfl
      · simp only [memGet]
        rw [ih (k + 1) a c v h.2 hc]

/-- Outside the stored bytes a memory reads as before. -/
theorem memGet_memWrite_outside (bs : List Byte) : ∀ (a c : Nat) (m : List (Nat × Byte)), Memory.wf m = true →
    (c < a ∨ a + bs.length ≤ c) → memGet c (memWrite a bs m) = memGet c m := by
  induction bs with
  | nil => intros; rfl
  | cons b bs ih =>
    intro a c m h hc
    simp only [List.length_cons] at hc
    simp only [memWrite]
    rw [ih (a + 1) c _ (memory_wf_memSet a b h) (by omega), memGet_memSet_other m 0 a c b h (by omega)]

/-- Bytes just stored are read back. -/
theorem memRead_memWrite (bs : List Byte) : ∀ (a : Nat) (m : List (Nat × Byte)), Memory.wf m = true →
    memRead a bs.length (memWrite a bs m) = bs := by
  induction bs with
  | nil => intros; rfl
  | cons b bs ih =>
    intro a m h
    have hw := memory_wf_memSet a b h
    simp only [List.length_cons, memRead, memWrite]
    rw [memGet_memWrite_outside bs (a + 1) a _ hw (by omega), memGet_memSet_same m 0 a b h, ih (a + 1) _ hw]

/-- Bytes that lie apart from the stored ones are read as before. -/
theorem memRead_memWrite_apart (n : Nat) : ∀ (c a : Nat) (bs : List Byte) (m : List (Nat × Byte)), Memory.wf m = true →
    (c + n ≤ a ∨ a + bs.length ≤ c) → memRead c n (memWrite a bs m) = memRead c n m := by
  induction n with
  | zero => intros; rfl
  | succ n ih =>
    intro c a bs m h hc
    simp only [memRead]
    rw [memGet_memWrite_outside bs a c m h (by omega), ih (c + 1) a bs m h (by omega)]

/-- The memories at reset are canonical. -/
theorem reset_mems_wf : State.reset.eng.mem.wf = true := by decide

end Sys2Proof.Machine
end

