-- ==== Sys2Proof/Laws/State.lean ====
section
/-! SUPPORT. What each update of the engine leaves unchanged, field by field. -/

namespace Sys2Proof.Machine

variable (e : Engine)

@[simp] theorem setReg_regs (r : Reg) (v : Word) : (setReg r v e).regs = tput r v e.regs := rfl
@[simp] theorem setReg_freeCtr (r : Reg) (v : Word) : (setReg r v e).freeCtr = e.freeCtr := rfl
@[simp] theorem setReg_timeShadow (r : Reg) (v : Word) : (setReg r v e).timeShadow = e.timeShadow := rfl
@[simp] theorem setReg_busData (r : Reg) (v : Word) : (setReg r v e).busData = e.busData := rfl
@[simp] theorem setReg_pinFault (r : Reg) (v : Word) : (setReg r v e).pinFault = e.pinFault := rfl
@[simp] theorem setReg_pinAlert (r : Reg) (v : Word) : (setReg r v e).pinAlert = e.pinAlert := rfl
@[simp] theorem setReg_pinAlive (r : Reg) (v : Word) : (setReg r v e).pinAlive = e.pinAlive := rfl
@[simp] theorem setReg_inReset (r : Reg) (v : Word) : (setReg r v e).inReset = e.inReset := rfl
@[simp] theorem setReg_mem (r : Reg) (v : Word) : (setReg r v e).mem = e.mem := rfl
@[simp] theorem setReg_front (r : Reg) (v : Word) : (setReg r v e).front = e.front := rfl
@[simp] theorem setReg_tasks (r : Reg) (v : Word) : (setReg r v e).tasks = e.tasks := rfl
@[simp] theorem setReg_jobs (r : Reg) (v : Word) : (setReg r v e).jobs = e.jobs := rfl
@[simp] theorem setReg_ctxs (r : Reg) (v : Word) : (setReg r v e).ctxs = e.ctxs := rfl
@[simp] theorem setReg_shards (r : Reg) (v : Word) : (setReg r v e).shards = e.shards := rfl
@[simp] theorem setReg_tiles (r : Reg) (v : Word) : (setReg r v e).tiles = e.tiles := rfl
@[simp] theorem setReg_homeRuns (r : Reg) (v : Word) : (setReg r v e).homeRuns = e.homeRuns := rfl
@[simp] theorem setReg_rowReqs (r : Reg) (v : Word) : (setReg r v e).rowReqs = e.rowReqs := rfl
@[simp] theorem setReg_nextId (r : Reg) (v : Word) : (setReg r v e).nextId = e.nextId := rfl
@[simp] theorem setReg_lostRegs (r : Reg) (v : Word) : (setReg r v e).lostRegs = e.lostRegs := rfl
@[simp] theorem setReg_counters (r : Reg) (v : Word) : (setReg r v e).counters = e.counters := rfl
@[simp] theorem setReg_logs (r : Reg) (v : Word) : (setReg r v e).logs = e.logs := rfl
@[simp] theorem setReg_net (r : Reg) (v : Word) : (setReg r v e).net = e.net := rfl
@[simp] theorem setReg_grad (r : Reg) (v : Word) : (setReg r v e).grad = e.grad := rfl
@[simp] theorem setReg_cache (r : Reg) (v : Word) : (setReg r v e).cache = e.cache := rfl
@[simp] theorem setReg_upd (r : Reg) (v : Word) : (setReg r v e).upd = e.upd := rfl
@[simp] theorem setReg_hot (r : Reg) (v : Word) : (setReg r v e).hot = e.hot := rfl
@[simp] theorem setReg_safe (r : Reg) (v : Word) : (setReg r v e).safe = e.safe := rfl
@[simp] theorem setReg_power (r : Reg) (v : Word) : (setReg r v e).power = e.power := rfl
@[simp] theorem setReg_near (r : Reg) (v : Word) : (setReg r v e).near = e.near := rfl

@[simp] theorem setF_freeCtr (r : Reg) (f : Field) (x : Nat) : (setF r f x e).freeCtr = e.freeCtr := rfl
@[simp] theorem setF_timeShadow (r : Reg) (f : Field) (x : Nat) : (setF r f x e).timeShadow = e.timeShadow := rfl
@[simp] theorem setF_busData (r : Reg) (f : Field) (x : Nat) : (setF r f x e).busData = e.busData := rfl
@[simp] theorem setF_pinFault (r : Reg) (f : Field) (x : Nat) : (setF r f x e).pinFault = e.pinFault := rfl
@[simp] theorem setF_pinAlert (r : Reg) (f : Field) (x : Nat) : (setF r f x e).pinAlert = e.pinAlert := rfl
@[simp] theorem setF_pinAlive (r : Reg) (f : Field) (x : Nat) : (setF r f x e).pinAlive = e.pinAlive := rfl
@[simp] theorem setF_inReset (r : Reg) (f : Field) (x : Nat) : (setF r f x e).inReset = e.inReset := rfl
@[simp] theorem setF_mem (r : Reg) (f : Field) (x : Nat) : (setF r f x e).mem = e.mem := rfl
@[simp] theorem setF_front (r : Reg) (f : Field) (x : Nat) : (setF r f x e).front = e.front := rfl
@[simp] theorem setF_tasks (r : Reg) (f : Field) (x : Nat) : (setF r f x e).tasks = e.tasks := rfl
@[simp] theorem setF_jobs (r : Reg) (f : Field) (x : Nat) : (setF r f x e).jobs = e.jobs := rfl
@[simp] theorem setF_ctxs (r : Reg) (f : Field) (x : Nat) : (setF r f x e).ctxs = e.ctxs := rfl
@[simp] theorem setF_shards (r : Reg) (f : Field) (x : Nat) : (setF r f x e).shards = e.shards := rfl
@[simp] theorem setF_tiles (r : Reg) (f : Field) (x : Nat) : (setF r f x e).tiles = e.tiles := rfl
@[simp] theorem setF_homeRuns (r : Reg) (f : Field) (x : Nat) : (setF r f x e).homeRuns = e.homeRuns := rfl
@[simp] theorem setF_rowReqs (r : Reg) (f : Field) (x : Nat) : (setF r f x e).rowReqs = e.rowReqs := rfl
@[simp] theorem setF_nextId (r : Reg) (f : Field) (x : Nat) : (setF r f x e).nextId = e.nextId := rfl
@[simp] theorem setF_lostRegs (r : Reg) (f : Field) (x : Nat) : (setF r f x e).lostRegs = e.lostRegs := rfl
@[simp] theorem setF_counters (r : Reg) (f : Field) (x : Nat) : (setF r f x e).counters = e.counters := rfl
@[simp] theorem setF_logs (r : Reg) (f : Field) (x : Nat) : (setF r f x e).logs = e.logs := rfl
@[simp] theorem setF_net (r : Reg) (f : Field) (x : Nat) : (setF r f x e).net = e.net := rfl
@[simp] theorem setF_grad (r : Reg) (f : Field) (x : Nat) : (setF r f x e).grad = e.grad := rfl
@[simp] theorem setF_cache (r : Reg) (f : Field) (x : Nat) : (setF r f x e).cache = e.cache := rfl
@[simp] theorem setF_upd (r : Reg) (f : Field) (x : Nat) : (setF r f x e).upd = e.upd := rfl
@[simp] theorem setF_hot (r : Reg) (f : Field) (x : Nat) : (setF r f x e).hot = e.hot := rfl
@[simp] theorem setF_safe (r : Reg) (f : Field) (x : Nat) : (setF r f x e).safe = e.safe := rfl
@[simp] theorem setF_power (r : Reg) (f : Field) (x : Nat) : (setF r f x e).power = e.power := rfl
@[simp] theorem setF_near (r : Reg) (f : Field) (x : Nat) : (setF r f x e).near = e.near := rfl

@[simp] theorem setMem_regs (m : Mems) : (setMem m e).regs = e.regs := rfl
@[simp] theorem setMem_freeCtr (m : Mems) : (setMem m e).freeCtr = e.freeCtr := rfl
@[simp] theorem setMem_timeShadow (m : Mems) : (setMem m e).timeShadow = e.timeShadow := rfl
@[simp] theorem setMem_busData (m : Mems) : (setMem m e).busData = e.busData := rfl
@[simp] theorem setMem_pinFault (m : Mems) : (setMem m e).pinFault = e.pinFault := rfl
@[simp] theorem setMem_pinAlert (m : Mems) : (setMem m e).pinAlert = e.pinAlert := rfl
@[simp] theorem setMem_pinAlive (m : Mems) : (setMem m e).pinAlive = e.pinAlive := rfl
@[simp] theorem setMem_inReset (m : Mems) : (setMem m e).inReset = e.inReset := rfl
@[simp] theorem setMem_mem (m : Mems) : (setMem m e).mem = m := rfl
@[simp] theorem setMem_front (m : Mems) : (setMem m e).front = e.front := rfl
@[simp] theorem setMem_tasks (m : Mems) : (setMem m e).tasks = e.tasks := rfl
@[simp] theorem setMem_jobs (m : Mems) : (setMem m e).jobs = e.jobs := rfl
@[simp] theorem setMem_ctxs (m : Mems) : (setMem m e).ctxs = e.ctxs := rfl
@[simp] theorem setMem_shards (m : Mems) : (setMem m e).shards = e.shards := rfl
@[simp] theorem setMem_tiles (m : Mems) : (setMem m e).tiles = e.tiles := rfl
@[simp] theorem setMem_homeRuns (m : Mems) : (setMem m e).homeRuns = e.homeRuns := rfl
@[simp] theorem setMem_rowReqs (m : Mems) : (setMem m e).rowReqs = e.rowReqs := rfl
@[simp] theorem setMem_nextId (m : Mems) : (setMem m e).nextId = e.nextId := rfl
@[simp] theorem setMem_lostRegs (m : Mems) : (setMem m e).lostRegs = e.lostRegs := rfl
@[simp] theorem setMem_counters (m : Mems) : (setMem m e).counters = e.counters := rfl
@[simp] theorem setMem_logs (m : Mems) : (setMem m e).logs = e.logs := rfl
@[simp] theorem setMem_net (m : Mems) : (setMem m e).net = e.net := rfl
@[simp] theorem setMem_grad (m : Mems) : (setMem m e).grad = e.grad := rfl
@[simp] theorem setMem_cache (m : Mems) : (setMem m e).cache = e.cache := rfl
@[simp] theorem setMem_upd (m : Mems) : (setMem m e).upd = e.upd := rfl
@[simp] theorem setMem_hot (m : Mems) : (setMem m e).hot = e.hot := rfl
@[simp] theorem setMem_safe (m : Mems) : (setMem m e).safe = e.safe := rfl
@[simp] theorem setMem_power (m : Mems) : (setMem m e).power = e.power := rfl
@[simp] theorem setMem_near (m : Mems) : (setMem m e).near = e.near := rfl

@[simp] theorem setNet_regs (n : Net) : (setNet n e).regs = e.regs := rfl
@[simp] theorem setNet_freeCtr (n : Net) : (setNet n e).freeCtr = e.freeCtr := rfl
@[simp] theorem setNet_timeShadow (n : Net) : (setNet n e).timeShadow = e.timeShadow := rfl
@[simp] theorem setNet_busData (n : Net) : (setNet n e).busData = e.busData := rfl
@[simp] theorem setNet_pinFault (n : Net) : (setNet n e).pinFault = e.pinFault := rfl
@[simp] theorem setNet_pinAlert (n : Net) : (setNet n e).pinAlert = e.pinAlert := rfl
@[simp] theorem setNet_pinAlive (n : Net) : (setNet n e).pinAlive = e.pinAlive := rfl
@[simp] theorem setNet_inReset (n : Net) : (setNet n e).inReset = e.inReset := rfl
@[simp] theorem setNet_mem (n : Net) : (setNet n e).mem = e.mem := rfl
@[simp] theorem setNet_front (n : Net) : (setNet n e).front = e.front := rfl
@[simp] theorem setNet_tasks (n : Net) : (setNet n e).tasks = e.tasks := rfl
@[simp] theorem setNet_jobs (n : Net) : (setNet n e).jobs = e.jobs := rfl
@[simp] theorem setNet_ctxs (n : Net) : (setNet n e).ctxs = e.ctxs := rfl
@[simp] theorem setNet_shards (n : Net) : (setNet n e).shards = e.shards := rfl
@[simp] theorem setNet_tiles (n : Net) : (setNet n e).tiles = e.tiles := rfl
@[simp] theorem setNet_homeRuns (n : Net) : (setNet n e).homeRuns = e.homeRuns := rfl
@[simp] theorem setNet_rowReqs (n : Net) : (setNet n e).rowReqs = e.rowReqs := rfl
@[simp] theorem setNet_nextId (n : Net) : (setNet n e).nextId = e.nextId := rfl
@[simp] theorem setNet_lostRegs (n : Net) : (setNet n e).lostRegs = e.lostRegs := rfl
@[simp] theorem setNet_counters (n : Net) : (setNet n e).counters = e.counters := rfl
@[simp] theorem setNet_logs (n : Net) : (setNet n e).logs = e.logs := rfl
@[simp] theorem setNet_net (n : Net) : (setNet n e).net = n := rfl
@[simp] theorem setNet_grad (n : Net) : (setNet n e).grad = e.grad := rfl
@[simp] theorem setNet_cache (n : Net) : (setNet n e).cache = e.cache := rfl
@[simp] theorem setNet_upd (n : Net) : (setNet n e).upd = e.upd := rfl
@[simp] theorem setNet_hot (n : Net) : (setNet n e).hot = e.hot := rfl
@[simp] theorem setNet_safe (n : Net) : (setNet n e).safe = e.safe := rfl
@[simp] theorem setNet_power (n : Net) : (setNet n e).power = e.power := rfl
@[simp] theorem setNet_near (n : Net) : (setNet n e).near = e.near := rfl

@[simp] theorem setLog_regs (n : Nat) (l : LogSlice) : (setLog n l e).regs = e.regs := rfl
@[simp] theorem setLog_freeCtr (n : Nat) (l : LogSlice) : (setLog n l e).freeCtr = e.freeCtr := rfl
@[simp] theorem setLog_timeShadow (n : Nat) (l : LogSlice) : (setLog n l e).timeShadow = e.timeShadow := rfl
@[simp] theorem setLog_busData (n : Nat) (l : LogSlice) : (setLog n l e).busData = e.busData := rfl
@[simp] theorem setLog_pinFault (n : Nat) (l : LogSlice) : (setLog n l e).pinFault = e.pinFault := rfl
@[simp] theorem setLog_pinAlert (n : Nat) (l : LogSlice) : (setLog n l e).pinAlert = e.pinAlert := rfl
@[simp] theorem setLog_pinAlive (n : Nat) (l : LogSlice) : (setLog n l e).pinAlive = e.pinAlive := rfl
@[simp] theorem setLog_inReset (n : Nat) (l : LogSlice) : (setLog n l e).inReset = e.inReset := rfl
@[simp] theorem setLog_mem (n : Nat) (l : LogSlice) : (setLog n l e).mem = e.mem := rfl
@[simp] theorem setLog_front (n : Nat) (l : LogSlice) : (setLog n l e).front = e.front := rfl
@[simp] theorem setLog_tasks (n : Nat) (l : LogSlice) : (setLog n l e).tasks = e.tasks := rfl
@[simp] theorem setLog_jobs (n : Nat) (l : LogSlice) : (setLog n l e).jobs = e.jobs := rfl
@[simp] theorem setLog_ctxs (n : Nat) (l : LogSlice) : (setLog n l e).ctxs = e.ctxs := rfl
@[simp] theorem setLog_shards (n : Nat) (l : LogSlice) : (setLog n l e).shards = e.shards := rfl
@[simp] theorem setLog_tiles (n : Nat) (l : LogSlice) : (setLog n l e).tiles = e.tiles := rfl
@[simp] theorem setLog_homeRuns (n : Nat) (l : LogSlice) : (setLog n l e).homeRuns = e.homeRuns := rfl
@[simp] theorem setLog_rowReqs (n : Nat) (l : LogSlice) : (setLog n l e).rowReqs = e.rowReqs := rfl
@[simp] theorem setLog_nextId (n : Nat) (l : LogSlice) : (setLog n l e).nextId = e.nextId := rfl
@[simp] theorem setLog_lostRegs (n : Nat) (l : LogSlice) : (setLog n l e).lostRegs = e.lostRegs := rfl
@[simp] theorem setLog_counters (n : Nat) (l : LogSlice) : (setLog n l e).counters = e.counters := rfl
@[simp] theorem setLog_logs (n : Nat) (l : LogSlice) : (setLog n l e).logs = tput n l e.logs := rfl
@[simp] theorem setLog_net (n : Nat) (l : LogSlice) : (setLog n l e).net = e.net := rfl
@[simp] theorem setLog_grad (n : Nat) (l : LogSlice) : (setLog n l e).grad = e.grad := rfl
@[simp] theorem setLog_cache (n : Nat) (l : LogSlice) : (setLog n l e).cache = e.cache := rfl
@[simp] theorem setLog_upd (n : Nat) (l : LogSlice) : (setLog n l e).upd = e.upd := rfl
@[simp] theorem setLog_hot (n : Nat) (l : LogSlice) : (setLog n l e).hot = e.hot := rfl
@[simp] theorem setLog_safe (n : Nat) (l : LogSlice) : (setLog n l e).safe = e.safe := rfl
@[simp] theorem setLog_power (n : Nat) (l : LogSlice) : (setLog n l e).power = e.power := rfl
@[simp] theorem setLog_near (n : Nat) (l : LogSlice) : (setLog n l e).near = e.near := rfl

@[simp] theorem addCounter_regs (n i k : Nat) : (addCounter n i k e).regs = e.regs := rfl
@[simp] theorem addCounter_freeCtr (n i k : Nat) : (addCounter n i k e).freeCtr = e.freeCtr := rfl
@[simp] theorem addCounter_timeShadow (n i k : Nat) : (addCounter n i k e).timeShadow = e.timeShadow := rfl
@[simp] theorem addCounter_busData (n i k : Nat) : (addCounter n i k e).busData = e.busData := rfl
@[simp] theorem addCounter_pinFault (n i k : Nat) : (addCounter n i k e).pinFault = e.pinFault := rfl
@[simp] theorem addCounter_pinAlert (n i k : Nat) : (addCounter n i k e).pinAlert = e.pinAlert := rfl
@[simp] theorem addCounter_pinAlive (n i k : Nat) : (addCounter n i k e).pinAlive = e.pinAlive := rfl
@[simp] theorem addCounter_inReset (n i k : Nat) : (addCounter n i k e).inReset = e.inReset := rfl
@[simp] theorem addCounter_mem (n i k : Nat) : (addCounter n i k e).mem = e.mem := rfl
@[simp] theorem addCounter_front (n i k : Nat) : (addCounter n i k e).front = e.front := rfl
@[simp] theorem addCounter_tasks (n i k : Nat) : (addCounter n i k e).tasks = e.tasks := rfl
@[simp] theorem addCounter_jobs (n i k : Nat) : (addCounter n i k e).jobs = e.jobs := rfl
@[simp] theorem addCounter_ctxs (n i k : Nat) : (addCounter n i k e).ctxs = e.ctxs := rfl
@[simp] theorem addCounter_shards (n i k : Nat) : (addCounter n i k e).shards = e.shards := rfl
@[simp] theorem addCounter_tiles (n i k : Nat) : (addCounter n i k e).tiles = e.tiles := rfl
@[simp] theorem addCounter_homeRuns (n i k : Nat) : (addCounter n i k e).homeRuns = e.homeRuns := rfl
@[simp] theorem addCounter_rowReqs (n i k : Nat) : (addCounter n i k e).rowReqs = e.rowReqs := rfl
@[simp] theorem addCounter_nextId (n i k : Nat) : (addCounter n i k e).nextId = e.nextId := rfl
@[simp] theorem addCounter_lostRegs (n i k : Nat) : (addCounter n i k e).lostRegs = e.lostRegs := rfl
@[simp] theorem addCounter_logs (n i k : Nat) : (addCounter n i k e).logs = e.logs := rfl
@[simp] theorem addCounter_net (n i k : Nat) : (addCounter n i k e).net = e.net := rfl
@[simp] theorem addCounter_grad (n i k : Nat) : (addCounter n i k e).grad = e.grad := rfl
@[simp] theorem addCounter_cache (n i k : Nat) : (addCounter n i k e).cache = e.cache := rfl
@[simp] theorem addCounter_upd (n i k : Nat) : (addCounter n i k e).upd = e.upd := rfl
@[simp] theorem addCounter_hot (n i k : Nat) : (addCounter n i k e).hot = e.hot := rfl
@[simp] theorem addCounter_safe (n i k : Nat) : (addCounter n i k e).safe = e.safe := rfl
@[simp] theorem addCounter_power (n i k : Nat) : (addCounter n i k e).power = e.power := rfl
@[simp] theorem addCounter_near (n i k : Nat) : (addCounter n i k e).near = e.near := rfl

@[simp] theorem setSlot_regs (n : Nat) (c : CtxSlot) : (setSlot n c e).regs = e.regs := rfl
@[simp] theorem setSlot_freeCtr (n : Nat) (c : CtxSlot) : (setSlot n c e).freeCtr = e.freeCtr := rfl
@[simp] theorem setSlot_timeShadow (n : Nat) (c : CtxSlot) : (setSlot n c e).timeShadow = e.timeShadow := rfl
@[simp] theorem setSlot_busData (n : Nat) (c : CtxSlot) : (setSlot n c e).busData = e.busData := rfl
@[simp] theorem setSlot_pinFault (n : Nat) (c : CtxSlot) : (setSlot n c e).pinFault = e.pinFault := rfl
@[simp] theorem setSlot_pinAlert (n : Nat) (c : CtxSlot) : (setSlot n c e).pinAlert = e.pinAlert := rfl
@[simp] theorem setSlot_pinAlive (n : Nat) (c : CtxSlot) : (setSlot n c e).pinAlive = e.pinAlive := rfl
@[simp] theorem setSlot_inReset (n : Nat) (c : CtxSlot) : (setSlot n c e).inReset = e.inReset := rfl
@[simp] theorem setSlot_mem (n : Nat) (c : CtxSlot) : (setSlot n c e).mem = e.mem := rfl
@[simp] theorem setSlot_front (n : Nat) (c : CtxSlot) : (setSlot n c e).front = e.front := rfl
@[simp] theorem setSlot_tasks (n : Nat) (c : CtxSlot) : (setSlot n c e).tasks = e.tasks := rfl
@[simp] theorem setSlot_jobs (n : Nat) (c : CtxSlot) : (setSlot n c e).jobs = e.jobs := rfl
@[simp] theorem setSlot_ctxs (n : Nat) (c : CtxSlot) : (setSlot n c e).ctxs = tput n c e.ctxs := rfl
@[simp] theorem setSlot_shards (n : Nat) (c : CtxSlot) : (setSlot n c e).shards = e.shards := rfl
@[simp] theorem setSlot_tiles (n : Nat) (c : CtxSlot) : (setSlot n c e).tiles = e.tiles := rfl
@[simp] theorem setSlot_homeRuns (n : Nat) (c : CtxSlot) : (setSlot n c e).homeRuns = e.homeRuns := rfl
@[simp] theorem setSlot_rowReqs (n : Nat) (c : CtxSlot) : (setSlot n c e).rowReqs = e.rowReqs := rfl
@[simp] theorem setSlot_nextId (n : Nat) (c : CtxSlot) : (setSlot n c e).nextId = e.nextId := rfl
@[simp] theorem setSlot_lostRegs (n : Nat) (c : CtxSlot) : (setSlot n c e).lostRegs = e.lostRegs := rfl
@[simp] theorem setSlot_counters (n : Nat) (c : CtxSlot) : (setSlot n c e).counters = e.counters := rfl
@[simp] theorem setSlot_logs (n : Nat) (c : CtxSlot) : (setSlot n c e).logs = e.logs := rfl
@[simp] theorem setSlot_net (n : Nat) (c : CtxSlot) : (setSlot n c e).net = e.net := rfl
@[simp] theorem setSlot_grad (n : Nat) (c : CtxSlot) : (setSlot n c e).grad = e.grad := rfl
@[simp] theorem setSlot_cache (n : Nat) (c : CtxSlot) : (setSlot n c e).cache = e.cache := rfl
@[simp] theorem setSlot_upd (n : Nat) (c : CtxSlot) : (setSlot n c e).upd = e.upd := rfl
@[simp] theorem setSlot_hot (n : Nat) (c : CtxSlot) : (setSlot n c e).hot = e.hot := rfl
@[simp] theorem setSlot_safe (n : Nat) (c : CtxSlot) : (setSlot n c e).safe = e.safe := rfl
@[simp] theorem setSlot_power (n : Nat) (c : CtxSlot) : (setSlot n c e).power = e.power := rfl
@[simp] theorem setSlot_near (n : Nat) (c : CtxSlot) : (setSlot n c e).near = e.near := rfl

@[simp] theorem setRing_regs (r : Nat) (x : Ring) : (setRing r x e).regs = e.regs := rfl
@[simp] theorem setRing_freeCtr (r : Nat) (x : Ring) : (setRing r x e).freeCtr = e.freeCtr := rfl
@[simp] theorem setRing_timeShadow (r : Nat) (x : Ring) : (setRing r x e).timeShadow = e.timeShadow := rfl
@[simp] theorem setRing_busData (r : Nat) (x : Ring) : (setRing r x e).busData = e.busData := rfl
@[simp] theorem setRing_pinFault (r : Nat) (x : Ring) : (setRing r x e).pinFault = e.pinFault := rfl
@[simp] theorem setRing_pinAlert (r : Nat) (x : Ring) : (setRing r x e).pinAlert = e.pinAlert := rfl
@[simp] theorem setRing_pinAlive (r : Nat) (x : Ring) : (setRing r x e).pinAlive = e.pinAlive := rfl
@[simp] theorem setRing_inReset (r : Nat) (x : Ring) : (setRing r x e).inReset = e.inReset := rfl
@[simp] theorem setRing_mem (r : Nat) (x : Ring) : (setRing r x e).mem = e.mem := rfl
@[simp] theorem setRing_front (r : Nat) (x : Ring) : (setRing r x e).front = { e.front with rings := tput r x e.front.rings } := rfl
@[simp] theorem setRing_tasks (r : Nat) (x : Ring) : (setRing r x e).tasks = e.tasks := rfl
@[simp] theorem setRing_jobs (r : Nat) (x : Ring) : (setRing r x e).jobs = e.jobs := rfl
@[simp] theorem setRing_ctxs (r : Nat) (x : Ring) : (setRing r x e).ctxs = e.ctxs := rfl
@[simp] theorem setRing_shards (r : Nat) (x : Ring) : (setRing r x e).shards = e.shards := rfl
@[simp] theorem setRing_tiles (r : Nat) (x : Ring) : (setRing r x e).tiles = e.tiles := rfl
@[simp] theorem setRing_homeRuns (r : Nat) (x : Ring) : (setRing r x e).homeRuns = e.homeRuns := rfl
@[simp] theorem setRing_rowReqs (r : Nat) (x : Ring) : (setRing r x e).rowReqs = e.rowReqs := rfl
@[simp] theorem setRing_nextId (r : Nat) (x : Ring) : (setRing r x e).nextId = e.nextId := rfl
@[simp] theorem setRing_lostRegs (r : Nat) (x : Ring) : (setRing r x e).lostRegs = e.lostRegs := rfl
@[simp] theorem setRing_counters (r : Nat) (x : Ring) : (setRing r x e).counters = e.counters := rfl
@[simp] theorem setRing_logs (r : Nat) (x : Ring) : (setRing r x e).logs = e.logs := rfl
@[simp] theorem setRing_net (r : Nat) (x : Ring) : (setRing r x e).net = e.net := rfl
@[simp] theorem setRing_grad (r : Nat) (x : Ring) : (setRing r x e).grad = e.grad := rfl
@[simp] theorem setRing_cache (r : Nat) (x : Ring) : (setRing r x e).cache = e.cache := rfl
@[simp] theorem setRing_upd (r : Nat) (x : Ring) : (setRing r x e).upd = e.upd := rfl
@[simp] theorem setRing_hot (r : Nat) (x : Ring) : (setRing r x e).hot = e.hot := rfl
@[simp] theorem setRing_safe (r : Nat) (x : Ring) : (setRing r x e).safe = e.safe := rfl
@[simp] theorem setRing_power (r : Nat) (x : Ring) : (setRing r x e).power = e.power := rfl
@[simp] theorem setRing_near (r : Nat) (x : Ring) : (setRing r x e).near = e.near := rfl

@[simp] theorem updRing_regs (r : Nat) (f : Ring → Ring) : (updRing r f e).regs = e.regs := rfl
@[simp] theorem updRing_freeCtr (r : Nat) (f : Ring → Ring) : (updRing r f e).freeCtr = e.freeCtr := rfl
@[simp] theorem updRing_timeShadow (r : Nat) (f : Ring → Ring) : (updRing r f e).timeShadow = e.timeShadow := rfl
@[simp] theorem updRing_busData (r : Nat) (f : Ring → Ring) : (updRing r f e).busData = e.busData := rfl
@[simp] theorem updRing_pinFault (r : Nat) (f : Ring → Ring) : (updRing r f e).pinFault = e.pinFault := rfl
@[simp] theorem updRing_pinAlert (r : Nat) (f : Ring → Ring) : (updRing r f e).pinAlert = e.pinAlert := rfl
@[simp] theorem updRing_pinAlive (r : Nat) (f : Ring → Ring) : (updRing r f e).pinAlive = e.pinAlive := rfl
@[simp] theorem updRing_inReset (r : Nat) (f : Ring → Ring) : (updRing r f e).inReset = e.inReset := rfl
@[simp] theorem updRing_mem (r : Nat) (f : Ring → Ring) : (updRing r f e).mem = e.mem := rfl
@[simp] theorem updRing_front (r : Nat) (f : Ring → Ring) : (updRing r f e).front = { e.front with rings := tput r (f (ringOf r e)) e.front.rings } := rfl
@[simp] theorem updRing_tasks (r : Nat) (f : Ring → Ring) : (updRing r f e).tasks = e.tasks := rfl
@[simp] theorem updRing_jobs (r : Nat) (f : Ring → Ring) : (updRing r f e).jobs = e.jobs := rfl
@[simp] theorem updRing_ctxs (r : Nat) (f : Ring → Ring) : (updRing r f e).ctxs = e.ctxs := rfl
@[simp] theorem updRing_shards (r : Nat) (f : Ring → Ring) : (updRing r f e).shards = e.shards := rfl
@[simp] theorem updRing_tiles (r : Nat) (f : Ring → Ring) : (updRing r f e).tiles = e.tiles := rfl
@[simp] theorem updRing_homeRuns (r : Nat) (f : Ring → Ring) : (updRing r f e).homeRuns = e.homeRuns := rfl
@[simp] theorem updRing_rowReqs (r : Nat) (f : Ring → Ring) : (updRing r f e).rowReqs = e.rowReqs := rfl
@[simp] theorem updRing_nextId (r : Nat) (f : Ring → Ring) : (updRing r f e).nextId = e.nextId := rfl
@[simp] theorem updRing_lostRegs (r : Nat) (f : Ring → Ring) : (updRing r f e).lostRegs = e.lostRegs := rfl
@[simp] theorem updRing_counters (r : Nat) (f : Ring → Ring) : (updRing r f e).counters = e.counters := rfl
@[simp] theorem updRing_logs (r : Nat) (f : Ring → Ring) : (updRing r f e).logs = e.logs := rfl
@[simp] theorem updRing_net (r : Nat) (f : Ring → Ring) : (updRing r f e).net = e.net := rfl
@[simp] theorem updRing_grad (r : Nat) (f : Ring → Ring) : (updRing r f e).grad = e.grad := rfl
@[simp] theorem updRing_cache (r : Nat) (f : Ring → Ring) : (updRing r f e).cache = e.cache := rfl
@[simp] theorem updRing_upd (r : Nat) (f : Ring → Ring) : (updRing r f e).upd = e.upd := rfl
@[simp] theorem updRing_hot (r : Nat) (f : Ring → Ring) : (updRing r f e).hot = e.hot := rfl
@[simp] theorem updRing_safe (r : Nat) (f : Ring → Ring) : (updRing r f e).safe = e.safe := rfl
@[simp] theorem updRing_power (r : Nat) (f : Ring → Ring) : (updRing r f e).power = e.power := rfl
@[simp] theorem updRing_near (r : Nat) (f : Ring → Ring) : (updRing r f e).near = e.near := rfl

@[simp] theorem updTask_regs (r : TaskRef) (f : Task → Task) : (updTask r f e).regs = e.regs := rfl
@[simp] theorem updTask_freeCtr (r : TaskRef) (f : Task → Task) : (updTask r f e).freeCtr = e.freeCtr := rfl
@[simp] theorem updTask_timeShadow (r : TaskRef) (f : Task → Task) : (updTask r f e).timeShadow = e.timeShadow := rfl
@[simp] theorem updTask_busData (r : TaskRef) (f : Task → Task) : (updTask r f e).busData = e.busData := rfl
@[simp] theorem updTask_pinFault (r : TaskRef) (f : Task → Task) : (updTask r f e).pinFault = e.pinFault := rfl
@[simp] theorem updTask_pinAlert (r : TaskRef) (f : Task → Task) : (updTask r f e).pinAlert = e.pinAlert := rfl
@[simp] theorem updTask_pinAlive (r : TaskRef) (f : Task → Task) : (updTask r f e).pinAlive = e.pinAlive := rfl
@[simp] theorem updTask_inReset (r : TaskRef) (f : Task → Task) : (updTask r f e).inReset = e.inReset := rfl
@[simp] theorem updTask_mem (r : TaskRef) (f : Task → Task) : (updTask r f e).mem = e.mem := rfl
@[simp] theorem updTask_front (r : TaskRef) (f : Task → Task) : (updTask r f e).front = e.front := rfl
@[simp] theorem updTask_jobs (r : TaskRef) (f : Task → Task) : (updTask r f e).jobs = e.jobs := rfl
@[simp] theorem updTask_ctxs (r : TaskRef) (f : Task → Task) : (updTask r f e).ctxs = e.ctxs := rfl
@[simp] theorem updTask_shards (r : TaskRef) (f : Task → Task) : (updTask r f e).shards = e.shards := rfl
@[simp] theorem updTask_tiles (r : TaskRef) (f : Task → Task) : (updTask r f e).tiles = e.tiles := rfl
@[simp] theorem updTask_homeRuns (r : TaskRef) (f : Task → Task) : (updTask r f e).homeRuns = e.homeRuns := rfl
@[simp] theorem updTask_rowReqs (r : TaskRef) (f : Task → Task) : (updTask r f e).rowReqs = e.rowReqs := rfl
@[simp] theorem updTask_nextId (r : TaskRef) (f : Task → Task) : (updTask r f e).nextId = e.nextId := rfl
@[simp] theorem updTask_lostRegs (r : TaskRef) (f : Task → Task) : (updTask r f e).lostRegs = e.lostRegs := rfl
@[simp] theorem updTask_counters (r : TaskRef) (f : Task → Task) : (updTask r f e).counters = e.counters := rfl
@[simp] theorem updTask_logs (r : TaskRef) (f : Task → Task) : (updTask r f e).logs = e.logs := rfl
@[simp] theorem updTask_net (r : TaskRef) (f : Task → Task) : (updTask r f e).net = e.net := rfl
@[simp] theorem updTask_grad (r : TaskRef) (f : Task → Task) : (updTask r f e).grad = e.grad := rfl
@[simp] theorem updTask_cache (r : TaskRef) (f : Task → Task) : (updTask r f e).cache = e.cache := rfl
@[simp] theorem updTask_upd (r : TaskRef) (f : Task → Task) : (updTask r f e).upd = e.upd := rfl
@[simp] theorem updTask_hot (r : TaskRef) (f : Task → Task) : (updTask r f e).hot = e.hot := rfl
@[simp] theorem updTask_safe (r : TaskRef) (f : Task → Task) : (updTask r f e).safe = e.safe := rfl
@[simp] theorem updTask_power (r : TaskRef) (f : Task → Task) : (updTask r f e).power = e.power := rfl
@[simp] theorem updTask_near (r : TaskRef) (f : Task → Task) : (updTask r f e).near = e.near := rfl

@[simp] theorem delTask_regs (r : TaskRef) : (delTask r e).regs = e.regs := rfl
@[simp] theorem delTask_freeCtr (r : TaskRef) : (delTask r e).freeCtr = e.freeCtr := rfl
@[simp] theorem delTask_timeShadow (r : TaskRef) : (delTask r e).timeShadow = e.timeShadow := rfl
@[simp] theorem delTask_busData (r : TaskRef) : (delTask r e).busData = e.busData := rfl
@[simp] theorem delTask_pinFault (r : TaskRef) : (delTask r e).pinFault = e.pinFault := rfl
@[simp] theorem delTask_pinAlert (r : TaskRef) : (delTask r e).pinAlert = e.pinAlert := rfl
@[simp] theorem delTask_pinAlive (r : TaskRef) : (delTask r e).pinAlive = e.pinAlive := rfl
@[simp] theorem delTask_inReset (r : TaskRef) : (delTask r e).inReset = e.inReset := rfl
@[simp] theorem delTask_mem (r : TaskRef) : (delTask r e).mem = e.mem := rfl
@[simp] theorem delTask_front (r : TaskRef) : (delTask r e).front = e.front := rfl
@[simp] theorem delTask_jobs (r : TaskRef) : (delTask r e).jobs = e.jobs := rfl
@[simp] theorem delTask_ctxs (r : TaskRef) : (delTask r e).ctxs = e.ctxs := rfl
@[simp] theorem delTask_shards (r : TaskRef) : (delTask r e).shards = e.shards := rfl
@[simp] theorem delTask_tiles (r : TaskRef) : (delTask r e).tiles = e.tiles := rfl
@[simp] theorem delTask_homeRuns (r : TaskRef) : (delTask r e).homeRuns = e.homeRuns := rfl
@[simp] theorem delTask_rowReqs (r : TaskRef) : (delTask r e).rowReqs = e.rowReqs := rfl
@[simp] theorem delTask_nextId (r : TaskRef) : (delTask r e).nextId = e.nextId := rfl
@[simp] theorem delTask_lostRegs (r : TaskRef) : (delTask r e).lostRegs = e.lostRegs := rfl
@[simp] theorem delTask_counters (r : TaskRef) : (delTask r e).counters = e.counters := rfl
@[simp] theorem delTask_logs (r : TaskRef) : (delTask r e).logs = e.logs := rfl
@[simp] theorem delTask_net (r : TaskRef) : (delTask r e).net = e.net := rfl
@[simp] theorem delTask_grad (r : TaskRef) : (delTask r e).grad = e.grad := rfl
@[simp] theorem delTask_cache (r : TaskRef) : (delTask r e).cache = e.cache := rfl
@[simp] theorem delTask_upd (r : TaskRef) : (delTask r e).upd = e.upd := rfl
@[simp] theorem delTask_hot (r : TaskRef) : (delTask r e).hot = e.hot := rfl
@[simp] theorem delTask_safe (r : TaskRef) : (delTask r e).safe = e.safe := rfl
@[simp] theorem delTask_power (r : TaskRef) : (delTask r e).power = e.power := rfl
@[simp] theorem delTask_near (r : TaskRef) : (delTask r e).near = e.near := rfl

@[simp] theorem updJob_regs (r : TaskRef) (f : Job → Job) : (updJob r f e).regs = e.regs := rfl
@[simp] theorem updJob_freeCtr (r : TaskRef) (f : Job → Job) : (updJob r f e).freeCtr = e.freeCtr := rfl
@[simp] theorem updJob_timeShadow (r : TaskRef) (f : Job → Job) : (updJob r f e).timeShadow = e.timeShadow := rfl
@[simp] theorem updJob_busData (r : TaskRef) (f : Job → Job) : (updJob r f e).busData = e.busData := rfl
@[simp] theorem updJob_pinFault (r : TaskRef) (f : Job → Job) : (updJob r f e).pinFault = e.pinFault := rfl
@[simp] theorem updJob_pinAlert (r : TaskRef) (f : Job → Job) : (updJob r f e).pinAlert = e.pinAlert := rfl
@[simp] theorem updJob_pinAlive (r : TaskRef) (f : Job → Job) : (updJob r f e).pinAlive = e.pinAlive := rfl
@[simp] theorem updJob_inReset (r : TaskRef) (f : Job → Job) : (updJob r f e).inReset = e.inReset := rfl
@[simp] theorem updJob_mem (r : TaskRef) (f : Job → Job) : (updJob r f e).mem = e.mem := rfl
@[simp] theorem updJob_front (r : TaskRef) (f : Job → Job) : (updJob r f e).front = e.front := rfl
@[simp] theorem updJob_tasks (r : TaskRef) (f : Job → Job) : (updJob r f e).tasks = e.tasks := rfl
@[simp] theorem updJob_ctxs (r : TaskRef) (f : Job → Job) : (updJob r f e).ctxs = e.ctxs := rfl
@[simp] theorem updJob_shards (r : TaskRef) (f : Job → Job) : (updJob r f e).shards = e.shards := rfl
@[simp] theorem updJob_tiles (r : TaskRef) (f : Job → Job) : (updJob r f e).tiles = e.tiles := rfl
@[simp] theorem updJob_homeRuns (r : TaskRef) (f : Job → Job) : (updJob r f e).homeRuns = e.homeRuns := rfl
@[simp] theorem updJob_rowReqs (r : TaskRef) (f : Job → Job) : (updJob r f e).rowReqs = e.rowReqs := rfl
@[simp] theorem updJob_nextId (r : TaskRef) (f : Job → Job) : (updJob r f e).nextId = e.nextId := rfl
@[simp] theorem updJob_lostRegs (r : TaskRef) (f : Job → Job) : (updJob r f e).lostRegs = e.lostRegs := rfl
@[simp] theorem updJob_counters (r : TaskRef) (f : Job → Job) : (updJob r f e).counters = e.counters := rfl
@[simp] theorem updJob_logs (r : TaskRef) (f : Job → Job) : (updJob r f e).logs = e.logs := rfl
@[simp] theorem updJob_net (r : TaskRef) (f : Job → Job) : (updJob r f e).net = e.net := rfl
@[simp] theorem updJob_grad (r : TaskRef) (f : Job → Job) : (updJob r f e).grad = e.grad := rfl
@[simp] theorem updJob_cache (r : TaskRef) (f : Job → Job) : (updJob r f e).cache = e.cache := rfl
@[simp] theorem updJob_upd (r : TaskRef) (f : Job → Job) : (updJob r f e).upd = e.upd := rfl
@[simp] theorem updJob_hot (r : TaskRef) (f : Job → Job) : (updJob r f e).hot = e.hot := rfl
@[simp] theorem updJob_safe (r : TaskRef) (f : Job → Job) : (updJob r f e).safe = e.safe := rfl
@[simp] theorem updJob_power (r : TaskRef) (f : Job → Job) : (updJob r f e).power = e.power := rfl
@[simp] theorem updJob_near (r : TaskRef) (f : Job → Job) : (updJob r f e).near = e.near := rfl

@[simp] theorem delJob_regs (r : TaskRef) : (delJob r e).regs = e.regs := rfl
@[simp] theorem delJob_freeCtr (r : TaskRef) : (delJob r e).freeCtr = e.freeCtr := rfl
@[simp] theorem delJob_timeShadow (r : TaskRef) : (delJob r e).timeShadow = e.timeShadow := rfl
@[simp] theorem delJob_busData (r : TaskRef) : (delJob r e).busData = e.busData := rfl
@[simp] theorem delJob_pinFault (r : TaskRef) : (delJob r e).pinFault = e.pinFault := rfl
@[simp] theorem delJob_pinAlert (r : TaskRef) : (delJob r e).pinAlert = e.pinAlert := rfl
@[simp] theorem delJob_pinAlive (r : TaskRef) : (delJob r e).pinAlive = e.pinAlive := rfl
@[simp] theorem delJob_inReset (r : TaskRef) : (delJob r e).inReset = e.inReset := rfl
@[simp] theorem delJob_mem (r : TaskRef) : (delJob r e).mem = e.mem := rfl
@[simp] theorem delJob_front (r : TaskRef) : (delJob r e).front = e.front := rfl
@[simp] theorem delJob_tasks (r : TaskRef) : (delJob r e).tasks = e.tasks := rfl
@[simp] theorem delJob_ctxs (r : TaskRef) : (delJob r e).ctxs = e.ctxs := rfl
@[simp] theorem delJob_shards (r : TaskRef) : (delJob r e).shards = e.shards := rfl
@[simp] theorem delJob_tiles (r : TaskRef) : (delJob r e).tiles = e.tiles := rfl
@[simp] theorem delJob_homeRuns (r : TaskRef) : (delJob r e).homeRuns = e.homeRuns := rfl
@[simp] theorem delJob_rowReqs (r : TaskRef) : (delJob r e).rowReqs = e.rowReqs := rfl
@[simp] theorem delJob_nextId (r : TaskRef) : (delJob r e).nextId = e.nextId := rfl
@[simp] theorem delJob_lostRegs (r : TaskRef) : (delJob r e).lostRegs = e.lostRegs := rfl
@[simp] theorem delJob_counters (r : TaskRef) : (delJob r e).counters = e.counters := rfl
@[simp] theorem delJob_logs (r : TaskRef) : (delJob r e).logs = e.logs := rfl
@[simp] theorem delJob_net (r : TaskRef) : (delJob r e).net = e.net := rfl
@[simp] theorem delJob_grad (r : TaskRef) : (delJob r e).grad = e.grad := rfl
@[simp] theorem delJob_cache (r : TaskRef) : (delJob r e).cache = e.cache := rfl
@[simp] theorem delJob_upd (r : TaskRef) : (delJob r e).upd = e.upd := rfl
@[simp] theorem delJob_hot (r : TaskRef) : (delJob r e).hot = e.hot := rfl
@[simp] theorem delJob_safe (r : TaskRef) : (delJob r e).safe = e.safe := rfl
@[simp] theorem delJob_power (r : TaskRef) : (delJob r e).power = e.power := rfl
@[simp] theorem delJob_near (r : TaskRef) : (delJob r e).near = e.near := rfl

@[simp] theorem addJob_regs (j : Job) : (addJob j e).regs = e.regs := rfl
@[simp] theorem addJob_freeCtr (j : Job) : (addJob j e).freeCtr = e.freeCtr := rfl
@[simp] theorem addJob_timeShadow (j : Job) : (addJob j e).timeShadow = e.timeShadow := rfl
@[simp] theorem addJob_busData (j : Job) : (addJob j e).busData = e.busData := rfl
@[simp] theorem addJob_pinFault (j : Job) : (addJob j e).pinFault = e.pinFault := rfl
@[simp] theorem addJob_pinAlert (j : Job) : (addJob j e).pinAlert = e.pinAlert := rfl
@[simp] theorem addJob_pinAlive (j : Job) : (addJob j e).pinAlive = e.pinAlive := rfl
@[simp] theorem addJob_inReset (j : Job) : (addJob j e).inReset = e.inReset := rfl
@[simp] theorem addJob_mem (j : Job) : (addJob j e).mem = e.mem := rfl
@[simp] theorem addJob_front (j : Job) : (addJob j e).front = e.front := rfl
@[simp] theorem addJob_tasks (j : Job) : (addJob j e).tasks = e.tasks := rfl
@[simp] theorem addJob_jobs (j : Job) : (addJob j e).jobs = e.jobs ++ [j] := rfl
@[simp] theorem addJob_ctxs (j : Job) : (addJob j e).ctxs = e.ctxs := rfl
@[simp] theorem addJob_shards (j : Job) : (addJob j e).shards = e.shards := rfl
@[simp] theorem addJob_tiles (j : Job) : (addJob j e).tiles = e.tiles := rfl
@[simp] theorem addJob_homeRuns (j : Job) : (addJob j e).homeRuns = e.homeRuns := rfl
@[simp] theorem addJob_rowReqs (j : Job) : (addJob j e).rowReqs = e.rowReqs := rfl
@[simp] theorem addJob_nextId (j : Job) : (addJob j e).nextId = e.nextId := rfl
@[simp] theorem addJob_lostRegs (j : Job) : (addJob j e).lostRegs = e.lostRegs := rfl
@[simp] theorem addJob_counters (j : Job) : (addJob j e).counters = e.counters := rfl
@[simp] theorem addJob_logs (j : Job) : (addJob j e).logs = e.logs := rfl
@[simp] theorem addJob_net (j : Job) : (addJob j e).net = e.net := rfl
@[simp] theorem addJob_grad (j : Job) : (addJob j e).grad = e.grad := rfl
@[simp] theorem addJob_cache (j : Job) : (addJob j e).cache = e.cache := rfl
@[simp] theorem addJob_upd (j : Job) : (addJob j e).upd = e.upd := rfl
@[simp] theorem addJob_hot (j : Job) : (addJob j e).hot = e.hot := rfl
@[simp] theorem addJob_safe (j : Job) : (addJob j e).safe = e.safe := rfl
@[simp] theorem addJob_power (j : Job) : (addJob j e).power = e.power := rfl
@[simp] theorem addJob_near (j : Job) : (addJob j e).near = e.near := rfl

@[simp] theorem setTile_regs (k : Nat × Nat × Nat) (t : Tile) : (setTile k t e).regs = e.regs := rfl
@[simp] theorem setTile_freeCtr (k : Nat × Nat × Nat) (t : Tile) : (setTile k t e).freeCtr = e.freeCtr := rfl
@[simp] theorem setTile_timeShadow (k : Nat × Nat × Nat) (t : Tile) : (setTile k t e).timeShadow = e.timeShadow := rfl
@[simp] theorem setTile_busData (k : Nat × Nat × Nat) (t : Tile) : (setTile k t e).busData = e.busData := rfl
@[simp] theorem setTile_pinFault (k : Nat × Nat × Nat) (t : Tile) : (setTile k t e).pinFault = e.pinFault := rfl
@[simp] theorem setTile_pinAlert (k : Nat × Nat × Nat) (t : Tile) : (setTile k t e).pinAlert = e.pinAlert := rfl
@[simp] theorem setTile_pinAlive (k : Nat × Nat × Nat) (t : Tile) : (setTile k t e).pinAlive = e.pinAlive := rfl
@[simp] theorem setTile_inReset (k : Nat × Nat × Nat) (t : Tile) : (setTile k t e).inReset = e.inReset := rfl
@[simp] theorem setTile_mem (k : Nat × Nat × Nat) (t : Tile) : (setTile k t e).mem = e.mem := rfl
@[simp] theorem setTile_front (k : Nat × Nat × Nat) (t : Tile) : (setTile k t e).front = e.front := rfl
@[simp] theorem setTile_tasks (k : Nat × Nat × Nat) (t : Tile) : (setTile k t e).tasks = e.tasks := rfl
@[simp] theorem setTile_jobs (k : Nat × Nat × Nat) (t : Tile) : (setTile k t e).jobs = e.jobs := rfl
@[simp] theorem setTile_ctxs (k : Nat × Nat × Nat) (t : Tile) : (setTile k t e).ctxs = e.ctxs := rfl
@[simp] theorem setTile_shards (k : Nat × Nat × Nat) (t : Tile) : (setTile k t e).shards = e.shards := rfl
@[simp] theorem setTile_tiles (k : Nat × Nat × Nat) (t : Tile) : (setTile k t e).tiles = tput k t e.tiles := rfl
@[simp] theorem setTile_homeRuns (k : Nat × Nat × Nat) (t : Tile) : (setTile k t e).homeRuns = e.homeRuns := rfl
@[simp] theorem setTile_rowReqs (k : Nat × Nat × Nat) (t : Tile) : (setTile k t e).rowReqs = e.rowReqs := rfl
@[simp] theorem setTile_nextId (k : Nat × Nat × Nat) (t : Tile) : (setTile k t e).nextId = e.nextId := rfl
@[simp] theorem setTile_lostRegs (k : Nat × Nat × Nat) (t : Tile) : (setTile k t e).lostRegs = e.lostRegs := rfl
@[simp] theorem setTile_counters (k : Nat × Nat × Nat) (t : Tile) : (setTile k t e).counters = e.counters := rfl
@[simp] theorem setTile_logs (k : Nat × Nat × Nat) (t : Tile) : (setTile k t e).logs = e.logs := rfl
@[simp] theorem setTile_net (k : Nat × Nat × Nat) (t : Tile) : (setTile k t e).net = e.net := rfl
@[simp] theorem setTile_grad (k : Nat × Nat × Nat) (t : Tile) : (setTile k t e).grad = e.grad := rfl
@[simp] theorem setTile_cache (k : Nat × Nat × Nat) (t : Tile) : (setTile k t e).cache = e.cache := rfl
@[simp] theorem setTile_upd (k : Nat × Nat × Nat) (t : Tile) : (setTile k t e).upd = e.upd := rfl
@[simp] theorem setTile_hot (k : Nat × Nat × Nat) (t : Tile) : (setTile k t e).hot = e.hot := rfl
@[simp] theorem setTile_safe (k : Nat × Nat × Nat) (t : Tile) : (setTile k t e).safe = e.safe := rfl
@[simp] theorem setTile_power (k : Nat × Nat × Nat) (t : Tile) : (setTile k t e).power = e.power := rfl
@[simp] theorem setTile_near (k : Nat × Nat × Nat) (t : Tile) : (setTile k t e).near = e.near := rfl

@[simp] theorem setCache_regs (c : Cache) : (setCache c e).regs = e.regs := rfl
@[simp] theorem setCache_freeCtr (c : Cache) : (setCache c e).freeCtr = e.freeCtr := rfl
@[simp] theorem setCache_timeShadow (c : Cache) : (setCache c e).timeShadow = e.timeShadow := rfl
@[simp] theorem setCache_busData (c : Cache) : (setCache c e).busData = e.busData := rfl
@[simp] theorem setCache_pinFault (c : Cache) : (setCache c e).pinFault = e.pinFault := rfl
@[simp] theorem setCache_pinAlert (c : Cache) : (setCache c e).pinAlert = e.pinAlert := rfl
@[simp] theorem setCache_pinAlive (c : Cache) : (setCache c e).pinAlive = e.pinAlive := rfl
@[simp] theorem setCache_inReset (c : Cache) : (setCache c e).inReset = e.inReset := rfl
@[simp] theorem setCache_mem (c : Cache) : (setCache c e).mem = e.mem := rfl
@[simp] theorem setCache_front (c : Cache) : (setCache c e).front = e.front := rfl
@[simp] theorem setCache_tasks (c : Cache) : (setCache c e).tasks = e.tasks := rfl
@[simp] theorem setCache_jobs (c : Cache) : (setCache c e).jobs = e.jobs := rfl
@[simp] theorem setCache_ctxs (c : Cache) : (setCache c e).ctxs = e.ctxs := rfl
@[simp] theorem setCache_shards (c : Cache) : (setCache c e).shards = e.shards := rfl
@[simp] theorem setCache_tiles (c : Cache) : (setCache c e).tiles = e.tiles := rfl
@[simp] theorem setCache_homeRuns (c : Cache) : (setCache c e).homeRuns = e.homeRuns := rfl
@[simp] theorem setCache_rowReqs (c : Cache) : (setCache c e).rowReqs = e.rowReqs := rfl
@[simp] theorem setCache_nextId (c : Cache) : (setCache c e).nextId = e.nextId := rfl
@[simp] theorem setCache_lostRegs (c : Cache) : (setCache c e).lostRegs = e.lostRegs := rfl
@[simp] theorem setCache_counters (c : Cache) : (setCache c e).counters = e.counters := rfl
@[simp] theorem setCache_logs (c : Cache) : (setCache c e).logs = e.logs := rfl
@[simp] theorem setCache_net (c : Cache) : (setCache c e).net = e.net := rfl
@[simp] theorem setCache_grad (c : Cache) : (setCache c e).grad = e.grad := rfl
@[simp] theorem setCache_cache (c : Cache) : (setCache c e).cache = c := rfl
@[simp] theorem setCache_upd (c : Cache) : (setCache c e).upd = e.upd := rfl
@[simp] theorem setCache_hot (c : Cache) : (setCache c e).hot = e.hot := rfl
@[simp] theorem setCache_safe (c : Cache) : (setCache c e).safe = e.safe := rfl
@[simp] theorem setCache_power (c : Cache) : (setCache c e).power = e.power := rfl
@[simp] theorem setCache_near (c : Cache) : (setCache c e).near = e.near := rfl

@[simp] theorem setGrad_regs (g : Grad) : (setGrad g e).regs = e.regs := rfl
@[simp] theorem setGrad_freeCtr (g : Grad) : (setGrad g e).freeCtr = e.freeCtr := rfl
@[simp] theorem setGrad_timeShadow (g : Grad) : (setGrad g e).timeShadow = e.timeShadow := rfl
@[simp] theorem setGrad_busData (g : Grad) : (setGrad g e).busData = e.busData := rfl
@[simp] theorem setGrad_pinFault (g : Grad) : (setGrad g e).pinFault = e.pinFault := rfl
@[simp] theorem setGrad_pinAlert (g : Grad) : (setGrad g e).pinAlert = e.pinAlert := rfl
@[simp] theorem setGrad_pinAlive (g : Grad) : (setGrad g e).pinAlive = e.pinAlive := rfl
@[simp] theorem setGrad_inReset (g : Grad) : (setGrad g e).inReset = e.inReset := rfl
@[simp] theorem setGrad_mem (g : Grad) : (setGrad g e).mem = e.mem := rfl
@[simp] theorem setGrad_front (g : Grad) : (setGrad g e).front = e.front := rfl
@[simp] theorem setGrad_tasks (g : Grad) : (setGrad g e).tasks = e.tasks := rfl
@[simp] theorem setGrad_jobs (g : Grad) : (setGrad g e).jobs = e.jobs := rfl
@[simp] theorem setGrad_ctxs (g : Grad) : (setGrad g e).ctxs = e.ctxs := rfl
@[simp] theorem setGrad_shards (g : Grad) : (setGrad g e).shards = e.shards := rfl
@[simp] theorem setGrad_tiles (g : Grad) : (setGrad g e).tiles = e.tiles := rfl
@[simp] theorem setGrad_homeRuns (g : Grad) : (setGrad g e).homeRuns = e.homeRuns := rfl
@[simp] theorem setGrad_rowReqs (g : Grad) : (setGrad g e).rowReqs = e.rowReqs := rfl
@[simp] theorem setGrad_nextId (g : Grad) : (setGrad g e).nextId = e.nextId := rfl
@[simp] theorem setGrad_lostRegs (g : Grad) : (setGrad g e).lostRegs = e.lostRegs := rfl
@[simp] theorem setGrad_counters (g : Grad) : (setGrad g e).counters = e.counters := rfl
@[simp] theorem setGrad_logs (g : Grad) : (setGrad g e).logs = e.logs := rfl
@[simp] theorem setGrad_net (g : Grad) : (setGrad g e).net = e.net := rfl
@[simp] theorem setGrad_grad (g : Grad) : (setGrad g e).grad = g := rfl
@[simp] theorem setGrad_cache (g : Grad) : (setGrad g e).cache = e.cache := rfl
@[simp] theorem setGrad_upd (g : Grad) : (setGrad g e).upd = e.upd := rfl
@[simp] theorem setGrad_hot (g : Grad) : (setGrad g e).hot = e.hot := rfl
@[simp] theorem setGrad_safe (g : Grad) : (setGrad g e).safe = e.safe := rfl
@[simp] theorem setGrad_power (g : Grad) : (setGrad g e).power = e.power := rfl
@[simp] theorem setGrad_near (g : Grad) : (setGrad g e).near = e.near := rfl

@[simp] theorem setNear_regs (n : Near) : (setNear n e).regs = e.regs := rfl
@[simp] theorem setNear_freeCtr (n : Near) : (setNear n e).freeCtr = e.freeCtr := rfl
@[simp] theorem setNear_timeShadow (n : Near) : (setNear n e).timeShadow = e.timeShadow := rfl
@[simp] theorem setNear_busData (n : Near) : (setNear n e).busData = e.busData := rfl
@[simp] theorem setNear_pinFault (n : Near) : (setNear n e).pinFault = e.pinFault := rfl
@[simp] theorem setNear_pinAlert (n : Near) : (setNear n e).pinAlert = e.pinAlert := rfl
@[simp] theorem setNear_pinAlive (n : Near) : (setNear n e).pinAlive = e.pinAlive := rfl
@[simp] theorem setNear_inReset (n : Near) : (setNear n e).inReset = e.inReset := rfl
@[simp] theorem setNear_mem (n : Near) : (setNear n e).mem = e.mem := rfl
@[simp] theorem setNear_front (n : Near) : (setNear n e).front = e.front := rfl
@[simp] theorem setNear_tasks (n : Near) : (setNear n e).tasks = e.tasks := rfl
@[simp] theorem setNear_jobs (n : Near) : (setNear n e).jobs = e.jobs := rfl
@[simp] theorem setNear_ctxs (n : Near) : (setNear n e).ctxs = e.ctxs := rfl
@[simp] theorem setNear_shards (n : Near) : (setNear n e).shards = e.shards := rfl
@[simp] theorem setNear_tiles (n : Near) : (setNear n e).tiles = e.tiles := rfl
@[simp] theorem setNear_homeRuns (n : Near) : (setNear n e).homeRuns = e.homeRuns := rfl
@[simp] theorem setNear_rowReqs (n : Near) : (setNear n e).rowReqs = e.rowReqs := rfl
@[simp] theorem setNear_nextId (n : Near) : (setNear n e).nextId = e.nextId := rfl
@[simp] theorem setNear_lostRegs (n : Near) : (setNear n e).lostRegs = e.lostRegs := rfl
@[simp] theorem setNear_counters (n : Near) : (setNear n e).counters = e.counters := rfl
@[simp] theorem setNear_logs (n : Near) : (setNear n e).logs = e.logs := rfl
@[simp] theorem setNear_net (n : Near) : (setNear n e).net = e.net := rfl
@[simp] theorem setNear_grad (n : Near) : (setNear n e).grad = e.grad := rfl
@[simp] theorem setNear_cache (n : Near) : (setNear n e).cache = e.cache := rfl
@[simp] theorem setNear_upd (n : Near) : (setNear n e).upd = e.upd := rfl
@[simp] theorem setNear_hot (n : Near) : (setNear n e).hot = e.hot := rfl
@[simp] theorem setNear_safe (n : Near) : (setNear n e).safe = e.safe := rfl
@[simp] theorem setNear_power (n : Near) : (setNear n e).power = e.power := rfl
@[simp] theorem setNear_near (n : Near) : (setNear n e).near = n := rfl

@[simp] theorem setHot_regs (h : Hot) : (setHot h e).regs = e.regs := rfl
@[simp] theorem setHot_freeCtr (h : Hot) : (setHot h e).freeCtr = e.freeCtr := rfl
@[simp] theorem setHot_timeShadow (h : Hot) : (setHot h e).timeShadow = e.timeShadow := rfl
@[simp] theorem setHot_busData (h : Hot) : (setHot h e).busData = e.busData := rfl
@[simp] theorem setHot_pinFault (h : Hot) : (setHot h e).pinFault = e.pinFault := rfl
@[simp] theorem setHot_pinAlert (h : Hot) : (setHot h e).pinAlert = e.pinAlert := rfl
@[simp] theorem setHot_pinAlive (h : Hot) : (setHot h e).pinAlive = e.pinAlive := rfl
@[simp] theorem setHot_inReset (h : Hot) : (setHot h e).inReset = e.inReset := rfl
@[simp] theorem setHot_mem (h : Hot) : (setHot h e).mem = e.mem := rfl
@[simp] theorem setHot_front (h : Hot) : (setHot h e).front = e.front := rfl
@[simp] theorem setHot_tasks (h : Hot) : (setHot h e).tasks = e.tasks := rfl
@[simp] theorem setHot_jobs (h : Hot) : (setHot h e).jobs = e.jobs := rfl
@[simp] theorem setHot_ctxs (h : Hot) : (setHot h e).ctxs = e.ctxs := rfl
@[simp] theorem setHot_shards (h : Hot) : (setHot h e).shards = e.shards := rfl
@[simp] theorem setHot_tiles (h : Hot) : (setHot h e).tiles = e.tiles := rfl
@[simp] theorem setHot_homeRuns (h : Hot) : (setHot h e).homeRuns = e.homeRuns := rfl
@[simp] theorem setHot_rowReqs (h : Hot) : (setHot h e).rowReqs = e.rowReqs := rfl
@[simp] theorem setHot_nextId (h : Hot) : (setHot h e).nextId = e.nextId := rfl
@[simp] theorem setHot_lostRegs (h : Hot) : (setHot h e).lostRegs = e.lostRegs := rfl
@[simp] theorem setHot_counters (h : Hot) : (setHot h e).counters = e.counters := rfl
@[simp] theorem setHot_logs (h : Hot) : (setHot h e).logs = e.logs := rfl
@[simp] theorem setHot_net (h : Hot) : (setHot h e).net = e.net := rfl
@[simp] theorem setHot_grad (h : Hot) : (setHot h e).grad = e.grad := rfl
@[simp] theorem setHot_cache (h : Hot) : (setHot h e).cache = e.cache := rfl
@[simp] theorem setHot_upd (h : Hot) : (setHot h e).upd = e.upd := rfl
@[simp] theorem setHot_hot (h : Hot) : (setHot h e).hot = h := rfl
@[simp] theorem setHot_safe (h : Hot) : (setHot h e).safe = e.safe := rfl
@[simp] theorem setHot_power (h : Hot) : (setHot h e).power = e.power := rfl
@[simp] theorem setHot_near (h : Hot) : (setHot h e).near = e.near := rfl

@[simp] theorem setUpd_regs (u : Upd) : (setUpd u e).regs = e.regs := rfl
@[simp] theorem setUpd_freeCtr (u : Upd) : (setUpd u e).freeCtr = e.freeCtr := rfl
@[simp] theorem setUpd_timeShadow (u : Upd) : (setUpd u e).timeShadow = e.timeShadow := rfl
@[simp] theorem setUpd_busData (u : Upd) : (setUpd u e).busData = e.busData := rfl
@[simp] theorem setUpd_pinFault (u : Upd) : (setUpd u e).pinFault = e.pinFault := rfl
@[simp] theorem setUpd_pinAlert (u : Upd) : (setUpd u e).pinAlert = e.pinAlert := rfl
@[simp] theorem setUpd_pinAlive (u : Upd) : (setUpd u e).pinAlive = e.pinAlive := rfl
@[simp] theorem setUpd_inReset (u : Upd) : (setUpd u e).inReset = e.inReset := rfl
@[simp] theorem setUpd_mem (u : Upd) : (setUpd u e).mem = e.mem := rfl
@[simp] theorem setUpd_front (u : Upd) : (setUpd u e).front = e.front := rfl
@[simp] theorem setUpd_tasks (u : Upd) : (setUpd u e).tasks = e.tasks := rfl
@[simp] theorem setUpd_jobs (u : Upd) : (setUpd u e).jobs = e.jobs := rfl
@[simp] theorem setUpd_ctxs (u : Upd) : (setUpd u e).ctxs = e.ctxs := rfl
@[simp] theorem setUpd_shards (u : Upd) : (setUpd u e).shards = e.shards := rfl
@[simp] theorem setUpd_tiles (u : Upd) : (setUpd u e).tiles = e.tiles := rfl
@[simp] theorem setUpd_homeRuns (u : Upd) : (setUpd u e).homeRuns = e.homeRuns := rfl
@[simp] theorem setUpd_rowReqs (u : Upd) : (setUpd u e).rowReqs = e.rowReqs := rfl
@[simp] theorem setUpd_nextId (u : Upd) : (setUpd u e).nextId = e.nextId := rfl
@[simp] theorem setUpd_lostRegs (u : Upd) : (setUpd u e).lostRegs = e.lostRegs := rfl
@[simp] theorem setUpd_counters (u : Upd) : (setUpd u e).counters = e.counters := rfl
@[simp] theorem setUpd_logs (u : Upd) : (setUpd u e).logs = e.logs := rfl
@[simp] theorem setUpd_net (u : Upd) : (setUpd u e).net = e.net := rfl
@[simp] theorem setUpd_grad (u : Upd) : (setUpd u e).grad = e.grad := rfl
@[simp] theorem setUpd_cache (u : Upd) : (setUpd u e).cache = e.cache := rfl
@[simp] theorem setUpd_upd (u : Upd) : (setUpd u e).upd = u := rfl
@[simp] theorem setUpd_hot (u : Upd) : (setUpd u e).hot = e.hot := rfl
@[simp] theorem setUpd_safe (u : Upd) : (setUpd u e).safe = e.safe := rfl
@[simp] theorem setUpd_power (u : Upd) : (setUpd u e).power = e.power := rfl
@[simp] theorem setUpd_near (u : Upd) : (setUpd u e).near = e.near := rfl

@[simp] theorem setPower_regs (p : Power) : (setPower p e).regs = e.regs := rfl
@[simp] theorem setPower_freeCtr (p : Power) : (setPower p e).freeCtr = e.freeCtr := rfl
@[simp] theorem setPower_timeShadow (p : Power) : (setPower p e).timeShadow = e.timeShadow := rfl
@[simp] theorem setPower_busData (p : Power) : (setPower p e).busData = e.busData := rfl
@[simp] theorem setPower_pinFault (p : Power) : (setPower p e).pinFault = e.pinFault := rfl
@[simp] theorem setPower_pinAlert (p : Power) : (setPower p e).pinAlert = e.pinAlert := rfl
@[simp] theorem setPower_pinAlive (p : Power) : (setPower p e).pinAlive = e.pinAlive := rfl
@[simp] theorem setPower_inReset (p : Power) : (setPower p e).inReset = e.inReset := rfl
@[simp] theorem setPower_mem (p : Power) : (setPower p e).mem = e.mem := rfl
@[simp] theorem setPower_front (p : Power) : (setPower p e).front = e.front := rfl
@[simp] theorem setPower_tasks (p : Power) : (setPower p e).tasks = e.tasks := rfl
@[simp] theorem setPower_jobs (p : Power) : (setPower p e).jobs = e.jobs := rfl
@[simp] theorem setPower_ctxs (p : Power) : (setPower p e).ctxs = e.ctxs := rfl
@[simp] theorem setPower_shards (p : Power) : (setPower p e).shards = e.shards := rfl
@[simp] theorem setPower_tiles (p : Power) : (setPower p e).tiles = e.tiles := rfl
@[simp] theorem setPower_homeRuns (p : Power) : (setPower p e).homeRuns = e.homeRuns := rfl
@[simp] theorem setPower_rowReqs (p : Power) : (setPower p e).rowReqs = e.rowReqs := rfl
@[simp] theorem setPower_nextId (p : Power) : (setPower p e).nextId = e.nextId := rfl
@[simp] theorem setPower_lostRegs (p : Power) : (setPower p e).lostRegs = e.lostRegs := rfl
@[simp] theorem setPower_counters (p : Power) : (setPower p e).counters = e.counters := rfl
@[simp] theorem setPower_logs (p : Power) : (setPower p e).logs = e.logs := rfl
@[simp] theorem setPower_net (p : Power) : (setPower p e).net = e.net := rfl
@[simp] theorem setPower_grad (p : Power) : (setPower p e).grad = e.grad := rfl
@[simp] theorem setPower_cache (p : Power) : (setPower p e).cache = e.cache := rfl
@[simp] theorem setPower_upd (p : Power) : (setPower p e).upd = e.upd := rfl
@[simp] theorem setPower_hot (p : Power) : (setPower p e).hot = e.hot := rfl
@[simp] theorem setPower_safe (p : Power) : (setPower p e).safe = e.safe := rfl
@[simp] theorem setPower_power (p : Power) : (setPower p e).power = p := rfl
@[simp] theorem setPower_near (p : Power) : (setPower p e).near = e.near := rfl

@[simp] theorem hostGets_regs (v : Word) : (hostGets v e).regs = e.regs := rfl
@[simp] theorem hostGets_freeCtr (v : Word) : (hostGets v e).freeCtr = e.freeCtr := rfl
@[simp] theorem hostGets_timeShadow (v : Word) : (hostGets v e).timeShadow = e.timeShadow := rfl
@[simp] theorem hostGets_busData (v : Word) : (hostGets v e).busData = v := rfl
@[simp] theorem hostGets_pinFault (v : Word) : (hostGets v e).pinFault = e.pinFault := rfl
@[simp] theorem hostGets_pinAlert (v : Word) : (hostGets v e).pinAlert = e.pinAlert := rfl
@[simp] theorem hostGets_pinAlive (v : Word) : (hostGets v e).pinAlive = e.pinAlive := rfl
@[simp] theorem hostGets_inReset (v : Word) : (hostGets v e).inReset = e.inReset := rfl
@[simp] theorem hostGets_mem (v : Word) : (hostGets v e).mem = e.mem := rfl
@[simp] theorem hostGets_front (v : Word) : (hostGets v e).front = e.front := rfl
@[simp] theorem hostGets_tasks (v : Word) : (hostGets v e).tasks = e.tasks := rfl
@[simp] theorem hostGets_jobs (v : Word) : (hostGets v e).jobs = e.jobs := rfl
@[simp] theorem hostGets_ctxs (v : Word) : (hostGets v e).ctxs = e.ctxs := rfl
@[simp] theorem hostGets_shards (v : Word) : (hostGets v e).shards = e.shards := rfl
@[simp] theorem hostGets_tiles (v : Word) : (hostGets v e).tiles = e.tiles := rfl
@[simp] theorem hostGets_homeRuns (v : Word) : (hostGets v e).homeRuns = e.homeRuns := rfl
@[simp] theorem hostGets_rowReqs (v : Word) : (hostGets v e).rowReqs = e.rowReqs := rfl
@[simp] theorem hostGets_nextId (v : Word) : (hostGets v e).nextId = e.nextId := rfl
@[simp] theorem hostGets_lostRegs (v : Word) : (hostGets v e).lostRegs = e.lostRegs := rfl
@[simp] theorem hostGets_counters (v : Word) : (hostGets v e).counters = e.counters := rfl
@[simp] theorem hostGets_logs (v : Word) : (hostGets v e).logs = e.logs := rfl
@[simp] theorem hostGets_net (v : Word) : (hostGets v e).net = e.net := rfl
@[simp] theorem hostGets_grad (v : Word) : (hostGets v e).grad = e.grad := rfl
@[simp] theorem hostGets_cache (v : Word) : (hostGets v e).cache = e.cache := rfl
@[simp] theorem hostGets_upd (v : Word) : (hostGets v e).upd = e.upd := rfl
@[simp] theorem hostGets_hot (v : Word) : (hostGets v e).hot = e.hot := rfl
@[simp] theorem hostGets_safe (v : Word) : (hostGets v e).safe = e.safe := rfl
@[simp] theorem hostGets_power (v : Word) : (hostGets v e).power = e.power := rfl
@[simp] theorem hostGets_near (v : Word) : (hostGets v e).near = e.near := rfl

/-- A command that acts leaves the queue as it is. -/
@[simp] theorem run_eq (f : Engine → Engine) (s : State) : run f s = .next { s with eng := f s.eng } := rfl

end Sys2Proof.Machine
end

