-- ==== Sys2Proof/Laws/Regs.lean ====
section
/-! SUPPORT. Tables, bit fields and registers: what a read gives after a write. -/

namespace Sys2Proof.Machine

section tables
variable {K V : Type} [DecidableEq K]

@[simp] theorem tget_tput_same (d v : V) (k : K) (t : List (K × V)) : tget d k (tput k v t) = v := by
  induction t with
  | nil => simp [tput, tget]
  | cons p t ih =>
    obtain ⟨k', v'⟩ := p
    by_cases h : k' = k <;> simp [tput, tget, h, ih]

theorem tget_tput_other (d v : V) {k k' : K} (h : k ≠ k') (t : List (K × V)) : tget d k (tput k' v t) = tget d k t := by
  have h' : k' ≠ k := fun e => h e.symm
  induction t with
  | nil => simp [tput, tget, h']
  | cons p t ih =>
    obtain ⟨k2, v2⟩ := p
    by_cases h2 : k2 = k'
    · subst h2; simp [tput, tget, h']
    · simp only [tput, if_neg h2, tget, ih]

@[simp] theorem tfind_tput_same (v : V) (k : K) (t : List (K × V)) : tfind k (tput k v t) = some v := by
  induction t with
  | nil => simp [tput, tfind]
  | cons p t ih =>
    obtain ⟨k', v'⟩ := p
    by_cases h : k' = k <;> simp [tput, tfind, h, ih]

theorem tfind_tput_other (v : V) {k k' : K} (h : k ≠ k') (t : List (K × V)) : tfind k (tput k' v t) = tfind k t := by
  have h' : k' ≠ k := fun e => h e.symm
  induction t with
  | nil => simp [tput, tfind, h']
  | cons p t ih =>
    obtain ⟨k2, v2⟩ := p
    by_cases h2 : k2 = k'
    · subst h2; simp [tput, tfind, h']
    · simp only [tput, if_neg h2, tfind, ih]

@[simp] theorem tfind_tdel_same (k : K) (t : List (K × V)) : tfind k (tdel k t) = none := by
  induction t with
  | nil => simp [tdel, tfind]
  | cons p t ih =>
    obtain ⟨k', v'⟩ := p
    by_cases h : k' = k
    · simpa [tdel, h] using ih
    · rw [tdel, List.filter_cons_of_pos (by simp [h]), tfind, if_neg h]; exact ih

end tables

/-! Bit fields. -/

/-- The bits of a word after one field was written. -/
theorem setFld_testBit (v : Word) (f : Field) (x i : Nat) : (setFld v f x).toNat.testBit i =
    (if f.lo ≤ i ∧ i < f.lo + f.width ∧ i < 64 then x.testBit (i - f.lo) else v.toNat.testBit i) := by
  have hb (y : Nat) : (y * 2 ^ f.lo).testBit i = (decide (f.lo ≤ i) && y.testBit (i - f.lo)) := by
    rw [← Nat.shiftLeft_eq, Nat.testBit_shiftLeft]
  rw [← BitVec.getLsbD]
  simp only [setFld, BitVec.getLsbD_or, BitVec.getLsbD_and, BitVec.getLsbD_not, BitVec.getLsbD_ofNat, hb,
    Nat.testBit_mod_two_pow, Nat.testBit_two_pow_sub_one]
  by_cases h1 : i < 64
  · by_cases h2 : f.lo ≤ i
    · by_cases h3 : i - f.lo < f.width
      · have : i < f.lo + f.width := by omega
        simp [h1, h2, h3, this]
      · have : ¬ i < f.lo + f.width := by omega
        simp [h1, h2, h3, this, BitVec.getLsbD]
    · simp [h1, h2, BitVec.getLsbD]
  · have : v.toNat.testBit i = false := v.getLsbD_of_ge i (by omega)
    simp [h1, this]

/-- A field just written reads back, reduced to its width. -/
theorem getFld_setFld_same (v : Word) (f : Field) (x : Nat) (h : f.lo + f.width ≤ 64) :
    getFld (setFld v f x) f = x % 2 ^ f.width := by
  apply Nat.eq_of_testBit_eq
  intro i
  simp only [getFld, bitsOf, Nat.testBit_mod_two_pow, Nat.testBit_div_two_pow, setFld_testBit]
  by_cases hi : i < f.width
  · rw [if_pos (by omega)]
    simp [hi]
  · simp [hi]

/-- A field apart from the one written reads as before. -/
theorem getFld_setFld_apart (v : Word) (f g : Field) (x : Nat) (h : g.lo + g.width ≤ f.lo ∨ f.lo + f.width ≤ g.lo) :
    getFld (setFld v f x) g = getFld v g := by
  apply Nat.eq_of_testBit_eq
  intro i
  simp only [getFld, bitsOf, Nat.testBit_mod_two_pow, Nat.testBit_div_two_pow, setFld_testBit]
  by_cases hi : i < g.width
  · rw [if_neg (by omega)]
  · simp [hi]

/-! Registers. -/

@[simp] theorem getReg_setReg_same (r : Reg) (v : Word) (e : Engine) : getReg r (setReg r v e) = v := by simp [getReg]

theorem getReg_setReg_other {r q : Reg} (h : r ≠ q) (v : Word) (e : Engine) : getReg r (setReg q v e) = getReg r e := by
  simp [getReg, tget_tput_other _ _ h]

/-- A register is read from the register table alone. -/
theorem getReg_of_regs {e e' : Engine} (r : Reg) (h : e'.regs = e.regs) : getReg r e' = getReg r e := by simp [getReg, h]

theorem getF_of_regs {e e' : Engine} (r : Reg) (f : Field) (h : e'.regs = e.regs) : getF r f e' = getF r f e := by
  simp [getF, getReg, h]

theorem getF_setF_same (r : Reg) (f : Field) (x : Nat) (e : Engine) (h : f.lo + f.width ≤ 64) :
    getF r f (setF r f x e) = x % 2 ^ f.width := by
  simp [getF, setF, getFld_setFld_same _ _ _ h]

theorem getF_setF_apart (r : Reg) (f g : Field) (x : Nat) (e : Engine)
    (h : g.lo + g.width ≤ f.lo ∨ f.lo + f.width ≤ g.lo) : getF r g (setF r f x e) = getF r g e := by
  simp [getF, setF, getFld_setFld_apart _ _ _ _ h]

theorem getF_setF_other {r q : Reg} (h : r ≠ q) (f g : Field) (x : Nat) (e : Engine) :
    getF r g (setF q f x e) = getF r g e := by
  simp [getF, setF, getReg_setReg_other h]

end Sys2Proof.Machine
end

