-- ==== Sys2Proof/Laws/Messages.lean ====
section
/-! SUPPORT. Waking the engine, and the arrival of a message: what the receiver's checks look at, and that a message which
passes them starts its operation. -/

namespace Sys2Proof.Machine

/-! Waking (R434). -/

/-- Waking changes SHD_PWR_STS and the quiet time. -/
theorem touch_frame (e : Engine) : touch e = { e with regs := (touch e).regs, power := { e.power with quiet := now e } } := by
  simp only [touch]; split <;> rfl

theorem touch_getReg {r : Reg} (h : r ≠ .pwrSts) (e : Engine) : getReg r (touch e) = getReg r e := by
  simp only [touch]
  split
  · simp only [setF, getReg_setReg_other h]; rfl
  · rfl

theorem touch_getF {r : Reg} (h : r ≠ .pwrSts) (f : Field) (e : Engine) : getF r f (touch e) = getF r f e := by
  unfold getF; rw [touch_getReg h]

theorem touch_getB {r : Reg} (h : r ≠ .pwrSts) (f : Field) (e : Engine) : getB r f (touch e) = getB r f e := by
  unfold getB; rw [touch_getF h]

@[simp] theorem touch_ctxs (e : Engine) : (touch e).ctxs = e.ctxs := by rw [touch_frame]
@[simp] theorem touch_shards (e : Engine) : (touch e).shards = e.shards := by rw [touch_frame]
@[simp] theorem touch_net (e : Engine) : (touch e).net = e.net := by rw [touch_frame]
@[simp] theorem touch_mem (e : Engine) : (touch e).mem = e.mem := by rw [touch_frame]
@[simp] theorem touch_tasks (e : Engine) : (touch e).tasks = e.tasks := by rw [touch_frame]
@[simp] theorem touch_jobs (e : Engine) : (touch e).jobs = e.jobs := by rw [touch_frame]
@[simp] theorem touch_inReset (e : Engine) : (touch e).inReset = e.inReset := by rw [touch_frame]

/-! What the checks of an arriving message look at. -/

/-- Two engines look alike to the checks of an arriving message. -/
structure Alike (e e' : Engine) : Prop where
  ctxs    : e'.ctxs = e.ctxs
  shards  : e'.shards = e.shards
  inReset : e'.inReset = e.inReset
  reg     : ∀ r, r ≠ .pwrSts → getReg r e' = getReg r e

theorem alike_touch (e : Engine) : Alike e (touch e) :=
  ⟨touch_ctxs e, touch_shards e, touch_inReset e, fun _ h => touch_getReg h e⟩

theorem alike_taken (m : Msg) (e : Engine) : Alike e (msgTaken m e) := by
  simp only [msgTaken]
  split
  · exact ⟨touch_ctxs e, touch_shards e, touch_inReset e, fun _ h => touch_getReg h e⟩
  · exact alike_touch e

variable {e e' : Engine}

theorem Alike.getF (a : Alike e e') {r : Reg} (h : r ≠ .pwrSts) (f : Field) : Machine.getF r f e' = Machine.getF r f e := by
  unfold Machine.getF; rw [a.reg r h]

theorem Alike.imgOf (a : Alike e e') (n : Nat) : Machine.imgOf n e' = Machine.imgOf n e := by
  unfold Machine.imgOf slotOf; rw [a.ctxs]

theorem Alike.place (a : Alike e e') (slot row : Nat) : Machine.place slot row e' = Machine.place slot row e := by
  unfold Machine.place shardEntry thisDev
  rw [a.imgOf, a.shards, a.getF (r := .podCfg) (by decide)]

theorem Alike.movedRow (a : Alike e e') (slot row : Nat) : Machine.movedRow slot row e' = Machine.movedRow slot row e := by
  unfold Machine.movedRow thisDev
  rw [a.place, a.getF (r := .podCfg) (by decide)]

theorem Alike.genOk (a : Alike e e') (h : Hdr) : Machine.genOk h e' = Machine.genOk h e := by
  unfold Machine.genOk slotOf
  rw [a.imgOf, a.ctxs]

theorem Alike.staleMsg (a : Alike e e') (m : Msg) : Machine.staleMsg m e' = Machine.staleMsg m e := by
  simp only [Machine.staleMsg, a.genOk, slotOf, a.ctxs]

theorem Alike.slicePoweredOff (a : Alike e e') (n : Nat) : Machine.slicePoweredOff n e' = Machine.slicePoweredOff n e := by
  unfold Machine.slicePoweredOff
  rw [a.getF (r := .slcSts n) (by simp)]

/-! Delivery. -/

/-- The conditions of `msgPasses` that concern the delivery. -/
def delivers (m : Msg) (e : Engine) : Bool :=
  !staleMsg m e && (!tableChecked m.b || genOk m.h e) &&
  !((tableChecked m.b || decide (bodyType m.b = 0x20 ∨ bodyType m.b = 0x22)) && slicePoweredOff m.h.dstSlice e) &&
  (decide (m.h.arg = 2 ∧ bodyType m.b = 0x32) || (homeRow m.b).all (fun row => !movedRow m.h.tableId row e))

theorem Alike.delivers (a : Alike e e') (m : Msg) : Machine.delivers m e' = Machine.delivers m e := by
  simp only [Machine.delivers, a.staleMsg, a.genOk, a.slicePoweredOff, a.movedRow]

/-- The checks of a delivery, in their order. -/
theorem deliver_eq (m : Msg) (e : Engine) : deliver m e =
    (if staleMsg m e then e
     else if tableChecked m.b && !genOk m.h e then rejectMsg m 0 e
     else if (tableChecked m.b || decide (bodyType m.b = 0x20 ∨ bodyType m.b = 0x22)) && slicePoweredOff m.h.dstSlice e then rejectMsg m 1 e
     else match homeRow m.b with
       | some row => if !(m.h.arg = 2 ∧ bodyType m.b = 0x32) ∧ movedRow m.h.tableId row e
           then passOn m m.h.tableId row e else settle (actOn m e)
       | none => settle (actOn m e)) := by
  obtain ⟨h, b⟩ := m; cases b <;> rfl

/-- A message that nothing keeps from its operation starts it. -/
theorem deliver_acts (m : Msg) (e : Engine) (h : delivers m e = true) : deliver m e = settle (actOn m e) := by
  simp only [delivers, Bool.and_eq_true, Bool.or_eq_true, Bool.not_eq_true', decide_eq_true_eq] at h
  obtain ⟨⟨⟨hs, hg⟩, hp⟩, hm⟩ := h
  have h1 : (tableChecked m.b && !genOk m.h e) = false := by
    rcases hg with hg | hg <;> simp [hg]
  rw [deliver_eq, hs, h1, hp]
  simp only [Bool.false_eq_true, if_false]
  split
  · rename_i row hr
    rw [if_neg]
    rintro ⟨h2, h3⟩
    rcases hm with hm | hm
    · simp [hm] at h2
    · rw [hr] at hm; simp [h3] at hm
  · rfl

/-- Every message command hands its message to the receiver. -/
theorem exec_msg (c : Instr) (m : Msg) (s : State) (h : msgOf c = some m) : exec c s = .next { s with eng := receive m s.eng } := by
  cases c <;> first | (simp only [msgOf, Option.some.injEq] at h; subst h; rfl) | (simp [msgOf] at h)

/-- A message that passes starts its operation on the engine that took it. -/
theorem receive_passes (m : Msg) (e : Engine) (h : msgPasses m e = true) :
    receive m e = msgEnded m (settle (actOn m (msgTaken m e))) := by
  have hd : delivers m e = true := by
    simp only [msgPasses, Bool.and_eq_true, Bool.or_eq_true] at h
    simp only [delivers, Bool.and_eq_true, Bool.or_eq_true]; exact ⟨⟨⟨h.1.1.1.2, h.1.1.2⟩, h.1.2⟩, h.2⟩
  simp only [msgPasses, Bool.and_eq_true, Bool.or_eq_true, Bool.not_eq_true', decide_eq_true_eq, alive, Option.isNone_iff_eq_none] at h
  obtain ⟨⟨⟨⟨⟨⟨⟨⟨⟨⟨hf, hi⟩, hp⟩, ht⟩, hc⟩, ha⟩, hn⟩, -⟩, -⟩, -⟩, -⟩ := h
  have td : thisDev (touch e) = thisDev e := touch_getF (by decide) _ e
  have ti : takeInjection 0x0B (m.h.dstSlice % 4) (touch e) = (false, touch e) := by
    simp only [takeInjection, touch_getB (r := .safeInject) (by decide), ha, Bool.false_and, Bool.false_eq_true, if_false]
  have hp' : ¬ podSize e ≤ thisDev e := by omega
  unfold receive
  simp only [hi, hf, hp', Option.isSome_none, decide_false, Bool.false_eq_true, if_false, td, ht, ne_eq,
    not_true_eq_false, ti, hc, Bool.not_true, Bool.or_self]
  have key := deliver_acts m (msgTaken m e) (by rw [(alike_taken m e).delivers]; exact hd)
  by_cases hz : bodyClass m.b = 0 ∨ m.h.fwd = true
  · have hnum : numbered m = false := by rcases hz with hz | hz <;> simp [numbered, hz]
    simp only [msgTaken, msgEnded, hnum, Bool.false_eq_true, if_false] at key ⊢
    rw [if_pos hz, key]
  · have hq : m.h.seq = tget 0 (m.h.srcDev, bodyClass m.b) e.net.seqIn := by
      rcases hn with hn | hn
      · exact absurd hn hz
      · exact hn
    have hnum : numbered m = true := by
      simp only [not_or, Bool.not_eq_true] at hz; simp [numbered, hz]
    simp only [msgTaken, msgEnded, hnum, if_true, touch_net] at key ⊢
    rw [if_neg hz]
    simp only [inOrder, touch_net]
    rw [if_pos hq, ← hq]
    simp only [key]

/-- The operation of a message that passes, as statements about messages speak of it. -/
theorem msgActs_of (c : Instr) (s : State) (f : Engine → Engine → Prop)
    (h : ∀ m, msgOf c = some m → msgPasses m s.eng = true → f (msgTaken m s.eng) (actOn m (msgTaken m s.eng))) : msgActs c s f := by
  intro m hm hp
  exact ⟨_, by rw [exec_msg c m s hm, receive_passes m s.eng hp], h m hm hp⟩

end Sys2Proof.Machine
end

