-- ==== Sys2Proof/Laws/Ops.lean ====
section
/-! SUPPORT. The shared operations: for each, once, everything that it can change. -/

namespace Sys2Proof.Machine

/-! Register writes (R9, R428, R447, R450). -/

/-- A write that breaks no rule leaves nothing undefined. -/
theorem spoilBy_none {r : Reg} {old : Engine} (h : writeBreaks r old = false) (e : Engine) : spoilBy r old e = e := by
  simp [spoilBy, h]

/-- A register with no behaviour of its own takes a write by its access codes, unless the write breaks a rule. -/
theorem plain_write {r : Reg} (h : plainReg r = true) (w m : Word) (ok : Bool) {e : Engine} (hb : writeBreaks r e = false) :
    writeReg r w m ok e = storeReg r w m e := by
  cases r <;> simp [plainReg] at h <;> exact spoilBy_none hb _

/-- Whether a write breaks a rule rests on the tasks, the gradient return, the contexts and the registers but SHD_PWR_STS. -/
theorem writeBreaks_congr {e e' : Engine} (r : Reg) (h : ∀ q, q ≠ .pwrSts → getReg q e' = getReg q e) (ht : e'.tasks = e.tasks)
    (hg : e'.grad = e.grad) (hc : e'.ctxs = e.ctxs) : writeBreaks r e' = writeBreaks r e := by
  have hF : ∀ q f, q ≠ .pwrSts → getF q f e' = getF q f e := fun q f hq => by rw [getF, getF, h q hq]
  have hB : ∀ q f, q ≠ .pwrSts → getB q f e' = getB q f e := fun q f hq => by rw [getB, getB, hF q f hq]
  have hk : openStep e' = openStep e := hF _ _ (by simp)
  have ho : openSteps e' = openSteps e := by rw [openSteps, openSteps, hk, hg, ht]
  have hu : ∀ p, setInUse p e' = setInUse p e := fun p => by rw [setInUse, setInUse, hc]
  have hs : ∀ q, setsOf q e' = setsOf q e := by
    intro q
    have hp : ∀ s, (fun p => decide (getF (.optCtl p) Fld.OPT_CTL_SCHED e' = s) && setInUse p e') =
        (fun p => decide (getF (.optCtl p) Fld.OPT_CTL_SCHED e = s) && setInUse p e) :=
      fun s => funext fun p => by rw [hF _ _ (by simp), hu]
    cases q <;> simp only [setsOf, hp] <;> rw [hu]
  cases r <;> simp only [writeBreaks] <;> first
    | rfl
    | rw [ht]
    | rw [ho, hs]
    | rw [hB .stepSts _ (by simp), hF (.slcGradSts _) _ (by simp)]
    | rw [hB .stepSts _ (by simp)]
    | rw [hF (.logPi _) _ (by simp), hF (.logCi _) _ (by simp), hB .logCtl _ (by simp)]

/-- What a register holds after a write: written bits where the access masks and the bytes of the access allow it. -/
theorem storeReg_get (r : Reg) (w m : Word) (e : Engine) : getReg r (storeReg r w m e) =
    ((getReg r e &&& ~~~(r.spec.rw &&& m)) ||| (w &&& r.spec.rw &&& m)) &&& ~~~(w &&& r.spec.w1c &&& m) := by
  simp only [storeReg]; split
  · rename_i h; exact h.symm
  · simp

/-- A write changes no other register and nothing else. -/
theorem storeReg_frame (r : Reg) (w m : Word) (e : Engine) : onlyRegs [r] e (storeReg r w m e) := by
  simp only [storeReg]; split
  · exact ⟨rfl, fun q _ => rfl⟩
  · refine ⟨rfl, fun q hq => ?_⟩
    have : q ≠ r := by simpa using hq
    simp [getReg_setReg_other this]

/-- A field write changes no other register and nothing else. -/
theorem setF_frame (r : Reg) (f : Field) (x : Nat) (e : Engine) : onlyRegs [r] e (setF r f x e) := by
  refine ⟨rfl, fun q hq => ?_⟩
  have : q ≠ r := by simpa using hq
  simp [setF, getReg_setReg_other this]

/-- A write that reaches its register: the engine wakes, and a lost item is lost no longer. -/
theorem atReg_acts {r : Reg} (f : Engine → Engine) {e : Engine} (h : writable r e = true) :
    atReg r f e = f { (if r = .pwrCtl then e else touch e) with lostRegs := e.lostRegs.filter (fun x => decide (x ≠ r)) } := by
  simp only [writable, Bool.and_eq_true, Option.isNone_iff_eq_none, Bool.not_eq_true'] at h
  simp only [atReg, h.1, h.2, Option.isSome_none, Bool.or_self, Bool.false_eq_true, if_false]
  split
  · rfl
  · rw [touch_frame]

/-- A write that does not reach its register does nothing. -/
theorem atReg_stays {r : Reg} (f : Engine → Engine) {e : Engine} (h : writable r e = false) : atReg r f e = e := by
  cases h1 : e.inReset <;> cases h2 : regGated r e <;> simp_all [writable, atReg]

/-! The pins, the alert flags and the event log (R404, R413 to R419). -/

/-- Driving SHD_ALERT_N changes that pin alone. -/
theorem driveAlert_frame (e : Engine) : driveAlert e = { e with pinAlert := (driveAlert e).pinAlert } := by
  simp only [driveAlert]; split <;> rfl

/-- Setting an alert flag changes SHD_FAULT_STS and the pin. -/
theorem setAlert_frame (f : Field) (e : Engine) :
    setAlert f e = { setF .faultSts f 1 e with pinAlert := (setAlert f e).pinAlert } := driveAlert_frame _

theorem setAlert_getReg {r : Reg} (h : r ≠ .faultSts) (f : Field) (e : Engine) : getReg r (setAlert f e) = getReg r e := by
  rw [setAlert_frame]
  exact getReg_setReg_other h _ e

/-- What forming a record changes: SHD_LOG_STS of its slice, SHD_FAULT_STS, the alert pin, counters and logs. -/
theorem logEvent_frame (r : LogRec) (e : Engine) : logEvent r e =
    { e with regs := (logEvent r e).regs, pinAlert := (logEvent r e).pinAlert, counters := (logEvent r e).counters
             logs := (logEvent r e).logs } := by
  simp only [logEvent]
  split
  · split
    · rfl
    · rw [setAlert_frame]; rfl
  · rfl

theorem logEvent_getReg {q : Reg} (r : LogRec) (e : Engine) (h : q ≠ .faultSts) (h' : q ≠ .logSts r.slice) :
    getReg q (logEvent r e) = getReg q e := by
  simp only [logEvent]
  split
  · split
    · rfl
    · rw [setAlert_getReg h]
      show getReg q (setF (.logSts r.slice) _ _ _) = _
      simp only [setF, getReg_setReg_other h']
      rfl
  · rfl

/-! Free values and counters (notes/assumptions/2.md; R422). -/

/-- Taking a free value advances their count and nothing else. -/
theorem takeFree_frame (e : Engine) : (takeFree e).2 = { e with freeCtr := e.freeCtr + 1 } := rfl

/-- Taking free bytes advances the count of free values alone. -/
theorem takeFreeBytes_frame (n : Nat) : ∀ e, (takeFreeBytes n e).2 = { e with freeCtr := e.freeCtr + n } := by
  induction n with
  | zero => intro e; rfl
  | succ n ih =>
    intro e
    show (takeFreeBytes n (takeFree e).2).2 = _
    rw [ih, takeFree_frame]
    simp only [Nat.add_right_comm, Nat.add_assoc]

@[simp] theorem takeFreeBytes_length (n : Nat) : ∀ e, (takeFreeBytes n e).1.length = n := by
  induction n with
  | zero => intro e; rfl
  | succ n ih => intro e; exact congrArg (· + 1) (ih _)

/-- Taking free lanes advances the count of free values alone. -/
theorem takeFreeLanes_frame (n : Nat) : ∀ e, (takeFreeLanes n e).2 = { e with freeCtr := e.freeCtr + n } := by
  induction n with
  | zero => intro e; rfl
  | succ n ih =>
    intro e
    show (takeFreeLanes n (takeFree e).2).2 = _
    rw [ih, takeFree_frame]
    simp only [Nat.add_right_comm, Nat.add_assoc]

@[simp] theorem freeIf_false (bs : List Byte) (e : Engine) : freeIf false bs e = (bs, e) := rfl
@[simp] theorem freeIf_true (bs : List Byte) (e : Engine) : freeIf true bs e = takeFreeBytes bs.length e := rfl

/-- A detection changes what forming a record changes, and takes free values. -/
theorem logIntegrity_frame (cl n code ref src : Nat) (inj : Bool) (e : Engine) : logIntegrity cl n code ref src inj e =
    { e with regs := (logIntegrity cl n code ref src inj e).regs, freeCtr := e.freeCtr + 1
             pinAlert := (logIntegrity cl n code ref src inj e).pinAlert
             counters := (logIntegrity cl n code ref src inj e).counters, logs := (logIntegrity cl n code ref src inj e).logs } := by
  simp only [logIntegrity]
  rw [logEvent_frame]
  cases checkCounter code <;> rfl

/-! Messages (R375 to R379). -/

/-- Posting a message changes the links alone. -/
theorem post_frame (m : Msg) (e : Engine) : post m e = { e with net := (post m e).net } := by
  simp only [post]
  split
  · rfl
  · split <;> rfl

theorem sendMsg_frame (h : Hdr) (b : Body) (e : Engine) : sendMsg h b e = { e with net := (sendMsg h b e).net } :=
  post_frame _ _

/-- An answer changes the links, or what forming a record changes (R460). -/
theorem sendAnswer_frame (h : Hdr) (b : Body) (e : Engine) : sendAnswer h b e =
    { e with regs := (sendAnswer h b e).regs, pinAlert := (sendAnswer h b e).pinAlert, net := (sendAnswer h b e).net
             counters := (sendAnswer h b e).counters, logs := (sendAnswer h b e).logs } := by
  simp only [sendAnswer]
  split
  · rw [sendMsg_frame]
  · rw [logEvent_frame]

/-- A message to a device that cannot be reached is not sent (R379, R410). -/
theorem post_unreachable {m : Msg} {e : Engine} (h : m.h.dstDev ≠ thisDev e) (h' : reachable m.h.dstDev e = false) :
    post m e = e := by
  simp [post, h, h']

/-- In the fault state no message leaves but FAULT_NOTICE (R402). -/
theorem post_inFault {m : Msg} {e : Engine} (h : inFault e = true) (h' : bodyType m.b ≠ 0x11) : post m e = e := by
  simp [post, h, h']

/-- An interrupt message changes the front end at the head, the links at another device. -/
theorem writeMsix_frame (v : Nat) (e : Engine) :
    writeMsix v e = { e with front := (writeMsix v e).front, net := (writeMsix v e).net } := by
  simp only [writeMsix]
  split
  · rfl
  · rw [sendMsg_frame]

/-! Folds over the engine. -/

/-- What every operation of a fold keeps, the fold keeps. -/
theorem forEach_keeps {α : Type} (P : Engine → Prop) (f : α → Engine → Engine) (h : ∀ a e, P e → P (f a e)) (xs : List α) :
    ∀ e, P e → P (forEach xs f e) := by
  unfold forEach
  induction xs with
  | nil => intro e he; exact he
  | cons a xs ih => intro e he; exact ih _ (h a e he)

theorem faultNotices_frame (cause n : Nat) (e : Engine) :
    faultNotices cause n e = { e with net := (faultNotices cause n e).net } := by
  refine forEach_keeps (fun x => x = { e with net := x.net }) _ ?_ _ e rfl
  intro d x hx
  show (if routeValid d x && decide (d ≠ thisDev x) then _ else x) = _
  split
  · rw [sendMsg_frame]; rw [hx]
  · exact hx

/-! The memories. -/

/-- The host memory and the links: what a store to host memory changes. -/
theorem hostWrite_frame (a : Nat) (bs : List Byte) (e : Engine) : hostWrite a bs e =
    { e with mem := { e.mem with host := memWrite a bs e.mem.host }, net := (hostWrite a bs e).net } := by
  simp only [hostWrite]
  split
  · rfl
  · rw [sendMsg_frame]; rfl

/-- The new checks of HBM sectors change the side bits alone. -/
theorem resideSectors_frame (first count : Nat) (m : Mems) :
    resideSectors first count m = { m with hbmSide := (resideSectors first count m).hbmSide } := by
  unfold resideSectors
  generalize List.range count = l
  suffices ∀ (l : List Nat) (x : Mems), x = { m with hbmSide := x.hbmSide } →
      ∀ y, y = l.foldl (fun m i =>
        { m with hbmSide := tput (first + i) (sideBits (memRead (32 * (first + i)) 32 m.hbm)
          ((tget 0 (first + i) m.hbmSide).extractLsb' 24 8) (32 * (first + i))) m.hbmSide }) x →
      y = { m with hbmSide := y.hbmSide } from this l m rfl _ rfl
  intro l
  induction l with
  | nil => intro x hx y hy; rw [hy]; exact hx
  | cons i l ih =>
    intro x hx y hy
    refine ih _ ?_ y hy
    rw [hx]

/-- A store at an engine address changes the memories and the links. -/
theorem eaWrite_frame (a : Nat) (bs : List Byte) (e : Engine) :
    eaWrite a bs e = { e with mem := (eaWrite a bs e).mem, net := (eaWrite a bs e).net } := by
  simp only [eaWrite]
  split
  · rw [hostWrite_frame]
  · rfl
  · rfl

theorem mems_wf_iff (m : Mems) : m.wf = true ↔
    Memory.wf m.host = true ∧ Memory.wf m.hbm = true ∧ Memory.wf m.llm = true ∧ Memory.wf m.exp = true := by
  simp [Mems.wf, and_assoc]

/-- A store to host memory keeps the canonical form. -/
theorem hostWrite_wf (a : Nat) (bs : List Byte) {e : Engine} (h : e.mem.wf = true) : (hostWrite a bs e).mem.wf = true := by
  rw [hostWrite_frame]
  rw [mems_wf_iff] at h ⊢
  exact ⟨memory_wf_memWrite bs a _ h.1, h.2⟩

/-- A store at an engine address keeps the canonical form. -/
theorem eaWrite_wf (a : Nat) (bs : List Byte) {e : Engine} (h : e.mem.wf = true) : (eaWrite a bs e).mem.wf = true := by
  simp only [eaWrite]
  split
  · exact hostWrite_wf _ bs h
  · rw [mems_wf_iff] at h
    rw [setMem_mem, mems_wf_iff]
    split
    · exact ⟨h.1, memory_wf_memWrite bs _ _ h.2.1, h.2.2⟩
    · rw [resideSectors_frame]; exact ⟨h.1, memory_wf_memWrite bs _ _ h.2.1, h.2.2⟩
  · rw [mems_wf_iff] at h
    rw [setMem_mem, mems_wf_iff]
    exact ⟨h.1, h.2.1, memory_wf_memWrite bs _ _ h.2.2.1, h.2.2.2⟩

/-- Free values at an engine address change the memories, the links and the count of free values. -/
theorem spoil_frame (x : Nat × Nat) (e : Engine) :
    spoil x e = { e with mem := (spoil x e).mem, net := (spoil x e).net, freeCtr := (spoil x e).freeCtr } := by
  simp only [spoil]
  split
  · rw [eaWrite_frame, takeFreeBytes_frame]
  · rfl

/-- The outputs beyond ITEMS become undefined: nothing but the memories, the links and the count of free values changes. -/
theorem spoilRest_frame (j : Job) (e : Engine) : spoilRest j e =
    { e with mem := (spoilRest j e).mem, net := (spoilRest j e).net, freeCtr := (spoilRest j e).freeCtr } := by
  refine forEach_keeps (fun x => x = { e with mem := x.mem, net := x.net, freeCtr := x.freeCtr }) _ ?_ _ e rfl
  intro a x hx
  rw [spoil_frame]
  rw [hx]

/-- A job without outputs in memory leaves nothing undefined. -/
theorem spoilRest_none {j : Job} (h : j.outs = []) (e : Engine) : spoilRest j e = e := by
  simp [spoilRest, restOuts, outsFrom, h, forEach]

/-- The outputs of all tasks become undefined: nothing but the memories, the links and the count of free values changes. -/
theorem spoilAll_frame (e : Engine) : spoilAll e =
    { e with mem := (spoilAll e).mem, net := (spoilAll e).net, freeCtr := (spoilAll e).freeCtr } := by
  refine forEach_keeps (fun x => x = { e with mem := x.mem, net := x.net, freeCtr := x.freeCtr }) _ ?_ _ e rfl
  intro j x hx
  refine forEach_keeps (fun y => y = { e with mem := y.mem, net := y.net, freeCtr := y.freeCtr }) _ ?_ _ x hx
  intro a y hy
  rw [spoil_frame]
  rw [hy]

/-- Where no task has outputs in memory, nothing becomes undefined. -/
theorem spoilAll_none {e : Engine} (h : ∀ j ∈ e.jobs, j.outs = []) : spoilAll e = e := by
  have gen : ∀ (l : List Job) (x : Engine), (∀ j ∈ l, j.outs = []) →
      forEach l (fun j e => forEach (outsFrom 0 j e) spoil e) x = x := by
    intro l
    induction l with
    | nil => intro x _; rfl
    | cons a l ih =>
      intro x hl
      have ha : outsFrom 0 a x = [] := by simp [outsFrom, hl a (by simp)]
      have := ih x (fun j hj => hl j (by simp [hj]))
      simp only [forEach, List.foldl_cons] at this ⊢
      simp only [ha, List.foldl_nil]
      exact this
  exact gen e.jobs e h

/-- Free values keep the canonical form. -/
theorem spoilAll_wf {e : Engine} (h : e.mem.wf = true) : (spoilAll e).mem.wf = true := by
  refine forEach_keeps (fun x => x.mem.wf = true) _ ?_ _ e h
  intro j x hx
  refine forEach_keeps (fun y => y.mem.wf = true) _ ?_ _ x hx
  intro a y hy
  simp only [spoil]
  split
  · exact eaWrite_wf _ _ (by rw [takeFreeBytes_frame]; exact hy)
  · exact hy

/-- Free values keep the canonical form. -/
theorem spoilRest_wf (j : Job) {e : Engine} (h : e.mem.wf = true) : (spoilRest j e).mem.wf = true := by
  refine forEach_keeps (fun x => x.mem.wf = true) _ ?_ _ e h
  intro a x hx
  simp only [spoil]
  split
  · exact eaWrite_wf _ _ (by rw [takeFreeBytes_frame]; exact hx)
  · exact hx

/-- Host memory reads back what was stored. -/
theorem hostRead_hostWrite (a : Nat) (bs : List Byte) {e : Engine} (h : e.mem.wf = true) :
    hostRead a bs.length (hostWrite a bs e) = bs := by
  rw [hostWrite_frame]
  exact memRead_memWrite bs a _ ((mems_wf_iff _).mp h).1

/-- Host memory apart from a store reads as before. -/
theorem hostRead_hostWrite_apart {c n a : Nat} {bs : List Byte} {e : Engine} (h : e.mem.wf = true)
    (hc : c + n ≤ a ∨ a + bs.length ≤ c) : hostRead c n (hostWrite a bs e) = hostRead c n e := by
  rw [hostWrite_frame]
  exact memRead_memWrite_apart n c a bs _ ((mems_wf_iff _).mp h).1 hc

/-! The fault state (R402, R403). -/

/-- In the fault state nothing enters it again. -/
theorem enterFault_again {c n : Nat} {l i : Bool} {e : Engine} (h : inFault e = true) : enterFault c n l i e = e := by
  simp [enterFault, h]

/-- Nothing changed but registers, pins, counters and logs, the front end, the links, the memories and the count of free
values. -/
def faultOnly (e x : Engine) : Prop :=
  x = { e with regs := x.regs, pinFault := x.pinFault, pinAlert := x.pinAlert, pinAlive := x.pinAlive, front := x.front
               counters := x.counters, logs := x.logs, net := x.net, mem := x.mem, freeCtr := x.freeCtr }

/-- Entering the fault state changes registers, pins, counters and logs, the front end, the links, and the memories and the
count of free values where tasks have outputs there. -/
theorem enterFault_frame (c n : Nat) (l i : Bool) (e : Engine) : faultOnly e (enterFault c n l i e) := by
  have trans : ∀ {x y : Engine}, faultOnly e x → faultOnly x y → faultOnly e y := by
    intro x y h h'
    unfold faultOnly at h h' ⊢
    rw [h', h]
  have l1 : ∀ r x, faultOnly x (logEvent r x) := fun r x => by rw [faultOnly, logEvent_frame]
  have l2 : ∀ d n x, faultOnly x (faultNotices d n x) := fun d n x => by rw [faultOnly, faultNotices_frame]
  have l3 : ∀ v x, faultOnly x (writeMsix v x) := fun v x => by rw [faultOnly, writeMsix_frame]
  have l4 : ∀ x, faultOnly x (driveAlert x) := fun x => by rw [faultOnly, driveAlert_frame]
  have l5 : ∀ r f v x, faultOnly x (setF r f v x) := fun _ _ _ _ => rfl
  have l6 : ∀ (x : Engine) p q, faultOnly x { x with pinFault := p, pinAlive := q } := fun _ _ _ => rfl
  have l7 : ∀ x, faultOnly x (spoilAll x) := fun x => by rw [faultOnly, spoilAll_frame]
  simp only [enterFault]
  split
  · rfl
  · refine trans (trans ?_ (l4 _)) (l7 _)
    refine trans (trans ?_ (l5 .faultSts Fld.FAULT_STS_FAULT 1 _)) (l6 _ .low .low)
    split
    · exact trans (trans (trans (trans (trans (l5 _ _ _ _) (l5 _ _ _ _)) (l5 _ _ _ _)) (l1 _ _)) (l2 _ _ _)) (l3 _ _)
    · exact trans (trans (trans (trans (l5 _ _ _ _) (l5 _ _ _ _)) (l5 _ _ _ _)) (l1 _ _)) (l2 _ _ _)

/-- Taking an armed injection changes SHD_SAFE_INJECT alone. -/
theorem takeInjection_frame (code n : Nat) (e : Engine) : onlyRegs [.safeInject] e (takeInjection code n e).2 := by
  simp only [takeInjection]
  split
  · exact setF_frame _ _ _ _
  · exact ⟨rfl, fun _ _ => rfl⟩

end Sys2Proof.Machine
end

