-- ==== Sys2Proof/WellFormed.lean ====
section
/-! DEFINITION. Which commands are well formed: the numbers they carry exist on this hardware (00_scope.md; 02 R25;
13 R375). A command that is not well formed has a meaning too; it finds nothing to act on. -/

namespace Sys2Proof

/-- A slice, its base die, or one of the four edges between them. -/
def sliceNo (n : Nat) : Bool := decide (n < 4)

/-- A ring (R25). -/
def ringNo (r : Nat) : Bool := decide (r < 1024)

/-- A task: that of a ring names a ring that can exist. -/
def refOk (r : TaskRef) : Bool :=
  match r with
  | .ring n _ => ringNo n
  | .sring => true
  | .near _ => true

/-- An HBM stack. -/
def stackNo (s : Nat) : Bool := decide (s < 8)

/-- A way of a row cache (R313). -/
def wayNo (w : Nat) : Bool := decide (w < 24)

/-- A device of a pod (R381). -/
def deviceNo (d : Nat) : Bool := decide (d < 64)

/-- A port (R373). -/
def portNo (p : Nat) : Bool := decide (p < 16)

/-- A service position of a slice (R12). -/
def positionNo (p : Nat) : Bool := decide (p < 64)

/-- A link: a port, or 16 and more for a die-to-die edge. -/
def linkNo (l : Nat) : Bool := decide (l < 20)

/-- A doorbell line of a device (R56). -/
def lineNo (l : Nat) : Bool := decide (l < 64)

/-- A table context slot (R63). -/
def slotNo (s : Nat) : Bool := decide (s < 4096)

/-- The fields of a header have their widths (R375). -/
def hdrOk (h : Hdr) : Bool :=
  deviceNo h.dstDev && sliceNo h.dstSlice && deviceNo h.srcDev && sliceNo h.srcSlice && decide (h.hops < 8) &&
  decide (h.seq < 2 ^ 32) && decide (h.tableId < 4096) && decide (h.epoch < 256) && decide (h.gen < 2 ^ 32)

/-- A message whose header has its widths. -/
def msgOk (m : Msg) : Bool := hdrOk m.h
/-- The operands of a command name things that exist and fields that have their width. -/
def Instr.wellFormed (i : Instr) : Bool :=
  match i with
  | .registerWrite _ _ _ _ => true
  | .timeLowRead => true
  | .timeHighRead => true
  | .start r _ => ringNo r
  | .stop r => ringNo r
  | .abort r => ringNo r
  | .ringCmdOther r _ => ringNo r
  | .ringStopped r => ringNo r
  | .enableSet => true
  | .enableClear => true
  | .doorbellPollClear => true
  | .firstStepWrite _ => true
  | .wayCfgWrite n _ => sliceNo n
  | .wayReconfDone n => sliceNo n
  | .streamCfgWrite n _ => sliceNo n
  | .sringTailWrite _ => true
  | .sringBaseWrite _ => true
  | .sringExecute => true
  | .sliceOfflineWrite n => sliceNo n
  | .sliceOfflineReached n => sliceNo n
  | .sliceOnlineWrite n => sliceNo n
  | .slicePowerOff n => sliceNo n
  | .sliceGateDone n => sliceNo n
  | .slicePowerUp n => sliceNo n
  | .profileSelect _ => true
  | .injectArm _ n => sliceNo n
  | .logFlush => true
  | .sketchClear n => sliceNo n
  | .ucieAdmit _ => true
  | .ucieEject => true
  | .driftCheckGo n => sliceNo n
  | .driftCheckRow n => sliceNo n
  | .resetEngine => true
  | .resetFull => true
  | .powerOnReset => true
  | .train => true
  | .continueInit => true
  | .pllLockDone n _ => sliceNo n
  | .d2dSelectDone n _ => sliceNo n
  | .hbmTrainingDone n _ _ _ => sliceNo n
  | .cacheTestDone n _ => sliceNo n
  | .coreTestDone n _ => sliceNo n
  | .startupStepTimeout _ => true
  | .barAccess _ _ _ _ _ _ => true
  | .pathWindowAccess _ port _ _ _ _ _ => portNo port
  | .relayReadTimeout _ => true
  | .doorbellInvalidation dev line => deviceNo dev && lineNo line
  | .doorbellPollTick _ => true
  | .doorbellLineRead dev line _ => deviceNo dev && lineNo line
  | .doorbellReadFault dev line => deviceNo dev && lineNo line
  | .doorbellRetry dev line _ _ => deviceNo dev && lineNo line
  | .descFetch => true
  | .descArrival r => ringNo r
  | .seqReread r _ => ringNo r
  | .descReadFault r _ => ringNo r
  | .ctxWriteFault r => ringNo r
  | .completionWrite r => ringNo r
  | .cplWriteFault r => ringNo r
  | .intDelayExpiry r => ringNo r
  | .lookupPool r => refOk r
  | .gatherRows r => refOk r
  | .pageGather r => refOk r
  | .dispatch r => refOk r
  | .combine r => refOk r
  | .gradScatter r => refOk r
  | .stepCloseClose r _ => refOk r
  | .stepCloseArrival r _ => refOk r
  | .scatterAdd r => refOk r
  | .rowWrite r => refOk r
  | .rowRead r => refOk r
  | .migrate r => refOk r
  | .replicaSetInstall r => refOk r
  | .replicaSetRemove r => refOk r
  | .replicaSetVerify r => refOk r
  | .replicaSetRemoveTable r => refOk r
  | .stateExport r => refOk r
  | .stateImport r => refOk r
  | .ctxLoad r _ => refOk r
  | .ctxUnload r => refOk r
  | .ctxLoadInstall r => refOk r
  | .ringSave r => refOk r
  | .ringRestore r _ => refOk r
  | .rearmNext r => refOk r
  | .rearmEnd r => refOk r
  | .roundEnd r => refOk r
  | .fence r => refOk r
  | .fenceRelease r => refOk r
  | .nop r => refOk r
  | .statsRead r _ => refOk r
  | .sketchHalving n => sliceNo n
  | .sectorReadDone _ _ _ _ => true
  | .wayAccessCountWrap n w => sliceNo n && wayNo w
  | .hbmWriteDone _ _ => true
  | .crumbWritebackDone _ => true
  | .bulkTransferDone _ _ _ => true
  | .depWordLineWrite die _ _ => sliceNo die
  | .depPollTick r _ => refOk r
  | .depTimeout r => refOk r
  | .streamWatchdogTick n => sliceNo n
  | .bagClose r _ _ => refOk r
  | .abftCheckPeriodic r _ _ => refOk r
  | .splitSlotWritten r _ _ _ => refOk r
  | .mergeSortStart => true
  | .mergeSortDone _ => true
  | .closeHeldResume => true
  | .gateUpSend => true
  | .gateTimeout => true
  | .gateAskTimer => true
  | .stateRowArrival _ _ _ => true
  | .stateTimeout _ => true
  | .chainTimeout n _ => sliceNo n
  | .mcastLagExpiry table dev => slotNo table && deviceNo dev
  | .dropAckTimeout table dev => slotNo table && deviceNo dev
  | .rejoinStart table home => slotNo table && deviceNo home
  | .replicaFetchTimeout table _ => slotNo table
  | .migrateSwitch r => refOk r
  | .fwdWindowExpiry r => refOk r
  | .positionMove n p => sliceNo n && positionNo p
  | .spareRotation n => sliceNo n
  | .coreSelfTestDone n _ => sliceNo n
  | .latentTest _ => true
  | .clockMonitorTrip d _ => sliceNo d
  | .railMonitorTrip d => sliceNo d
  | .hbmTempSample k _ => stackNo k
  | .throttleRisePeriod k => stackNo k
  | .throttleFallPeriod k => stackNo k
  | .powerCapCompare => true
  | .powerLevelFall => true
  | .telemetrySample _ => true
  | .idleEntry => true
  | .idleWake => true
  | .aliveHalfPeriod => true
  | .shdGpool _ _ _ _ _ _ _ => true
  | .shdGather _ _ _ _ _ _ => true
  | .shdSadd _ _ _ _ _ _ _ => true
  | .shdSync _ => true
  | .nearOutcome _ => true
  | .nearStopRequest _ => true
  | .nearStopWindowExpiry _ => true
  | .nearResume _ _ _ _ _ _ _ _ _ _ => true
  | .flit link _ _ => linkNo link
  | .portLinkDown p => portNo p
  | .e2eResendTimeout dev _ _ => deviceNo dev
  | .ctrlRepeatTimer peer _ _ _ => deviceNo peer
  | .messageForward m => msgOk m
  | .badMessage src _ => deviceNo src
  | .e2eAck h _ _ => hdrOk h
  | .e2eNack h _ _ => hdrOk h
  | .gateUp h _ _ _ => hdrOk h
  | .gateDown h _ _ _ => hdrOk h
  | .gateAsk h _ => hdrOk h
  | .endAck h _ => hdrOk h
  | .replay h _ _ _ _ _ _ _ _ => hdrOk h
  | .drop h _ => hdrOk h
  | .dropAck h _ => hdrOk h
  | .rejoin h _ => hdrOk h
  | .rejoinAck h _ => hdrOk h
  | .shardMap h _ _ _ _ => hdrOk h
  | .shardMapAck h _ _ _ => hdrOk h
  | .timeExchangeTimer => true
  | .timeSync h _ => hdrOk h
  | .timeReply h _ _ _ => hdrOk h
  | .timeReplyLoss => true
  | .mcastAck h _ _ _ => hdrOk h
  | .faultNotice h _ _ => hdrOk h
  | .ask h _ _ _ => hdrOk h
  | .stateRead h _ _ _ => hdrOk h
  | .stateData h _ _ _ => hdrOk h
  | .stateWrite h _ _ _ => hdrOk h
  | .stateWriteAck h _ _ => hdrOk h
  | .subList h _ _ _ _ _ _ => hdrOk h
  | .rowReq h _ _ => hdrOk h
  | .replicaFetch h _ _ => hdrOk h
  | .prefetchHint h _ _ => hdrOk h
  | .replicaAction h _ _ _ => hdrOk h
  | .rowWriteReq h _ _ _ _ => hdrOk h
  | .partialIn h _ _ _ _ _ _ _ => hdrOk h
  | .rowIn h _ _ _ _ => hdrOk h
  | .reject h _ => hdrOk h
  | .writeDone h _ _ => hdrOk h
  | .chainRow h _ _ _ _ _ _ _ _ => hdrOk h
  | .chainEnd h _ _ _ _ _ => hdrOk h
  | .mcastRow h _ _ _ _ => hdrOk h
  | .mcastRemove h _ _ _ => hdrOk h
  | .token h _ _ _ _ => hdrOk h
  | .importRow h _ _ _ _ => hdrOk h
  | .migrateCopy h _ _ _ _ _ => hdrOk h
  | .regWrite h _ _ _ => hdrOk h
  | .regRead h _ _ _ => hdrOk h
  | .regData h _ _ => hdrOk h
  | .dbLine h _ _ => hdrOk h
  | .hostRead h _ _ => hdrOk h
  | .hostData h _ _ => hdrOk h
  | .hostWrite h _ _ => hdrOk h
  | .msi h _ => hdrOk h
  | .sectorData _ _ _ => true
  | .ucieLinkDown => true
  | .d2dBundleFail x => sliceNo x
  | .logPack n => sliceNo n
  | .logDrain n => sliceNo n
  | .logHostWriteFault n => sliceNo n
  | .resetRelease => true
  | .invalidation _ n => sliceNo n
  | .invalidationAck _ n => sliceNo n

end Sys2Proof
end

