-- ==== Sys2Proof/Tests/Slice0.lean ====
section
/-! SUPPORT. Tests: an ill-formed term for every check of WellFormed, the hypotheses of every statement met together at concrete
states and operands (wit_<Name>, clause by clause), and a few results worked out by hand from the manual. -/

namespace Sys2Proof.Tests

open Sys2Proof Sys2Proof.Machine

set_option Elab.async false

/-! Small states: an enabled engine, a loaded table, a task in flight. -/

/-- An engine that has left reset, enabled. -/
def up : Engine := setF .ctl Fld.CTL_ENABLE 1 { inReset := none }

/-- The state with an engine and an empty queue. -/
def on (e : Engine) : State := { eng := e }

/-- The engine that a command leaves (the default engine where it does not answer a next state). -/
def after (c : Instr) (e : Engine) : Engine := match exec c (on e) with | .next t => t.eng | _ => {}

/-- The value with fields (quadword, low bit, contents). -/
def quads (xs : List (Nat × Nat × Nat)) : Nat := xs.foldl (fun a x => a + x.2.2 * 2 ^ (64 * x.1 + x.2.1)) 0

/-- The descriptor with fields (quadword, low bit, contents). -/
def desc (xs : List (Nat × Nat × Nat)) : BitVec 512 := BitVec.ofNat 512 (quads xs)

/-- A context image: one shard of eight rows, WIDTH 16, FP32, with further fields. -/
def image (xs : List (Nat × Nat × Nat)) : BitVec 1024 :=
  BitVec.ofNat 1024 (quads ([(0, 0, 8), (1, 0, 16), (1, 16, 2), (1, 32, 1), (2, 0, 8), (3, 0, 8)] ++ xs))

/-- The engine with slot 5 loaded and its streams configured. -/
def tabbed (i : BitVec 1024) : Engine :=
  { setReg (.slcStreamCfg 0) 0xFFFFFFFFFFFFFFFF (setF (.slcProfHome 0 0) Fld.SLC_PROF_HOME_HOME_POS_COUNT 1 up) with
    ctxs := [(5, { loaded := true, img := i })], shards := [(0, ⟨5, 0⟩)] }

/-- The task of ring 3 at position 10. -/
def r9 : TaskRef := .ring 3 10

/-- A RUNNING ring whose completion position is 10. -/
def ring3 : Ring :=
  { ctx := { descBase := 0x20000, cplBase := 0x30000, log2Size := 6, maxInflight := 8 }, state := .running, nextPos := 11
    pLast := 11, cplPos := 10, startAt := 10 }

/-- A fetched task with a descriptor, of privilege M. -/
def task (xs : List (Nat × Nat × Nat)) : Task := { ref := r9, desc := desc xs, phase := .ready, priv := 3, domain := 0 }

/-- The engine with that task and its ring. -/
def given (xs : List (Nat × Nat × Nat)) (e : Engine) : Engine :=
  { e with front := { e.front with rings := e.front.rings ++ [(3, ring3)] }, tasks := [task xs] }

/-- Slot 5 loaded and the task of a descriptor. -/
def ready (xs : List (Nat × Nat × Nat)) : Engine := given xs (tabbed (image []))

/-- Host memory with bytes placed at an address. -/
def placed (a : Nat) (bs : List Byte) (e : Engine) : Engine :=
  { e with mem := { e.mem with host := memWrite a bs e.mem.host } }

/-! Ill-formed terms, one for each check, each beside a well-formed one. -/

theorem test_sliceNo : Instr.wellFormed (.sliceGateDone 3) = true ∧ Instr.wellFormed (.sliceGateDone 4) = false := by decide +kernel
theorem test_ringNo : Instr.wellFormed (.stop 1023) = true ∧ Instr.wellFormed (.stop 1024) = false := by decide +kernel
theorem test_refOk : Instr.wellFormed (.nop r9) = true ∧ Instr.wellFormed (.nop (.ring 1024 0)) = false := by decide +kernel
theorem test_stackNo : Instr.wellFormed (.hbmTempSample 7 none) = true ∧ Instr.wellFormed (.hbmTempSample 8 none) = false := by
  decide +kernel
theorem test_wayNo : Instr.wellFormed (.wayAccessCountWrap 3 23) = true ∧ Instr.wellFormed (.wayAccessCountWrap 3 24) = false := by
  decide +kernel
theorem test_deviceNo : Instr.wellFormed (.doorbellRetry 63 0 true []) = true ∧
    Instr.wellFormed (.doorbellRetry 64 0 true []) = false := by decide +kernel
theorem test_portNo : Instr.wellFormed (.portLinkDown 15) = true ∧ Instr.wellFormed (.portLinkDown 16) = false := by decide +kernel
theorem test_positionNo : Instr.wellFormed (.positionMove 0 63) = true ∧ Instr.wellFormed (.positionMove 0 64) = false := by
  decide +kernel
theorem test_linkNo : Instr.wellFormed (.flit 19 [] false) = true ∧ Instr.wellFormed (.flit 20 [] false) = false := by decide +kernel
theorem test_lineNo : Instr.wellFormed (.doorbellRetry 0 63 true []) = true ∧
    Instr.wellFormed (.doorbellRetry 0 64 true []) = false := by decide +kernel
theorem test_hdrOk : Instr.wellFormed (.drop {} 4095) = true ∧ Instr.wellFormed (.drop { hops := 8 } 5) = false ∧
    Instr.wellFormed (.drop { epoch := 256 } 5) = false := by decide +kernel
theorem test_slotNo : Instr.wellFormed (.mcastLagExpiry 4095 0) = true ∧ Instr.wellFormed (.mcastLagExpiry 4096 0) = false := by decide +kernel
theorem test_msgOk : Instr.wellFormed (.messageForward ⟨{}, .e2eAck 0 0⟩) = true ∧
    Instr.wellFormed (.messageForward ⟨{ dstDev := 64 }, .e2eAck 0 0⟩) = false := by decide +kernel

/-! Registers and start-up ring. -/

/-- A pooling task in flight that names profile 0 of slice 0. -/
def pooling : Engine := { up with tasks := [{ task [(0, 0, 2)] with phase := .running }] }

theorem wit_RegisterWriteStores :
    (regAccess Reg.dbellPoll.offset 8 = some (.dbellPoll, 0) ∧ plainReg .dbellPoll = true ∧ writable .dbellPoll up = true ∧
      writeBreaks .dbellPoll up = false) ∧
    (regAccess (Reg.podLost.offset + 4) 4 = some (.podLost, 32) ∧ plainReg .podLost = true ∧ writable .podLost up = true) ∧
    regAccess 1 8 = none ∧
    (regAccess (Reg.slcProfCtl 0 0).offset 8 = some (.slcProfCtl 0 0, 0) ∧ writable (.slcProfCtl 0 0) pooling = true ∧
      pooling.tasks.all (namesProfile 0 0) = true ∧ writeBreaks (.slcProfCtl 0 0) pooling = true ∧
      writeBreaks (.slcProfCtl 0 1) pooling = false) := by and_intros <;> decide +kernel

/-- The window offset of SHD_SLC_PROF_CTL of slice 1, profile 2, by the table of R456, both ways. -/
theorem test_arrays : Reg.ofOffset? 0x21040 = some (.slcProfCtl 1 2) ∧ (Reg.slcProfCtl 1 2).offset = 0x21040 := by decide +kernel

/-- R156: a task whose profile is written while it runs has undefined outputs, and nothing else of it changes. -/
theorem test_profile_write : (after (.registerWrite (Reg.slcProfCtl 0 0).offset 8 1 true) pooling).tasks.map (·.undef) = [true] ∧
    (after (.registerWrite (Reg.slcProfCtl 0 1).offset 8 1 true) pooling).tasks.map (·.undef) = [false] := by decide +kernel

theorem wit_TimeInHalves :
    (up.inReset = none ∧ up.timeShadow = none) ∧ ({ up with timeShadow := some 7 } : Engine).timeShadow = some 7 ∧
    regAccess Reg.time.offset 8 = some (.time, 0) := by decide +kernel

/-- READY and not enabled. -/
def inReady : Engine := setF .initSts Fld.INIT_STS_STATE 7 { inReset := none }

/-- Polling, on device 0 of a pod of one. -/
def poller : Engine := setF .ctl Fld.CTL_DOORBELL_POLL 1 up

theorem wit_ControlWrites :
    (poller.inReset = none ∧ alive poller = true ∧ polling poller = true ∧ thisDev poller = 0 ∧ 0 < podSize poller) ∧
    (polling (setF .podCfg Fld.POD_CFG_DEVICE 1 poller) = true ∧ thisDev (setF .podCfg Fld.POD_CFG_DEVICE 1 poller) ≠ 0) ∧
    (getF .stepSts Fld.STEP_STS_CLOSING up = 0 ∧
      up.tasks.all (fun t => !dStepMember t.desc || decide (t.phase = .ended)) = true ∧
      ∀ n, n < 4 → getF (.slcGradSts n) Fld.SLC_GRAD_STS_HELD up = 0) := by decide +kernel

/-- DEPTH 64 in four queues and 0 in the others: the sum at its limit. -/
def depths : Word := [0, 1, 2, 3].foldl (fun v q => setFld v (Fld.SLC_STREAM_CFG_DEPTH q) 64) 0

/-- A start-up ring of eight slots with one descriptor, a NOP. -/
def sring : Engine := placed 0x10000 (toBytes 64 0x1F) (setReg .sringBase (0x10000 + 8) (setF .sringTail Fld.SRING_TAIL_TAIL 1 up))

/-- The task of the start-up ring has ended. -/
def sringEnded : Engine := { sring with tasks := [{ ref := .sring, desc := 0x1F, phase := .ended, priv := 3, domain := 0, status := 1 }] }

theorem wit_StreamAndRingConfiguration :
    (alive up = true ∧ regGated (.slcStreamCfg 3) up = false ∧
      (∀ q, q < 8 → getFld depths (Fld.SLC_STREAM_CFG_DEPTH q) ≤ 64) ∧
      ((List.range 8).map (fun q => getFld depths (Fld.SLC_STREAM_CFG_DEPTH q))).sum ≤ 256 ∧
      pooling.tasks.any (usesQueue 0 (fun q => decide (getFld depths (Fld.SLC_STREAM_CFG_DEPTH q) ≠ 32))) = true) ∧
    64 < getFld (setFld 0 (Fld.SLC_STREAM_CFG_DEPTH 4) 65) (Fld.SLC_STREAM_CFG_DEPTH 4) ∧
    256 < ((List.range 8).map (fun q => getFld (setFld depths (Fld.SLC_STREAM_CFG_DEPTH 7) 1) (Fld.SLC_STREAM_CFG_DEPTH q))).sum ∧
    (alive sring = true ∧ 7 < sringSlots sring ∧ (1 + sringSlots sring - 0) % sringSlots sring ≤ (7 + sringSlots sring - 0) % sringSlots sring ∧
      getF .sringTail Fld.SRING_TAIL_TAIL sring = 1 ∧ getF .sringHead Fld.SRING_HEAD_HEAD sring = 0) ∧
    (0 + sringSlots sring - 0) % sringSlots sring < (1 + sringSlots sring - 0) % sringSlots sring ∧
    (getF .sringHead Fld.SRING_HEAD_HEAD up = getF .sringTail Fld.SRING_TAIL_TAIL up ∧ getF .sringHead Fld.SRING_HEAD_BUSY up = 0) ∧
    (3 ≤ sringSlots sring ∧ enabled sring = true ∧ findTask .sring sring = none ∧ inflightAll sring < 8192 ∧
      getF .sringHead Fld.SRING_HEAD_HEAD sring ≠ getF .sringTail Fld.SRING_TAIL_TAIL sring) ∧
    (3 ≤ sringSlots sringEnded ∧ alive sringEnded = true ∧ thisDev sringEnded = 0 ∧ sringEnded.mem.wf = true ∧
      (findTask .sring sringEnded).map (·.phase) = some .ended) := by decide +kernel

/-! Rings, doorbells and completions. -/

/-- A ring context: 64 slots, MAX_INFLIGHT 8, doorbell line 2 slot 3, PRIV 3, DOMAIN 5, START_POS 10. -/
def ringCtx : Nat := quads [(0, 0, 0x20000), (1, 0, 0x30000), (2, 0, 6), (2, 8, 2), (2, 16, 3), (2, 20, 3), (2, 24, 5), (3, 0, 9), (3, 11, 1),
  (3, 16, 2), (3, 32, 4), (4, 0, 10), (4, 32, 8)]

/-- The ring table and the doorbell lines placed, with the context of ring 1. -/
def ringTable : Engine := placed (0x10000 + 64) (toBytes 64 ringCtx) (setF .ringtabSize Fld.RINGTAB_SIZE_ENTRIES 4
  (setF .ringtabBase Fld.RINGTAB_BASE_BASE 0x10 (setF .dbellBase Fld.DBELL_BASE_BASE 0x40 up)))

/-- A producer index recorded for the doorbell slot of ring 1. -/
def ringTablePi (p : Nat) : Engine := { ringTable with front := { ringTable.front with piSeen := [((2, 3), BitVec.ofNat 32 p)] } }

theorem wit_StartRunsRing :
    (cmdFree ringTable = true ∧ ringTable.mem.wf = true ∧ startResult 1 true ringTable = 0) ∧
    (cmdFree (ringTablePi 74) = true ∧ startResult 1 true (ringTablePi 74) = 0 ∧ ((74 : BitVec 32) - 10).toNat ≤ 2 ^ 6) ∧
    (cmdFree (ringTablePi 75) = true ∧ startResult 1 true (ringTablePi 75) = 0 ∧ 2 ^ 6 < ((75 : BitVec 32) - 10).toNat ∧
      (parseRingCtx (readRingCtx 1 (ringTablePi 75))).startPos = 10 ∧ (parseRingCtx (readRingCtx 1 (ringTablePi 75))).log2Size = 6) ∧
    startResult 4 true ringTable ≠ 0 := by decide +kernel

/-- Ring 1 in a state, its context taken, positions 10 to 13 offered. -/
def ring1 (st : RingState) : Engine :=
  { ringTable with front := { ringTable.front with rings := [(1, { ctx := parseRingCtx (readRingCtx 1 ringTable), state := st, nextPos := 10
                                                                   pLast := 14, cplPos := 10, startAt := 10 })] } }

/-- A producer index recorded for the slot of ring 1 before fetching resumes. -/
def piKept (p : Nat) : Engine := { ring1 .running with front := { (ring1 .running).front with piSeen := [((2, 3), BitVec.ofNat 32 p)] } }

theorem wit_EnableTakesEffectInReady :
    (inReady.inReset = none ∧ initState inReady = 7 ∧ inFault inReady = false) ∧
    (up.inReset = none ∧ getF .ctl Fld.CTL_ENABLE up = 1 ∧ inFault (setF .faultSts Fld.FAULT_STS_FAULT 1 up) = true) ∧
    ((piKept 20).inReset = none ∧ getF .ctl Fld.CTL_ENABLE (piKept 20) = 1 ∧ inFault (piKept 20) = false ∧
      ((piKept 20).front.rings.map (·.1)) = [1] ∧ runningAt 2 3 (piKept 20) = [1] ∧ (ringOf 1 (piKept 20)).broken = none ∧
      (∀ p, p ∈ [74, 75] → tfind ((ringOf 1 (piKept p)).ctx.dbLine, (ringOf 1 (piKept p)).ctx.dbSlot) (piKept p).front.piSeen = some (BitVec.ofNat 32 p))) ∧
    (initState ({ inReset := none } : Engine) ≠ 7 ∧ getF .ctl Fld.CTL_ENABLE ({ inReset := none } : Engine) ≠ 1) := by
  and_intros <;> decide +kernel

/-- Three tasks of ring 1: ended, ready and waiting for a re-read. -/
def ring1Tasks : Engine :=
  let t (p : Nat) (ph : Phase) : Task := { ref := .ring 1 (BitVec.ofNat 32 p), desc := 0, phase := ph, priv := 3, domain := 5 }
  { ring1 .running with tasks := [t 10 .ended, t 11 .ready, t 12 (.seqWait 0 0)] }

/-- QW7 of the context of ring 1 has just been written. -/
def ring1Faulted : Engine := updRing 1 (fun x => { x with qw7Old := some (List.replicate 8 0) }) (ring1 .running)

theorem wit_RingsStop :
    (cmdFree (ring1 .running) = true ∧ (ring1 .running).mem.wf = true ∧ (ringOf 1 (ring1 .running)).state = .running) ∧
    ((ringOf 1 (ring1 .halted)).state = .halted ∧ (ringOf 1 (ring1 .error)).state = .error) ∧
    ((ringOf 1 (ring1 .stopped)).state = .stopped ∧ (ringOf 1 (ring1 .draining)).state = .draining ∧
      (ringOf 1 (ring1 .aborting)).state = .aborting) ∧
    (¬(1 ≤ 0 ∧ 0 ≤ 3) ∧ ¬(1 ≤ 7 ∧ 7 ≤ 3)) ∧
    (cmdFree ring1Tasks = true ∧ (ringOf 1 ring1Tasks).state ≠ .stopped ∧ (ringOf 1 ring1Tasks).state ≠ .aborting ∧
      (findTask (.ring 1 12) ring1Tasks).map (·.phase) = some (.seqWait 0 0) ∧ (findTask (.ring 1 10) ring1Tasks).map (·.phase) = some .ended) ∧
    (alive (ring1 .draining) = true ∧ stopping (ringOf 1 (ring1 .draining)) = true ∧ ringQuiet 1 (ring1 .draining) = true) ∧
    (alive ring1Faulted = true ∧ ring1Faulted.mem.wf = true ∧ (ringOf 1 ring1Faulted).qw7Old = some (List.replicate 8 0)) := by
  decide +kernel

/-- The doorbell slot of ring 1 holds a producer index, and its line is being read. -/
def belled (p : Nat) : Engine :=
  let e := placed (0x40000 + 128 + 12) (toBytes 4 p) (ring1 .running)
  { e with front := { e.front with dbReads := [(0, 2)] } }

/-- A read of line 2 that waits for its retry. -/
def belledRetry (dev : Nat) : Engine := { belled 20 with front := { (belled 20).front with dbReads := [], dbRetry := [(dev, 2)] } }

/-- A read of line 2 of device 1, to which a route leads. -/
def belledFar : Engine := setF (.nlRoute 1) Fld.NL_ROUTE_VALID 1 { belled 20 with front := { (belled 20).front with dbReads := [(1, 2)] } }

theorem wit_DoorbellsRead :
    (alive up = true ∧ thisDev up = 0 ∧ polling up = false) ∧ (polling poller || false) = true ∧
    (alive (belled 20) = true ∧ (0, 2) ∈ (belled 20).front.dbReads ∧ 0 = thisDev (belled 20)) ∧
    (alive belledFar = true ∧ (1, 2) ∈ belledFar.front.dbReads ∧ 1 ≠ thisDev belledFar ∧ reachable 1 belledFar = true ∧
      heldLine (1, 2) belledFar ≠ [5]) ∧
    (alive (belledRetry 0) = true ∧ (0, 2) ∈ (belledRetry 0).front.dbRetry ∧ 0 = thisDev (belledRetry 0) ∧
      (ringOf 1 (belledRetry 0)).state = .running ∧ (ringOf 1 (belledRetry 0)).ctx.dbLine = 2 ∧
      (1, ringOf 1 (belledRetry 0)) ∈ (belledRetry 0).front.rings ∧ (belledRetry 0).front.rings.map (·.1) = [1]) ∧
    ((1, 2) ∈ (belledRetry 1).front.dbRetry ∧ 1 ≠ thisDev (belledRetry 1)) ∧
    (∀ p, p ∈ [74, 75] → (thisDev (belled p), 2) ∈ (belled p).front.dbReads ∧ runningAt 2 3 (belled p) = [1] ∧
      (ringOf 1 (belled p)).state = .running ∧ enabled (belled p) = true ∧ (ringOf 1 (belled p)).broken = none ∧
      (∀ k, k < 16 → k ≠ 3 → (readLine (0, 2) (belled p)).getD k 0 = (heldLine (0, 2) (belled p)).getD k 0) ∧
      (readLine (0, 2) (belled p)).getD 3 0 = BitVec.ofNat 32 p ∧ BitVec.ofNat 32 p ≠ (heldLine (0, 2) (belled p)).getD 3 0) ∧
    ¬(2 ^ 6 < ((74 : BitVec 32) - 10).toNat ∨ 2 ^ 6 < ((74 : BitVec 32) - 14).toNat) ∧ 2 ^ 6 < ((75 : BitVec 32) - 10).toNat := by
  and_intros <;> decide +kernel

/-- Four descriptors of ring 1 on their way; that at position 10 carries its SEQ. -/
def fetching : Engine :=
  let e := placed (0x20000 + 640) (toBytes 64 (quads [(0, 0, 0x1F), (0, 32, 10)])) (ring1 .running)
  { e with front := { e.front with fetches := [⟨1, 10, 4⟩] } }

/-- A descriptor at position 11, waiting for a re-read. -/
def rereading (tries seq : Nat) : Engine :=
  let e := placed (0x20000 + 704) (toBytes 64 (quads [(0, 0, 0x1F), (0, 32, seq)])) (setReg .time 1000 (ring1 .running))
  { e with tasks := [{ ref := .ring 1 11, desc := 0, phase := .seqWait tries 0, priv := 3, domain := 5 }] }

theorem wit_DescriptorsFetched :
    (enabled (ring1 .running) = true ∧
      (visitOrder (ring1 .running)).find? (fun q => decide (0 < fetchable q (ring1 .running))) = some 1) ∧
    (alive fetching = true ∧ firstFetch 1 fetching = some ⟨1, 10, 4⟩ ∧ (ringOf 1 fetching).state ≠ .aborting ∧
      dSeq (readDesc (ringOf 1 fetching).ctx 10 fetching) = 10 ∧ dSeq (readDesc (ringOf 1 fetching).ctx 11 fetching) ≠ 11) ∧
    (firstFetch 1 (updRing 1 (fun x => { x with state := .aborting }) fetching) = some ⟨1, 10, 4⟩ ∧
      (ringOf 1 (updRing 1 (fun x => { x with state := .aborting }) fetching)).state = .aborting) ∧
    (∀ x, x ∈ [(0, 11), (0, 0), (1, 0), (2, 0)] → alive (rereading x.1 x.2) = true ∧
      (findTask (.ring 1 11) (rereading x.1 x.2)).map (·.phase) = some (.seqWait x.1 0) ∧ elapsedUs 0 1 (rereading x.1 x.2) = true ∧
      dSeq (readDesc (ringOf 1 (rereading x.1 x.2)).ctx 11 (rereading x.1 x.2)) = x.2) ∧
    (firstFetch 1 fetching = some ⟨1, 10, 4⟩ ∧ findTask (.ring 1 (10 + BitVec.ofNat 32 3)) fetching = none ∧
      (ringOf 1 fetching).state = .running) := by decide +kernel

/-- The task at position 10 of ring 1 has ended with DONE, its descriptor with COMPLETE_INT. -/
def recorded (pend : Nat) : Engine :=
  updRing 1 (fun x => { x with intPending := pend }) { setReg .time 0x1000000 (ring1 .running) with
    tasks := [{ ref := .ring 1 10, desc := desc [(0, 0, 0x1F), (0, 9, 1)], phase := .ended, priv := 3, domain := 5, status := 1, items := 1 }] }

theorem wit_CompletionRecords :
    (∀ n, n ∈ [0, 1] → alive (recorded n) = true ∧ (recorded n).mem.wf = true ∧
      (recordOf 1 10 (recorded n)).map (fun t => (t.read, dCompleteInt t.desc, t.status, t.flags)) = some (true, true, 1, 0) ∧
      ringOf 1 (recorded n) = { ringOf 1 (ring1 .running) with intPending := n }) ∧
    (ringSaving 1 (recorded 0) = false ∧ (ringOf 1 (ring1 .running)).cplPos = 10 ∧ (ringOf 1 (ring1 .running)).cplStopped = false ∧
      (ringOf 1 (ring1 .running)).failed = false ∧ (ringOf 1 (ring1 .running)).broken = none ∧ (ringOf 1 (ring1 .running)).err = 0 ∧
      (ringOf 1 (ring1 .running)).ctx.intEnable = true ∧ max (ringOf 1 (ring1 .running)).ctx.intCount 1 = 2 ∧
      ringCtxAddr 1 (recorded 0) + 56 + 8 ≤ cplAddr (ringOf 1 (ring1 .running)).ctx 10) ∧
    (0 < (ringOf 1 (recorded 1)).intPending ∧
      usTicks (ringOf 1 (recorded 1)).ctx.intDelay ≤ now (recorded 1) - (ringOf 1 (recorded 1)).intFirst) := by decide +kernel

/-! Tasks. -/

/-- Opcodes that check nothing of their own at the start. -/
def noCheck : Task → Engine → Option (Nat × Nat) := fun _ _ => none

/-- A NOP, an opcode not assigned, a FENCE and a STATS_READ of the counters or of slot 5. -/
def nopD : List (Nat × Nat × Nat) := [(0, 0, 0x1F)]
def badD : List (Nat × Nat × Nat) := [(0, 0, 0xFF)]
def fenceD : List (Nat × Nat × Nat) := [(0, 0, 0x1E)]
def statsD : List (Nat × Nat × Nat) := [(0, 0, 0x20), (1, 1, 1), (2, 0, 0x8000)]
def statsSlotD : List (Nat × Nat × Nat) := [(0, 0, 0x20), (1, 0, 3), (1, 16, 5), (2, 0, 0x8000)]

/-- A FENCE that runs, with nothing before it. -/
def fencing : Engine := { up with tasks := [{ task fenceD with ref := .near 7, phase := .running }] }

theorem wit_SimpleTasksComplete :
    (startsClean (task nopD) noCheck (ready nopD) = true ∧ dOpcode (task nopD).desc = 0x1F) ∧
    (findTask r9 (ready badD) = some (task badD) ∧ findJob r9 (ready badD) = none ∧ canStart (task badD) (ready badD) = true ∧
      opcodes.lookup (dOpcode (task badD).desc) = none) ∧
    (startsClean (task fenceD) noCheck (ready fenceD) = true ∧ dOpcode (task fenceD).desc = 0x1E) ∧
    ((findTask (.near 7) fencing).map (fun t => (dOpcode t.desc, t.phase)) = some (0x1E, .running) ∧ alive fencing = true ∧
      (∀ t ∈ fencing.tasks, ∀ u ∈ fencing.tasks, fenceWaits t u = false)) ∧
    (startsClean (task statsD) statsCheck (ready statsD) = true ∧ dOpcode (task statsD).desc = 0x20 ∧ (ready statsD).mem.wf = true ∧
      dq (task statsD).desc 1 0 1 = 0) ∧
    (startsClean (task statsSlotD) statsCheck (ready statsSlotD) = true ∧ dOpcode (task statsSlotD).desc = 0x20 ∧
      dq (task statsSlotD).desc 1 0 1 = 1) := by decide +kernel

/-- The descriptors of the stream opcodes: on slot 5 of the tables, 0 items unless a field is added. -/
def lookupD : List (Nat × Nat × Nat) := [(0, 0, 1), (0, 16, 5), (1, 6, 0x1000), (2, 0, 1), (2, 6, 0x1100), (4, 6, 0x1200), (6, 48, 1), (6, 55, 1)]
def gatherD : List (Nat × Nat × Nat) := [(0, 0, 2), (0, 16, 5), (1, 6, 0x1000), (4, 6, 0x1200), (6, 48, 1), (6, 55, 1)]
def combineD : List (Nat × Nat × Nat) := [(0, 0, 5), (0, 16, 5), (2, 0, 1), (2, 6, 1), (1, 6, 0x1000), (4, 6, 0x1200), (6, 48, 1), (6, 55, 1)]
def pageD : List (Nat × Nat × Nat) := [(0, 0, 3), (0, 16, 5), (1, 6, 0x1000), (3, 6, 0x1200)]
def dispatchD : List (Nat × Nat × Nat) := [(0, 0, 4), (0, 16, 5), (1, 6, 0x1000), (2, 6, 0x1100), (3, 6, 0x1200), (4, 6, 0x1300), (6, 32, 1)]
def gradD : List (Nat × Nat × Nat) := [(0, 0, 8), (0, 11, 1), (0, 16, 5), (1, 6, 0x1000), (4, 6, 0x1300)]
def scatterD : List (Nat × Nat × Nat) := [(0, 0, 0xA), (1, 6, 0x1000), (2, 6, 0x1100), (3, 0, 2 ^ 62), (4, 32, 4), (5, 0, 64)]
def rowWriteD : List (Nat × Nat × Nat) := [(0, 0, 0x10), (0, 16, 5), (1, 6, 0x1000)]
def rowReadD : List (Nat × Nat × Nat) := [(0, 0, 0x11), (0, 16, 5), (1, 6, 0x1000), (2, 6, 0x1100)]
def replicaD : List (Nat × Nat × Nat) := [(0, 0, 0x13), (0, 16, 5), (1, 6, 0x1000)]
def exportD : List (Nat × Nat × Nat) := [(0, 0, 0x14), (0, 16, 5), (1, 6, 0x1000), (2, 8, 1), (2, 32, 1)]
def importD : List (Nat × Nat × Nat) := [(0, 0, 0x15), (0, 16, 5), (1, 6, 0x1000)]
def migrateD : List (Nat × Nat × Nat) := [(0, 0, 0x12), (0, 16, 5), (1, 0, 2), (1, 22, 1), (2, 0, 1)]
def saveD : List (Nat × Nat × Nat) := [(0, 0, 0x19), (1, 0, 1), (2, 0, 0x70000), (3, 0, 1000000)]
def restoreD : List (Nat × Nat × Nat) := [(0, 0, 0x1A), (1, 0, 1), (2, 0, 0x70000)]

/-- Two experts of four slots in profile 0 of slice 0. -/
def experts (e : Engine) : Engine :=
  setF (.slcMoeCtl 0 0) Fld.SLC_MOE_CTL_EXPERTS_M1 1 (setF (.slcMoeCtl 0 0) Fld.SLC_MOE_CTL_CAPACITY 4
    (setF (.slcMoeSlots 0 0) Fld.SLC_MOE_SLOTS_SLOT_COUNT 4 e))

/-- Device 0 is the only member of the steps. -/
def stepped (e : Engine) : Engine := setF .stepCfg Fld.STEP_CFG_GATE_MEMBER 1 (setReg .stepMembers 1 e)

/-- The table of slot 5 has replicas (multicast group 1). -/
def grouped (xs : List (Nat × Nat × Nat)) : Engine := given xs (tabbed (image [(2, 40, 1)]))

/-- The hypotheses of a task that reaches its body. -/
def starts (xs : List (Nat × Nat × Nat)) (own : Task → Engine → Option (Nat × Nat)) (e : Engine) : Bool :=
  startsOnSlot (task xs) own e

theorem wit_EmptyAndPrivilegedTasks :
    (starts lookupD poolCheck (ready lookupD) && starts gatherD poolCheck (ready gatherD) &&
      starts combineD poolCheck (experts (ready combineD)) && starts pageD pageCheck (ready pageD) &&
      starts dispatchD dispatchCheck (experts (ready dispatchD)) && starts gradD gradCheck (stepped (ready gradD)) &&
      starts scatterD scatterCheck (ready scatterD) && starts rowWriteD rowXferCheck (ready rowWriteD) &&
      starts rowReadD rowXferCheck (ready rowReadD) && starts replicaD replicaCheck (grouped replicaD) &&
      starts exportD exportCheck (ready exportD) && starts importD noCheck (ready importD)) = true ∧
    ([lookupD, gatherD, combineD, pageD, dispatchD, gradD].all (fun d => decide (dq (desc d) 6 0 24 = 0)) = true ∧
      dq (desc scatterD) 4 0 32 = 0 ∧ dq (desc rowWriteD) 3 0 24 = 0 ∧ dq (desc rowReadD) 3 0 24 = 0 ∧ dq (desc replicaD) 2 0 3 = 0 ∧
      dq (desc replicaD) 3 0 24 = 0 ∧ dq (desc exportD) 4 0 40 = 0 ∧ dq (desc importD) 5 0 32 = 0) ∧
    (∀ d ∈ [rowWriteD, migrateD, replicaD, exportD, importD, saveD],
      findTask r9 { ready d with tasks := [{ task d with priv := 0 }] } = some { task d with priv := 0 } ∧
      canStart { task d with priv := 0 } { ready d with tasks := [{ task d with priv := 0 }] } = true) ∧
    dTable (desc saveD) = 0 := by decide +kernel

/-- CTX_LOAD into slot 7 of an image that lies at 0x40000; CTX_UNLOAD of a slot. -/
def loadD : List (Nat × Nat × Nat) := [(0, 0, 0x18), (0, 16, 7), (1, 0, 0x40000), (2, 0, 0x50000)]
def unloadD (k : Nat) : List (Nat × Nat × Nat) := [(0, 0, 0x18), (0, 16, k), (3, 0, 1)]
def loading : Engine := placed 0x40000 (toBytes 128 (image [(1, 48, 3)]).toNat) (ready loadD)

/-- The load, or the unload, holds what it read and runs. -/
def installing (aux : List Nat) : Engine :=
  { ready loadD with tasks := [{ task loadD with phase := .running }]
                     jobs := [{ newJob (task loadD) (ready loadD) with aux := aux }] }

theorem wit_ContextsLoad :
    (startsClean (task loadD) noCheck loading = true ∧ loadBefore (task loadD) loading = false ∧ loadCheck .ok (task loadD) loading = none ∧
      dq (desc loadD) 3 0 1 = 0 ∧ slotInUse 7 r9 (beginTask (task loadD) loading) = false) ∧
    (∀ k ∈ [5, 7], startsClean (task (unloadD k)) noCheck (ready (unloadD k)) = true ∧ loadBefore (task (unloadD k)) (ready (unloadD k)) = false ∧
      dTable (desc (unloadD k)) = k) ∧
    ((slotOf 7 (ready (unloadD 7))).loaded = false ∧ (slotOf 5 (ready (unloadD 5))).loaded = true ∧
      domainRefused (task (unloadD 5)) (ready (unloadD 5)) = false ∧
      slotInUse 5 r9 (beginTask (task (unloadD 5)) (ready (unloadD 5))) = false) ∧
    (∀ aux ∈ [[], [(image [(1, 48, 3)]).toNat, 0]], alive (installing aux) = true ∧
      findTask r9 (installing aux) = some { task loadD with phase := .running } ∧ (findJob r9 (installing aux)).map (·.aux) = some aux ∧
      slotInUse 7 r9 (installing aux) = false ∧ slotQuiet 7 r9 (installing aux) = true) ∧
    (!cComposed (image [(1, 48, 3)]) && shardOverlap 7 (image [(1, 48, 3)]) (installing [])) = false := by decide +kernel

/-- Slot 0 of slice 0 is taken. -/
def slotTaken (xs : List (Nat × Nat × Nat)) : Engine := setBit (.slcStreamSts 0) Fld.SLC_STREAM_STS_SLOT_BUSY 0 true (ready xs)

theorem wit_StreamTaskTakesSlot :
    (startsClean (task lookupD) poolCheck (ready lookupD) = true ∧ dOpcode (desc lookupD) = 1 ∧ alive (ready lookupD) = true) ∧
    (startsClean (task lookupD) poolCheck (slotTaken lookupD) = true ∧ slotBusy 0 0 (slotTaken lookupD) = true) ∧
    (startsClean (task (lookupD ++ [(0, 10, 1)])) poolCheck (ready (lookupD ++ [(0, 10, 1)])) = true ∧
      slotBusy 0 0 (ready (lookupD ++ [(0, 10, 1)])) = false ∧ dPersist (desc (lookupD ++ [(0, 10, 1)])) = true) := by decide +kernel

theorem wit_PoolingTasksStart :
    (starts (lookupD ++ [(6, 0, 2)]) poolCheck (ready (lookupD ++ [(6, 0, 2)])) = true ∧ dOpcode (desc (lookupD ++ [(6, 0, 2)])) = 0x01) ∧
    (starts (gatherD ++ [(6, 0, 2)]) poolCheck (ready (gatherD ++ [(6, 0, 2)])) = true ∧ dOpcode (desc (gatherD ++ [(6, 0, 2)])) = 0x02) ∧
    (starts (combineD ++ [(6, 0, 2)]) poolCheck (experts (ready (combineD ++ [(6, 0, 2)]))) = true ∧
      dOpcode (desc (combineD ++ [(6, 0, 2)])) = 0x05) := by decide +kernel

theorem wit_ExpertAndGradientTasksStart :
    (starts (dispatchD ++ [(6, 0, 2)]) dispatchCheck (experts (ready (dispatchD ++ [(6, 0, 2)]))) &&
      starts (pageD ++ [(6, 0, 2)]) pageCheck (ready (pageD ++ [(6, 0, 2)])) &&
      starts (gradD ++ [(6, 0, 2)]) gradCheck (stepped (ready (gradD ++ [(6, 0, 2)])))) = true := by decide +kernel

theorem wit_RowTransferTasksStart :
    (starts (scatterD ++ [(4, 0, 2)]) scatterCheck (ready (scatterD ++ [(4, 0, 2)])) &&
      starts (rowWriteD ++ [(3, 0, 2)]) rowXferCheck (ready (rowWriteD ++ [(3, 0, 2)])) &&
      starts (rowReadD ++ [(3, 0, 2)]) rowXferCheck (ready (rowReadD ++ [(3, 0, 2)])) &&
      starts (importD ++ [(5, 0, 2)]) noCheck (ready (importD ++ [(5, 0, 2)])) &&
      starts (exportD ++ [(4, 0, 2)]) exportCheck (ready (exportD ++ [(4, 0, 2)]))) = true := by decide +kernel

/-- REPLICA_SET with an ACTION on a table of a group. -/
def actionD (a : Nat) : List (Nat × Nat × Nat) := [(0, 0, 0x13), (0, 16, 5), (2, 0, a)] ++ if a = 3 then [] else [(1, 6, 0x1000), (3, 0, 2)]

/-- The same with a second device in the group, to which a route leads. -/
def groupedFar (xs : List (Nat × Nat × Nat)) : Engine :=
  setReg (.nlMcast 1) 3 (setF (.nlRoute 1) Fld.NL_ROUTE_VALID 1 (setF .podCfg Fld.POD_CFG_POD_SIZE 1 (grouped xs)))

theorem wit_ReplicaSetStarts :
    (∀ a ∈ [0, 1, 2, 3], starts (actionD a) replicaCheck (grouped (actionD a)) = true ∧ dOpcode (desc (actionD a)) = 0x13 ∧
      dq (desc (actionD a)) 2 0 3 = a) ∧
    mcastTo 5 (grouped (actionD 3)) = [] ∧
    (starts (actionD 3) replicaCheck (groupedFar (actionD 3)) = true ∧ mcastTo 5 (groupedFar (actionD 3)) = [1] ∧
      reachable 1 (groupedFar (actionD 3)) = true) := by decide +kernel

/-- A MIGRATE of shard 0 of slot 5 to slice 1 in a phase of its work. -/
def migrating (ph : MigPhase) : Engine :=
  { setReg .time 1000000 (ready migrateD) with
    tasks := [{ task migrateD with phase := .running }]
    jobs := [{ newJob (task migrateD) (ready migrateD) with slot := some 2, total := 8, lead := 8, issued := true, aux := [0] }]
    hot := { (ready migrateD).hot with migs := [{ ref := r9, slot := 5, shard := 0, newDev := 0, newSlice := 1, newBase := 4096
                                                  next := 8, old := 0, phase := ph }] } }

theorem wit_MigrateMovesShard :
    (startsClean (task migrateD) migrateCheck (ready migrateD) = true ∧ dOpcode (desc migrateD) = 0x12 ∧ slotBusy 0 2 (ready migrateD) = false ∧
      (if cInterleave (imgOf 5 (ready migrateD)) then [0, 1, 2, 3] else [seSlice (shardEntry (cShardFirst (imgOf 5 (ready migrateD))) (ready migrateD))])
        = [0]) ∧
    ((migrating .copy).hot.migs.map (fun m => (m.ref, m.phase, m.open_)) = [(r9, .copy, 0)] ∧ alive (migrating .copy) = true ∧
      (findJob r9 (migrating .copy)).map (fun j => (decide (j.total ≤ j.lead), j.fault, j.slot.isSome)) = some (true, none, true) ∧
      shardBusy 5 0 (migrating .copy) = false) ∧
    ((migrating .forward).hot.migs.map (fun m => (m.ref, m.phase, m.mapWait)) = [(r9, .forward, [])] ∧ alive (migrating .forward) = true ∧
      (findTask r9 (migrating .forward)).map (·.phase) = some .running ∧ (findJob r9 (migrating .forward)).isSome = true ∧
      elapsedUs 0 (max 1 (getF .replCfg Fld.REPL_CFG_FWD_WINDOW (migrating .forward))) (migrating .forward) = true) := by decide +kernel

/-- A persistent LOOKUP_POOL of the near path on slot 2 of slice 0. -/
def persistentT : Task := { task (lookupD ++ [(6, 0, 2), (0, 10, 1), (1, 0, 2)]) with ref := .near 4, phase := .running }
def persistentJ (b : Bool) : Job := { newJob persistentT up with slot := some 2, between := b }

/-- REARM NEXT (0) or END (1), ready, beside that task. -/
def rearmD (a : Nat) : List (Nat × Nat × Nat) := [(0, 0, 0x1C), (1, 0, 2), (1, 6, a)]
def rearming (b : Bool) (a : Nat) : Engine :=
  setBit (.slcStreamSts 0) Fld.SLC_STREAM_STS_SLOT_BUSY 2 true
    { ready (rearmD a) with tasks := [task (rearmD a), persistentT], jobs := [persistentJ b] }

/-- A round whose two items are all out, for a REARM that runs. -/
def rounding : Engine :=
  { rearming false 0 with tasks := [{ task (rearmD 0) with phase := .running }, persistentT]
                          jobs := [{ persistentJ false with rearm := some r9, issued := true, total := 2, lead := 2 }] }

theorem wit_PersistentRounds :
    (∀ x ∈ [(false, 0), (true, 0), (true, 1)], startsClean (task (rearmD x.2)) rearmCheck (rearming x.1 x.2) = true ∧
      persistentAt 0 2 (beginTask (task (rearmD x.2)) (rearming x.1 x.2)) = some (persistentJ x.1, persistentT) ∧
      (∀ y ∈ (rearming x.1 x.2).tasks, y.ref = r9 ∨ dOpcode y.desc ≠ 0x1C)) ∧
    ((persistentJ true).between = true ∧ (persistentJ true).fault = none ∧ (persistentJ true).ref = .near 4 ∧
      (persistentJ true).opcode ≠ 0x12) ∧
    (findJob (.near 4) rounding = some { persistentJ false with rearm := some r9, issued := true, total := 2, lead := 2 } ∧
      ((persistentJ false).fault = none ∧ (persistentJ false).open_ = [] ∧ (persistentJ false).heldOut = [] ∧
        (persistentJ false).xfers = [] ∧ (persistentJ false).acks = 0 ∧ (persistentJ false).slot = some 2) ∧
      findTask (.near 4) rounding = some persistentT ∧ dPersist persistentT.desc = true ∧ alive rounding = true ∧
      findTask r9 rounding = some { task (rearmD 0) with phase := .running } ∧
      (∀ y ∈ rounding.tasks, y.ref = r9 ∨ dOpcode y.desc ≠ 0x1C)) := by
  and_intros <;> decide +kernel

/-- RING_SAVE of ring 1, which runs with nothing in flight; RING_RESTORE of the image that it leaves. -/
def saving : Engine := given saveD (ring1 .running)
def restoring : Engine := given restoreD { after (.ringSave r9) saving with tasks := [] }

theorem wit_RingSaveAndRestore :
    (startsClean (task saveD) ringSaveCheck saving = true ∧ dOpcode (desc saveD) = 0x19 ∧ saving.mem.wf = true ∧ tasksOfRing 1 saving = [] ∧
      eaFits 0x70000 128 = true ∧ eaSpace 0x70000 = 0 ∧ ringCtxAddr 1 saving + 64 ≤ 0x70000 ∧ (ringOf 1 saving).state ≠ .stopped) ∧
    (startsClean (task restoreD) (ringRestoreCheck true false) restoring = true ∧ dOpcode (desc restoreD) = 0x1A ∧ restoring.mem.wf = true ∧
      getB .safeInject Fld.SAFE_INJECT_ARM restoring = false ∧ bitsOf (eaNat 0x70000 128 restoring) 96 7 = 0 ∧
      tfind ((restoredCtx (task restoreD) restoring).2.dbLine, (restoredCtx (task restoreD) restoring).2.dbSlot) restoring.front.piSeen = none) := by
  decide +kernel

/-! Streams and pooling. -/

/-- A job on slot 0 of slice 0 for the running task of `xs`. -/
def jobOf (xs : List (Nat × Nat × Nat)) : Job := { newJob (task xs) up with slot := some 0 }
def running (xs : List (Nat × Nat × Nat)) (j : Job) : Engine :=
  { ready xs with tasks := [{ task xs with phase := .running }], jobs := [j] }

/-- A transfer of a list read, or of an output whose item has two parts. -/
def readJob : Job := { jobOf gatherD with lists := [{ cursor := 0x40000, need := 16, inflight := 16 }]
                                          xfers := [{ id := 7, kind := .listRead 0, addr := 0x60000, len := 16, issued := true, bufs := 1 }] }
def outJob : Job := { jobOf gatherD with xfers := [{ id := 7, kind := .output 0, addr := 0x70000, len := 4, bytes := [1, 2, 3, 4], issued := true
                                                     bufs := 1 }], open_ := [(0, 2)] }

theorem wit_TransferCompletes :
    (∀ j ∈ [readJob, outJob], alive (running gatherD j) = true ∧ (running gatherD j).mem.wf = true ∧
      (running gatherD j).jobs.find? (fun k => k.xfers.any (fun y => decide (y.id = 7) && y.issued)) = some j ∧
      findJob j.ref (running gatherD j) = some j ∧ j.fault = none ∧ getB .safeInject Fld.SAFE_INJECT_ARM (running gatherD j) = false ∧ j.queue < 8) ∧
    (readJob.xfers.map (·.kind) = [.listRead 0] ∧ (readJob.lists[0]?).isSome = true) ∧
    (outJob.xfers.map (·.kind) = [.output 0] ∧ tfind 0 outJob.open_ = some 2 ∧ undefOut outJob 0 (running gatherD outJob) = false ∧
      undefOut { outJob with undef := [0] } 0 (running gatherD { outJob with undef := [0] }) = true) := by and_intros <;> decide +kernel

/-- A task held at a DEP entry whose word is in host memory; DEP_LIMIT is 1 ms and more has passed. -/
def depJob : Job := { jobOf gatherD with lists := [{ cursor := 0x40000, need := 8, dep := some (0x9000, 5, 0) }] }
def depHeld : Engine := setF (.slcWdog 0) Fld.SLC_WDOG_DEP_LIMIT 1 (setReg .time 100000 (running gatherD depJob))

theorem wit_DependenceWords :
    (alive depHeld = true ∧ 3 < 4 ∧ 2 ^ 27 - 1 < 2 ^ 27 ∧ depHeld.mem.wf = true) ∧
    (findJob r9 depHeld = some depJob ∧ depJob.fault = none ∧
      (depJob.lists.any (fun l => match l.dep with | some (a, _, _) => decide (eaSpace a ≠ 2) | none => false) || !depJob.heldOut.isEmpty)
        = true) ∧
    (findTask r9 depHeld = some { task gatherD with phase := .running } ∧ (depJob.lists.map (·.dep)) = [some (0x9000, 5, 0)] ∧
      getF (.slcWdog 0) Fld.SLC_WDOG_DEP_LIMIT depHeld ≠ 0 ∧
      elapsedUs 0 (1000 * getF (.slcWdog 0) Fld.SLC_WDOG_DEP_LIMIT depHeld) depHeld = true ∧ issuedCount depJob = 0 ∧
      depHeld.hot.migs = []) := by and_intros <;> decide +kernel

/-- A task whose item is open, no progress since time 0. -/
def stuckJob : Job := { jobOf gatherD with issued := true, total := 2, open_ := [(0, 1)] }
def stuck (t : Nat) : Engine := setReg .time (BitVec.ofNat 64 t) (running gatherD stuckJob)

theorem wit_StreamWatchdog :
    (∀ t ∈ [1000, 100000000], alive (stuck t) = true ∧ (stuck t).jobs = [stuckJob] ∧
      findTask r9 (stuck t) = some { task gatherD with phase := .running } ∧ wdogCounts stuckJob (stuck t) = true ∧ (stuck t).hot.migs = []) ∧
    (elapsedUs 0 (max 1 (getF (.slcWdog 0) Fld.SLC_WDOG_LIMIT (stuck 100000000))) (stuck 100000000) = true ∧ issuedCount stuckJob = 0) ∧
    elapsedUs 0 (max 1 (getF (.slcWdog 0) Fld.SLC_WDOG_LIMIT (stuck 1000))) (stuck 1000) = false := by and_intros <;> decide +kernel

/-- A bag of a GATHER_ROWS task of WIDTH 16 whose tiles hold what they hold at reset; one that is split in two. -/
def bagCfg : PoolCfg := { slot := 5, width := 16, gather := true, outBl := 0x48000, stride := 64, bags := 1, posCount := 1 }
def bag1 (f : Nat) : Bag := { idx := 0, parts := [⟨0, 0, 0, ⟨0, 0⟩, false⟩], failed := f }
def bag2 : Bag := { idx := 0, parts := [⟨0, 0, 0, ⟨0, 0⟩, false⟩, ⟨1, 0, 0, ⟨0, 0⟩, false⟩] }
def bagRun (x : Bag) : PoolRun := { cfg := bagCfg, nextBag := 1, bags := [x] }
def bagJob (x : Bag) : Job := { jobOf gatherD with total := 1, issued := true, pool := some (bagRun x) }

theorem wit_BagClosesToOutput :
    (∀ x ∈ [bag1 0, bag1 5, bag2], alive (running gatherD (bagJob x)) = true ∧ findJob r9 (running gatherD (bagJob x)) = some (bagJob x) ∧
      findBag r9 0 (running gatherD (bagJob x)) = some x ∧ getB .safeInject Fld.SAFE_INJECT_ARM (running gatherD (bagJob x)) = false) ∧
    (bagReady (bag1 0) (bagRun (bag1 0)) (bagJob (bag1 0)) = true ∧ (bag1 0).redo = none ∧
      abftPasses false (mergedLanes bagCfg (partGroup (poolAt (bagJob (bag1 0)) (running gatherD (bagJob (bag1 0)))) bagCfg (bag1 0) 0)
          (running gatherD (bagJob (bag1 0)))).2
        ((mergedLanes bagCfg (partGroup (poolAt (bagJob (bag1 0)) (running gatherD (bagJob (bag1 0)))) bagCfg (bag1 0) 0)
          (running gatherD (bagJob (bag1 0)))).1.take 16) ⟨0, 0⟩ 0 = true) ∧
    (bagReady (bag1 5) (bagRun (bag1 5)) (bagJob (bag1 5)) = true ∧ (bag1 5).redo = none ∧ bagCfg.accInt = false) ∧
    (partReady bag2 1 = true ∧ bag2.split + 1 < bag2.parts.length ∧ (running gatherD (bagJob bag2)).mem.wf = true ∧
      scratchOff (task gatherD) bagCfg 1 (running gatherD (bagJob bag2)) + runTiles bagCfg * 512 ≤ 2 ^ 27 ∧
      (groupLanes (partGroup (poolAt (bagJob bag2) (running gatherD (bagJob bag2))) bagCfg bag2 1) (running gatherD (bagJob bag2))).length =
        64 * runTiles bagCfg) := by and_intros <;> decide +kernel

/-! Steps and updates. -/

/-- CLOSE of step 0, with room for the sort; ARRIVAL of step 0 for a DENSE table. -/
def closeD : List (Nat × Nat × Nat) := [(0, 0, 9), (0, 11, 1)]
def closeReady : Engine := (List.range 4).foldl (fun e n => setF (.slcGradSort n) Fld.SLC_GRAD_SORT_SIZE 1 e) (stepped (ready closeD))
def closing0 (ph : ClosePhase) : Closing := { ref := r9, step := 0, phase := ph, denseCount := 2, chains := [] }
def arrivalD : List (Nat × Nat × Nat) := [(0, 0, 9), (0, 11, 1), (1, 0, 1), (1, 16, 5)]

/-- A step of this device is closing. -/
def stepClosing (c : Closing) : Engine :=
  let e := stepped { ready closeD with tasks := [{ task closeD with phase := .running }] }
  { e with grad := { e.grad with closing := some c } }
def arriving (g : Grad → Grad) : Engine :=
  let e := stepped (given arrivalD (tabbed (image [(0, 52, 1)])))
  { e with grad := g e.grad }

theorem wit_ClosesAndArrivalsStart :
    (startsClean (task closeD) (closeCheck .ok) closeReady = true ∧ alive closeReady = true ∧ dOpcode (desc closeD) = 9 ∧
      dq (desc closeD) 1 0 2 = 0 ∧ closeReady.grad.closing = none) ∧
    (findTask r9 (stepClosing (closing0 .gate)) = some { task closeD with phase := .running } ∧
      (stepClosing (closing0 .gate)).grad.closing ≠ none) ∧
    (startsClean (task arrivalD) arrivalCheck (arriving (fun g => { g with closing := some (closing0 .gate) })) = true ∧
      dOpcode (desc arrivalD) = 9 ∧ dq (desc arrivalD) 1 0 2 = 1 ∧
      decisionOf 0 (arriving (fun g => { g with closing := some (closing0 .gate) })) = none) ∧
    (startsClean (task arrivalD) arrivalCheck (arriving (fun g => { g with arrival := some (0, 2), decided := [(0, false, 16)] })) = true ∧
      decisionOf 0 (arriving (fun g => { g with arrival := some (0, 2), decided := [(0, false, 16)] })) = some (false, 16) ∧
      (arriving (fun g => { g with arrival := some (0, 2), decided := [(0, false, 16)] })).grad.arrWait = []) := by
  and_intros <;> decide +kernel

/-- A row of slice 0 coalesced for step 0, one element of it not finite. -/
def coalRow (bad : Bool) : Coal :=
  { slice := 0, step := 0, table := 5, row := 1, count := 1, pairs := List.replicate 16 ⟨if bad then 0x7F800000 else 0x3F800000, 0⟩ }

/-- A task of the step is still running. -/
def busyStep : Engine :=
  { stepClosing (closing0 .waiting) with
    tasks := [{ task gradD with ref := .near 4, phase := .running }, { task closeD with phase := .running }] }

theorem wit_StepSorts :
    (∀ ph ∈ [.waiting, .sorting, .held], alive (stepClosing (closing0 ph)) = true ∧
      (stepClosing (closing0 ph)).grad.closing = some (closing0 ph)) ∧
    stepBusy 0 (stepClosing (closing0 .waiting)) = false ∧
    (alive busyStep = true ∧ busyStep.grad.closing = some (closing0 .waiting) ∧ stepBusy 0 busyStep = true) ∧
    (stepClosing (closing0 .sorting)).grad.spoilt = [] ∧
    (members (stepClosing (closing0 .sorting)) = [0] ∧ (stepClosing (closing0 .sorting)).grad.arrival = none) ∧
    ((coalRow true).pairs.any (fun l => !f32IsFin l.s || !f32IsFin l.c) = true) := by and_intros <;> decide +kernel

/-- A pod of two members whose root is device 1 (so this device has a parent), the decision not yet taken. -/
def voting (c : Closing) (t : Nat) : Engine :=
  let e := setReg .time (BitVec.ofNat 64 t) (setReg .stepMembers 3 (setF .stepCfg Fld.STEP_CFG_GATE_ROOT 1
    (setF (.nlRoute 1) Fld.NL_ROUTE_VALID 1 (setF .podCfg Fld.POD_CFG_POD_SIZE 1 (stepClosing c)))))
  e

/-- The root, device 0, with the report of member 1 in, some flags raised. -/
def deciding (fl : Nat) : Engine :=
  let e := setF .stepCfg Fld.STEP_CFG_GATE_ROOT 0 (voting { closing0 .gate with heard := [1] } 0)
  { e with grad := { e.grad with flagsClosing := fl } }

theorem wit_GateVotesAndDecides :
    (∀ x ∈ [(closing0 .gate, 0), (closing0 .sorting, 100000000), ({ closing0 .gate with sentUp := true }, 100000000)],
      alive (voting x.1 x.2) = true ∧ (voting x.1 x.2).grad.closing = some x.1 ∧ rootValid (voting x.1 x.2) = true ∧
      gateParent (voting x.1 x.2) = some 1 ∧ reachable 1 (voting x.1 x.2) = true ∧ gateChildren (voting x.1 x.2) = [] ∧
      (voting x.1 x.2).grad.arrival = none) ∧
    (elapsedUs 0 (max 1 (getF .stepCfg Fld.STEP_CFG_GATE_TIMEOUT (voting (closing0 .sorting) 100000000)))
      (voting (closing0 .sorting) 100000000) = true) ∧
    elapsedUs 0 100 (voting { closing0 .gate with sentUp := true } 100000000) = true ∧
    (∀ fl ∈ [0, 16], alive (deciding fl) = true ∧ (deciding fl).grad.closing = some { closing0 .gate with heard := [1] } ∧
      rootValid (deciding fl) = true ∧ gateParent (deciding fl) = none ∧ gateChildren (deciding fl) = [1] ∧ reachable 1 (deciding fl) = true ∧
      findTask r9 (deciding fl) = some { task closeD with phase := .running } ∧ orFlags (deciding fl).grad.flagsClosing 0 = fl ∧
      (deciding fl).grad.arrWait = []) := by and_intros <;> decide +kernel

/-- A chain of home slice 2 of this device that has been silent; an arrival at row 1 of slot 5 that waits for its state row. -/
def chained : Engine :=
  setReg .time 100000000 (stepClosing { closing0 .chains with ins := [{ home := 0, slice := 2, chain := 0 }] })
def arrivalA : Arrival := { ref := r9, slot := 5, row := 1, step := 0, count := 1, pairs := List.replicate 16 ⟨0x3F800000, 0⟩ }
def waitA : StateWait := { id := 3, slice := 0, slot := 5, row := 1, use := .arrival arrivalA true, t0 := 0 }
def parkedA : Engine :=
  let e := setReg .time 100000000 (tabbed (image [(6, 0, 1), (7, 0, 1), (7, 12, 1), (8, 0, 64)]))
  { e with upd := { e.upd with waits := [waitA] } }

theorem wit_ArrivalsAndChainsGoOn :
    (alive chained = true ∧ chained.grad.closing.isSome = true ∧
      (insOf (thisDev chained) 2 { closing0 .chains with ins := [{ home := 0, slice := 2, chain := 0 }] }).find? (fun x => decide (x.chain = 0)) =
        some { home := 0, slice := 2, chain := 0 } ∧
      elapsedUs 0 (max 1 (getF .stepCfg Fld.STEP_CFG_CHAIN_TIMEOUT chained)) chained = true) ∧
    (alive parkedA = true ∧ parkedA.upd.waits = [waitA] ∧ waitA.use = .arrival arrivalA true ∧ ownSrc (stateSrc waitA.slot parkedA) parkedA = true ∧
      badSectors 5 1 (stateHalves 0 5 1 parkedA) parkedA = [] ∧ getB .safeInject Fld.SAFE_INJECT_ARM parkedA = false) ∧
    elapsedUs waitA.t0 (max 1 (getF (.slcUpdCfg waitA.slice) Fld.SLC_UPD_CFG_STATE_TIMEOUT parkedA)) parkedA = true := by
  and_intros <;> decide +kernel

/-! Hot rows. -/

/-- A home with a multicast of row 1 of table 5 that device 1, to which a route leads, has not acknowledged for long. -/
def lagging : Engine :=
  let e := setReg .time 100000000 (setF (.nlRoute 1) Fld.NL_ROUTE_VALID 1 (setF .podCfg Fld.POD_CFG_POD_SIZE 1 (tabbed (image [(2, 40, 1)]))))
  { e with hot := { e.hot with mcasts := [{ table := 5, row := 1, ver := 1, members := [1], t0 := 0 }] } }
def droppedOne : Engine := { lagging with hot := { lagging.hot with dropped := [{ table := 5, member := 1, t0 := 0 }] } }

/-- A replica of row 1 of table 5, whose home is device 1, in a state. -/
def replicaOf (st : RepState) (tries : Nat) : Replica :=
  { slice := 0, table := 5, row := 1, way := 3, set := 0, lines := 1, st := st, tries := tries }
def holder (r : Replica) : Engine :=
  { lagging with hot := { lagging.hot with mcasts := [], replicas := [r] }, shards := [(0, ⟨5, makeEntry 1 0 0 0⟩)] }
def rejoining : Engine :=
  let e := holder { replicaOf .invalid 0 with dropped := true }
  { e with hot := { e.hot with rejoin := [(5, 1)] } }

theorem wit_HotRowMembers :
    (alive lagging = true ∧ (lagging.hot.mcasts.map (fun m => (m.table, m.members, m.t0))) = [(5, [1], 0)] ∧
      elapsedUs 0 (max 1 (getF .replCfg Fld.REPL_CFG_MCAST_WINDOW lagging)) lagging = true ∧ isDropped 5 1 lagging = false ∧
      reachable 1 lagging = true) ∧
    isDropped 5 1 droppedOne = true ∧
    (droppedOne.hot.dropped.find? (fun y => decide (y.table = 5) && decide (y.member = 1)) = some { table := 5, member := 1, t0 := 0 } ∧
      elapsedUs 0 (max 1 (getF .replCfg Fld.REPL_CFG_MCAST_WINDOW droppedOne)) droppedOne = true ∧ 1 ≠ thisDev droppedOne ∧
      memberIsLost 1 droppedOne = false ∧ droppedOne.net.awaits = []) ∧
    (alive rejoining = true ∧ (5, 1) ∈ rejoining.hot.rejoin ∧ rejoining.net.waits = [] ∧ rejoining.net.heldIn = [] ∧
      droppedHomes 5 rejoining = [1]) ∧
    (∀ n ∈ [0, 1], findReplica 5 1 (holder (replicaOf .pending n)) = some (replicaOf .pending n) ∧
      elapsedUs 0 (max 1 (getF .replCfg Fld.REPL_CFG_MCAST_WINDOW (holder (replicaOf .pending n)))) (holder (replicaOf .pending n)) = true ∧
      (place 5 1 (holder (replicaOf .pending n))).device = 1) := by and_intros <;> decide +kernel

/-- Slice 3 with LOOKUPS at its limit, one counter and one automatic replica; a sweep of slice 0 over a table with a state tier. -/
def counted : Engine :=
  let e := setF (.slcSketchSts 3) Fld.SLC_SKETCH_STS_LOOKUPS (2 ^ 24) up
  { e with hot := { e.hot with sketch := [((3, 0, 7), 5), ((0, 0, 7), 4)]
                               replicas := [{ replicaOf .valid 0 with slice := 3, auto := true }, { replicaOf .valid 0 with slice := 0 }] } }
def drifting (go rows tier : Nat) : Engine :=
  let e := setF (.slcDriftCtl 0) Fld.SLC_DRIFT_CTL_TABLE_ID 5 (setF (.slcDriftCtl 0) Fld.SLC_DRIFT_CTL_GO go
    (setF (.slcDriftCount 0) Fld.SLC_DRIFT_COUNT_COUNT rows (tabbed (image [(6, 0, 1), (7, 0, tier), (7, 12, 1), (8, 0, 96)]))))
  { e with upd := { e.upd with drifts := if go = 1 then [{ slice := 0, slot := 5 }] else [] } }

theorem wit_SketchAndDrift :
    (alive up = true ∧ slicePoweredOff 3 up = false) ∧
    (alive counted = true ∧ 2 ^ 24 ≤ getF (.slcSketchSts 3) Fld.SLC_SKETCH_STS_LOOKUPS counted ∧
      counted.hot.sketch.map (·.1) = [(3, 0, 7), (0, 0, 7)]) ∧
    (∀ x ∈ [(1, 1, 1), (0, 1, 1), (0, 1, 0)], alive (drifting x.1 x.2.1 x.2.2) = true ∧
      getF (.slcDriftCtl 0) Fld.SLC_DRIFT_CTL_GO (drifting x.1 x.2.1 x.2.2) = x.1 ∧ (slotOf 5 (drifting x.1 x.2.1 x.2.2)).loaded = true ∧
      cTier (imgOf 5 (drifting x.1 x.2.1 x.2.2)) = x.2.2) ∧
    (slotOf (getF (.slcDriftCtl 0) Fld.SLC_DRIFT_CTL_TABLE_ID up) up).loaded = false ∧
    (driftNext 0 { slice := 0, slot := 5 } (drifting 1 0 1) 4 = none ∧ cShards (imgOf 5 (drifting 1 0 1)) = 1) ∧
    (driftNext 0 { slice := 0, slot := 5 } (drifting 1 1 1) 4 = some ({ slice := 0, slot := 5, next := 1 }, 0) ∧
      stateHere 0 5 0 (drifting 1 1 1) = true ∧ cOutliers (imgOf 5 (drifting 1 1 1)) = 0 ∧ (seeRow 0 5 (place 5 0 (drifting 1 1 1)) (drifting 1 1 1)).2 = true ∧
      (regen (imgOf 5 (drifting 1 1 1)) [] 0 (parseSt (imgOf 5 (drifting 1 1 1)) (seeState 0 5 0 (drifting 1 1 1)).1).master).data =
        (seeRow 0 5 (place 5 0 (drifting 1 1 1)) (drifting 1 1 1)).1.data ∧
      (regen (imgOf 5 (drifting 1 1 1)) [] 0 (parseSt (imgOf 5 (drifting 1 1 1)) (seeState 0 5 0 (drifting 1 1 1)).1).master).side =
        (seeRow 0 5 (place 5 0 (drifting 1 1 1)) (drifting 1 1 1)).1.side ∧
      (seeRow 0 5 (place 5 0 (drifting 1 1 1)) (drifting 1 1 1)).1.ls = 0 ∧
      (parseSt (imgOf 5 (drifting 1 1 1)) (seeState 0 5 0 (drifting 1 1 1)).1).ver % 256 =
        (seeRow 0 5 (place 5 0 (drifting 1 1 1)) (drifting 1 1 1)).1.ver) := by and_intros <;> decide +kernel

/-! Cache and memory. -/

/-- Two ways to keep as row cache, one to coalesce; a change of ways that waits. -/
def wayCfg : Word := setFld 0 (Fld.SLC_WAY_CFG_KIND 23) 1
def reconf (ws : List RowW) : Engine :=
  { up with cache := { up.cache with reconf := [(0, wayCfg)], writes := ws, ways := [((0, 5), (3, 2 ^ 20))] } }

/-- A write of row 1 of slot 5 in flight: 64 bytes at 4096 of this device's HBM. -/
def rowWrite (evict : Bool) (inv ack : List Nat) : RowW :=
  { id := 9, slice := 0, slot := 5, row := 1, parts := [{ src := 0, addr := 4096, bytes := List.replicate 64 7 }], evict, inv, invAck := ack }
def writing (w : RowW) : Engine := { tabbed (image []) with cache := { up.cache with writes := [w] } }

/-- A read of row 1 of slot 5 in flight for a bag, its row whole. -/
def readReq : RowReq := { id := 9, use := .reply 1 0 0 0 false, slot := 5, row := 1, val := some {} }
def readingRow : Engine := { tabbed (image []) with rowReqs := [readReq] }

theorem wit_WaysChangeKind :
    (alive up = true ∧ slicePoweredOff 0 up = false ∧ wayCfgOk 0 wayCfg up = true ∧
      wayCfgOk 0 (setFld 0 (Fld.SLC_WAY_CFG_KIND 12) 3) up = false) ∧
    (tfind 0 (reconf []).cache.reconf = some wayCfg ∧ alive (reconf []) = true ∧ (reconf []).cache.writes = []) ∧
    (∃ w ∈ (reconf [rowWrite true [] []]).cache.writes, w.evict = true ∧ w.slice = 0) ∧
    (tget (0, 0) (0, 5) (reconf []).cache.ways).2 = 2 ^ 20 := by and_intros <;> decide +kernel

theorem wit_MemoryAccessesComplete :
    (alive readingRow = true ∧ getB .safeInject Fld.SAFE_INJECT_ARM readingRow = false ∧
      readingRow.rowReqs.find? (fun x => decide (x.id = 9)) = some readReq ∧ readReq.waitState = false ∧ readReq.val = some {} ∧ stateDatum readReq readingRow = none) ∧
    (∀ b ∈ [false, true], alive (writing (rowWrite b [] [])) = true ∧ (writing (rowWrite b [] [])).mem.wf = true ∧
      (writing (rowWrite b [] [])).cache.writes.find? (fun x => decide (x.id = 9)) = some (rowWrite b [] [])) ∧
    ((rowWrite false [] []).hbm = true ∧ (rowWrite true [] []).parts.map (·.src) = [0] ∧ thisDev (writing (rowWrite true [] [])) = 0) ∧
    (2 ∈ (rowWrite false [2] []).inv ∧ 2 ∈ (rowWrite false [] [2]).invAck) := by and_intros <;> decide +kernel

/-! Near path. -/

/-- A control block at 0x8000: SHD.SADD of one FP32 element at HBM offset 0; SHD.GATHER and SHD.GPOOL of slot 5. -/
def saddCb : List (Nat × Nat × Nat) := [(0, 0, 3), (1, 0, 2 ^ 62), (4, 0, 64), (4, 32, 1)]
def gatherCb : List (Nat × Nat × Nat) := [(0, 0, 2), (0, 16, 5)]
def gpoolCb : List (Nat × Nat × Nat) := [(0, 0, 1), (0, 16, 5), (0, 8, 1), (1, 0, 0x90000), (2, 0, 0x94000), (3, 0, 0x98000)]
def nearOf (cb : List (Nat × Nat × Nat)) : Engine := placed 0x8000 (toBytes 64 (quads cb)) (tabbed (image []))

/-- The instruction as it enters, and its task. -/
def nearIn (kind : Nat) (cb : List (Nat × Nat × Nat)) (vs1 vs2 : List Word) (vals : List Byte) : NearIn :=
  { id := (nearOf cb).nextId, thread := 2, kind := kind, cbAddr := 0x8000, cb := quads cb, vs1 := vs1, vs2 := vs2, vals := vals, count := 1
    level := 3 }
def nearTask (x : NearIn) (e : Engine) : Task := { ref := .near x.id, desc := nearDesc x e, phase := .ready, priv := 3, domain := 0 }
def nearEntered (x : NearIn) (e : Engine) : Engine :=
  { e with nextId := e.nextId + 1, tasks := e.tasks ++ [nearTask x e], near := { e.near with ins := e.near.ins ++ [x] } }

/-- SHD.SADD of one element 1.0, with index 0 and with the ignored index; SHD.GATHER of a slot that is not loaded. -/
def sadd (i : Word) : NearIn := nearIn 3 saddCb [i] [] (toBytes 4 0x3F800000)
def gather0 : NearIn := nearIn 2 [(0, 0, 2), (0, 16, 6)] [0] [] []

theorem wit_NearPathIssues :
    (canIssue 2 (nearOf saddCb) = true ∧ getB .ctl Fld.CTL_ENABLE (nearOf saddCb) = true ∧ eaNat 0x8000 64 (nearOf saddCb) = (sadd 0).cb ∧
      getB .ctl Fld.CTL_PRECISE_DEFAULT (nearOf saddCb) = false) ∧
    (canIssue 2 (setF .ctl Fld.CTL_ENABLE 0 (nearOf saddCb)) = true ∧ getB .ctl Fld.CTL_ENABLE (setF .ctl Fld.CTL_ENABLE 0 (nearOf saddCb)) = false) ∧
    (gather0.cb = eaNat 0x8000 64 (nearOf [(0, 0, 2), (0, 16, 6)]) ∧
      (nearCheck gather0 (nearTask gather0 (nearOf [(0, 0, 2), (0, 16, 6)])) (beginTask (nearTask gather0 (nearOf [(0, 0, 2), (0, 16, 6)]))
        (nearEntered gather0 (nearOf [(0, 0, 2), (0, 16, 6)])))).isSome = true) ∧
    ((∀ x ∈ (nearOf saddCb).near.ins, x.id ≠ (nearOf saddCb).nextId) ∧ findTask (.near (nearOf saddCb).nextId) (nearOf saddCb) = none ∧
      findJob (.near (nearOf saddCb).nextId) (nearOf saddCb) = none) ∧
    (heldByLoad (nearTask (sadd 0) (nearOf saddCb)) (nearEntered (sadd 0) (nearOf saddCb)) = false ∧
      nearCheck (sadd 0) (nearTask (sadd 0) (nearOf saddCb))
        (beginTask (nearTask (sadd 0) (nearOf saddCb)) (nearEntered (sadd 0) (nearOf saddCb))) = none) ∧
    (heldByLoad (nearTask (sadd (BitVec.allOnes 64)) (nearOf saddCb)) (nearEntered (sadd (BitVec.allOnes 64)) (nearOf saddCb)) = false ∧
      nearCheck (sadd (BitVec.allOnes 64)) (nearTask (sadd (BitVec.allOnes 64)) (nearOf saddCb))
        (beginTask (nearTask (sadd (BitVec.allOnes 64)) (nearOf saddCb)) (nearEntered (sadd (BitVec.allOnes 64)) (nearOf saddCb))) = none) ∧
    (addEntry 0 0 64 0 (toBytes 4 0x3F800000) 0 0 false (updNear (nearOf saddCb).nextId (fun x => { x with retired := !x.precise })
      (beginTask (nearTask (sadd 0) (nearOf saddCb)) (nearEntered (sadd 0) (nearOf saddCb))))).1 = .ok 0 0 false := by
  and_intros <;> decide +kernel

/-- A thread with one instruction that has retired, its task ended with a status. -/
def nearEnded (st : Nat) : Engine :=
  { up with tasks := [{ nearTask (sadd 0) up with phase := .ended, status := st }], near := { up.near with ins := [{ sadd 0 with retired := true }] } }

theorem wit_NearPathOutcomes :
    (alive up = true ∧ up.near.syncs.contains 2 = false ∧ up.near.ins = []) ∧
    (alive (nearEnded 1) = true ∧ (nearEnded 1).near.syncs.contains 2 = false ∧ (nearEnded 1).near.ins.map (fun y => (y.thread, y.retired)) = [(2, true)]) ∧
    (∀ st ∈ [1, 0x40], (nearEnded st).near.ins.find? (fun y => decide (y.thread = 2)) = some { sadd 0 with retired := true } ∧
      findTask (.near (sadd 0).id) (nearEnded st) = some { nearTask (sadd 0) up with phase := .ended, status := st }) ∧
    ({ nearEnded 1 with near := { (nearEnded 1).near with syncs := [2] } } : Engine).near.syncs.contains 2 = true := by
  and_intros <;> decide +kernel

/-- A SHD.GATHER that runs at element 0 of 1, nothing outstanding; the same asked to stop at time 0. -/
def gatherIn (stop : Option Nat) : NearIn := { nearIn 2 gatherCb [1] [] [] with stop := stop }
def gathering (stop : Option Nat) (t : Nat) : Engine :=
  let e := setReg .time (BitVec.ofNat 64 t) (nearOf gatherCb)
  { e with tasks := [{ nearTask (gatherIn none) e with phase := .running }], near := { e.near with ins := [gatherIn stop] } }

/-- A resume record: KIND, LEVEL and EPOCH as given, DOMAIN 0, CB_ADDR 0x8000, COUNT 1, and its CRC. -/
def record (kind level epoch : Nat) (whole : Bool) : List Byte :=
  let b := toBytes 60 (quads [(0, 0, kind), (0, 4, level), (0, 16, epoch), (1, 0, 0x8000), (2, 0, 1)])
  b ++ toBytes 4 (crc32 b + if whole then 0 else 1)

theorem wit_NearPathStopsAndResumes :
    (alive (gathering none 0) = true ∧ (gatherIn none).retired = false ∧ (gatherIn none).stop = none ∧
      (gathering none 0).near.ins.find? (fun y => decide (y.thread = 2) && !y.retired) = some (gatherIn none) ∧ (gatherIn none).kind = 2 ∧
      findNear (gatherIn none).id (gathering none 0) = some (gatherIn none) ∧ (gatherIn none).pend = [] ∧ (gatherIn none).pos < (gatherIn none).count ∧
      (findTask (.near (gatherIn none).id) (gathering none 0)).map (·.phase) = some .running ∧
      findJob (.near (gatherIn none).id) (gathering none 0) = none) ∧
    (∀ t ∈ [10, 1000], (gathering (some 0) t).near.ins.find? (fun y => decide (y.thread = 2) && !y.retired && y.stop.isSome && !y.expired) =
      some (gatherIn (some 0))) ∧
    (getF .nearCfg Fld.NEAR_CFG_STOP_WINDOW (gathering (some 0) 1000) * 375 ≤ (1000 - 0) * 40 ∧
      (10 - 0) * 40 < getF .nearCfg Fld.NEAR_CFG_STOP_WINDOW (gathering (some 0) 10) * 375) ∧
    (canIssue 2 (nearOf saddCb) = true ∧ getB .ctl Fld.CTL_ENABLE (nearOf saddCb) = true ∧
      getB .safeInject Fld.SAFE_INJECT_ARM (nearOf saddCb) = false ∧ getF .nearSts Fld.NEAR_STS_EPOCH (nearOf saddCb) = 0) ∧
    ((record 3 0 0 true).length = 64 ∧ crc32 ((record 3 0 0 true).take 60) = ofBytes ((record 3 0 0 true).drop 60) ∧
      bitsOf (ofBytes (record 3 0 0 true)) 0 2 = 3 ∧ bitsOf (ofBytes (record 3 0 0 true)) 64 64 = 0x8000 ∧
      bitsOf (ofBytes (record 3 0 0 true)) 128 13 = 1 ∧ privRank 0 ≤ privRank 3 ∧ privRank 0 < privRank 3) ∧
    (crc32 ((record 3 3 0 true).take 60) = ofBytes ((record 3 3 0 true).drop 60) ∧ bitsOf (ofBytes (record 3 3 0 true)) 4 2 = 3) ∧
    ¬(crc32 ((record 3 0 0 false).take 60) = ofBytes ((record 3 0 0 false).drop 60)) ∧
    ¬(bitsOf (ofBytes (record 3 0 1 true)) 16 16 = getF .nearSts Fld.NEAR_STS_EPOCH (nearOf saddCb)) := by and_intros <;> decide +kernel

/-! Links and messages. -/

/-- Port 0 leads to device 1 of a pod of 32; its link, or a die-to-die edge of two or of one bundle, is up. -/
def linked (bundles : Nat) : Engine :=
  setF (.nlPortSts 0) Fld.NL_PORT_STS_UP 1 (setF (.nlPortSts 0) Fld.NL_PORT_STS_PEER_DEV 1 (setF (.nlRoute 1) Fld.NL_ROUTE_VALID 1
    (setF .podCfg Fld.POD_CFG_POD_SIZE 1 (setF (.d2dEdgeSts 0) Fld.D2D_EDGE_STS_BUNDLES_UP bundles up))))
/-- The same link with no route over it. -/
def unrouted : Engine := setF (.nlPortSts 3) Fld.NL_PORT_STS_UP 1 up

theorem crc64_zeros (n : Nat) : crc64 (List.replicate n 0) = 0 := by
  have step : [7, 6, 5, 4, 3, 2, 1, 0].foldl (fun c i => crcBit 64 0x42F0E1EBA9EA3693 c ((0 : Byte).getLsbD i)) 0 = 0 := by decide +kernel
  unfold crc64
  induction n with
  | zero => rfl
  | succ n ih => rw [List.replicate_succ, crcBytes, step, ih]

/-- A flit of zeros passes its check (its CRC starts from 0: notes/assumptions/6.md). -/
theorem test_flit_zeros : flitOk (List.replicate 256 0) = true := by
  rw [flitOk, List.take_replicate, crc64_zeros]
  decide +kernel

theorem wit_LinksFail :
    (alive (linked 2) = true ∧ getB .safeInject Fld.SAFE_INJECT_ARM (linked 2) = false) ∧
    (flitOk (List.replicate 256 0) = true ∧ flitOk (List.replicate 64 1) = false) ∧
    (getB (.nlPortSts 3) Fld.NL_PORT_STS_UP unrouted = true ∧ alive unrouted = true ∧
      (∀ d, d < podSize unrouted → ¬(routeValid d unrouted = true ∧ portsReach d (setF (.nlPortSts 3) Fld.NL_PORT_STS_UP 0 unrouted) = false))) ∧
    (getB (.nlPortSts 0) Fld.NL_PORT_STS_UP (linked 2) = true ∧ 1 < podSize (linked 2) ∧ routeValid 1 (linked 2) = true ∧
      portsReach 1 (setF (.nlPortSts 0) Fld.NL_PORT_STS_UP 0 (linked 2)) = false ∧ routeValid 0 (linked 2) = false ∧ 1 ≠ thisDev (linked 2) ∧
      memberIsLost 1 (linked 2) = false ∧ (linked 2).net.awaits = []) ∧
    (getF (.d2dEdgeSts 0) Fld.D2D_EDGE_STS_BUNDLES_UP (linked 2) = 2 ∧ getF (.d2dEdgeSts 0) Fld.D2D_EDGE_STS_BUNDLES_UP (linked 1) = 1 ∧ (linked 1).jobs = []) := by
  refine ⟨?_, ⟨test_flit_zeros, by decide +kernel⟩, ?_⟩ <;> and_intros <;> decide +kernel

/-- A message to device 1 that nothing has acknowledged, and CONTROL requests that wait for their answer. -/
def sentMsg : Msg := ⟨{ srcDev := 0, dstDev := 1 }, .gateAsk 3⟩
def unackedOf (n : Nat) : Unacked := { msg := sentMsg, cls := 1, t0 := 0, resends := n }
def resending (n t : Nat) : Engine :=
  let e := setReg .time (BitVec.ofNat 64 t) (linked 2)
  { e with net := { e.net with unacked := [unackedOf n] } }
def ctrlOf (answer n : Nat) : CtrlWait := { peer := 1, answer := answer, item := 3, msg := sentMsg, sent := n }
def repeating (answer n t : Nat) : Engine :=
  let e := setReg .time (BitVec.ofNat 64 t) (linked 2)
  { e with net := { e.net with waits := [ctrlOf answer n] } }

theorem wit_ResendsAndRepeats :
    (∀ x ∈ [(0, 0), (0, 100000000), (3, 100000000)], alive (resending x.1 x.2) = true ∧
      findUnacked 1 1 0 (resending x.1 x.2) = some (unackedOf x.1) ∧
      elapsedUs 0 (max 1 (getF .nlE2eCfg Fld.NL_E2E_CFG_E2E_TIMEOUT (resending x.1 x.2))) (resending x.1 x.2) = decide (x.2 ≠ 0) ∧
      memberIsLost 1 (resending x.1 x.2) = false ∧ 1 ≠ thisDev (resending x.1 x.2) ∧ (resending x.1 x.2).net.awaits = []) ∧
    (∀ x ∈ [(0, 1), (0, 2), (6, 1), (6, 9), (2, 9)], alive (repeating x.1 x.2 100000000) = true ∧ (repeating x.1 x.2 100000000).net.waits = [ctrlOf x.1 x.2] ∧
      elapsedUs 0 (max 1 (getF .nlE2eCfg Fld.NL_E2E_CFG_CTRL_REPEAT (repeating x.1 x.2 100000000))) (repeating x.1 x.2 100000000) = true) ∧
    (mayRepeat (ctrlOf 2 9) (repeating 2 9 100000000) = true ∧ mayRepeat (ctrlOf 6 9) (repeating 6 9 100000000) = true ∧
      elapsedUs 0 (4 * max 1 (getF .nlE2eCfg Fld.NL_E2E_CFG_E2E_TIMEOUT (repeating 6 9 100000000))) (repeating 6 9 100000000) = true ∧
      memberIsLost 1 (repeating 6 9 100000000) = false) := by and_intros <;> decide +kernel

/-- The UCIe link up, and a die whose capability is whole. -/
def dieLinked : Engine := setF .ucieSts Fld.UCIE_STS_LINK_UP 1 up
def capability (side ordered cap out magic : Nat) : List Byte :=
  toBytes 32 (quads [(0, 0, magic), (0, 16, 1), (0, 24, side), (0, 25, ordered), (1, 0, cap), (1, 32, out)])
/-- An admitted die, with a state row and a wide row awaited from it (STATE_TIER 3). -/
def dieReading : Engine :=
  let e := setF .ucieSts Fld.UCIE_STS_ADMITTED 1 (setF .ucieSts Fld.UCIE_STS_LINK_UP 1 (tabbed (image [(6, 0, 1), (7, 0, 3), (7, 12, 1), (8, 0, 96)])))
  { e with upd := { e.upd with waits := [waitA] }, rowReqs := [{ readReq with wide := true }] }

theorem wit_ExpansionDie :
    (alive up = true ∧ writable .ucieCtl up = true ∧ getB .ucieSts Fld.UCIE_STS_LINK_UP up = false ∧
      getB .ucieSts Fld.UCIE_STS_LINK_UP dieLinked = true) ∧
    (∀ b ∈ [capability 1 1 1 64 0x5845, capability 0 1 1 64 0x5845, capability 1 1 1 63 0x5845], b.length = 32 ∧
      bitsOf (ofBytes (b.take 32)) 0 16 = 0x5845 ∧ bitsOf (ofBytes (b.take 32)) 16 8 = 1 ∧ bitsOf (ofBytes (b.take 32)) 26 38 = 0 ∧
      bitsOf (ofBytes (b.take 32)) 112 16 = 0 ∧ bitsOf (ofBytes (b.take 32)) 128 128 = 0) ∧
    (bitsOf (ofBytes (capability 1 1 1 64 0)) 0 16 ≠ 0x5845 ∧ bitsOf (ofBytes (capability 0 1 1 64 0x5845)) 24 1 = 0 ∧
      bitsOf (ofBytes (capability 1 1 1 63 0x5845)) 96 16 < 64 ∧ 64 ≤ bitsOf (ofBytes (capability 1 1 1 64 0x5845)) 96 16) ∧
    (alive dieReading = true ∧ dieAdmitted dieReading = true ∧ dieReading.upd.waits.find? (fun x => decide (x.id = 3)) = some waitA ∧
      stateSrc waitA.slot dieReading = 64) ∧
    ((∀ w ∈ dieReading.upd.waits, w.id ≠ 9) ∧ dieReading.rowReqs.map (fun q => (q.id, q.wide, stateSrc q.slot dieReading)) = [(9, true, 64)]) := by
  and_intros <;> decide +kernel

/-- Device 0 of a pod of 32 with table 5 (members 0 and 1 of its group), device 1 its neighbour. -/
def near1 (xs : List (Nat × Nat × Nat)) : Engine :=
  setReg (.nlMcast 1) 3 (setF (.nlPortSts 0) Fld.NL_PORT_STS_UP 1 (setF (.nlRoute 1) Fld.NL_ROUTE_VALID 1
    (setF .podCfg Fld.POD_CFG_POD_SIZE 1 (tabbed (image ((2, 40, 1) :: xs))))))

/-- The header of a message from device 1 about table 5. -/
def hdr1 : Hdr := { srcDev := 1, dstDev := 0, tableId := 5 }

/-- A command brings a message that reaches its operation. -/
def passes (c : Instr) (e : Engine) : Bool := match msgOf c with | some m => msgPasses m e | none => false

theorem wit_MessagesChecked :
    (msgOf (.drop hdr1 5) = some ⟨hdr1, .drop 5⟩ ∧ msgOf (.regWrite hdr1 0 8 0) = some ⟨hdr1, .regWrite 0 8 0⟩) ∧
    ((near1 []).inReset = none ∧ inFault (setF .faultSts Fld.FAULT_STS_FAULT 1 (near1 [])) = true ∧
      podSize (setF .podCfg Fld.POD_CFG_POD_SIZE 0 (setF .podCfg Fld.POD_CFG_DEVICE 63 up)) ≤ thisDev (setF .podCfg Fld.POD_CFG_POD_SIZE 0 (setF .podCfg Fld.POD_CFG_DEVICE 63 up))) ∧
    (alive (near1 []) = true ∧ thisDev (near1 []) < podSize (near1 []) ∧ routeValid 2 (near1 []) = false ∧ routeValid 1 (near1 []) = true ∧ 1 ≠ thisDev (near1 [])) ∧
    (getB .safeInject Fld.SAFE_INJECT_ARM (near1 []) = false ∧ numbered ⟨hdr1, .drop 5⟩ = false ∧ numbered ⟨hdr1, .rowReq 0 { row := 1 }⟩ = true ∧
      reachable 1 (near1 []) = true ∧ hdr1.srcDev ≠ thisDev (near1 [])) ∧
    (tget 0 (1, bodyClass (.rowReq 0 { row := 1 })) (near1 []).net.seqIn = 0 ∧ seqAfter 5 0 = true ∧ seqAfter (2 ^ 32 - 1) 0 = false ∧
      (near1 []).net.heldIn = []) ∧
    (tableChecked (.rowReq 0 { row := 1 }) = true ∧ genOk { hdr1 with gen := 7 } (near1 []) = false ∧ genOk hdr1 (near1 []) = true) ∧
    passes (.rowReq hdr1 0 { row := 1 }) (near1 []) = true := by and_intros <;> decide +kernel

/-- A closing step in a phase, decisions taken, a message unacknowledged. -/
def gated (c : Closing) (d : List (Nat × Bool × Nat)) : Engine :=
  let e := setF .stepCfg Fld.STEP_CFG_GATE_MEMBER 1 (setReg .stepMembers 3 (near1 []))
  { e with tasks := [{ task closeD with phase := .running }], grad := { e.grad with closing := some c, decided := d }
           net := { e.net with unacked := [unackedOf 0] } }
def run1 : Run := { home := 1, slice := 0, recs := [⟨5, 1, 1, []⟩], left := [], sentEnd := true }

theorem wit_GatesAndAcks :
    (∀ c ∈ [.e2eAck hdr1 1 0, .e2eNack hdr1 1 0, .gateUp hdr1 0 0 0, .gateDown hdr1 0 false 0, .gateAsk hdr1 0, .endAck { hdr1 with srcSlice := 0 } 0,
        .replay hdr1 0 5 0 false 1 0 0 true, .faultNotice hdr1 3 0, .ask hdr1 0x10 5 257, .ask hdr1 0x06 0 0],
      passes c (gated { closing0 .chains with runs := [run1] } []) = true) ∧
    (findUnacked 1 1 0 (resending 0 0) = some (unackedOf 0) ∧ (unackedOf 3).resends = 3) ∧
    (decisionOf 0 (gated (closing0 .gate) [(0, true, 0)]) = some (true, 0) ∧ reachable 1 (gated (closing0 .gate) []) = true ∧
      decisionOf 0 (gated (closing0 .gate) []) = none ∧ (closing0 .gate).sentUp = false ∧ 1 ∉ (closing0 .gate).heard ∧
      1 ∈ ({ closing0 .gate with heard := [1] } : Closing).heard ∧ (closing0 .gate).phase ≠ .chains) ∧
    (rootValid (gated (closing0 .gate) []) = true ∧ (near1 []).grad.closing = none) ∧
    ((closing0 .chains).applied.length < 4 ∧
      findRun 1 0 (gated { closing0 .chains with runs := [run1] } []) = some run1 ∧
      ((myLink { closing0 .chains with runs := [run1] } 1 (gated { closing0 .chains with runs := [run1] } [])).all
        (fun y => decide (y.2.1 = 0))) = true) ∧
    (memberIsLost 1 (gated (closing0 .gate) []) = false ∧ 1 ≠ thisDev (gated (closing0 .gate) []) ∧ (gated (closing0 .gate) []).net.awaits = []) ∧
    (tfind (1, 5, 1) ({ (near1 []) with hot := { (near1 []).hot with acted := [((1, 5, 1), 1)] } } : Engine).hot.acted = some 1 ∧
      verNewer (257 % 256) 1 = false ∧ tfind (1, 5, 1) (near1 []).hot.acted = none ∧
      0 ∈ ({ closing0 .chains with applied := [0] } : Closing).applied) := by and_intros <;> decide +kernel

/-- Device 0 with replicas, drops and multicasts of table 5 whose rows live on device 1 (`farMap`) or here. -/
def farMap (e : Engine) : Engine := { e with shards := [(0, ⟨5, makeEntry 1 0 0 0⟩)] }
def withHot (f : Hot → Hot) : Engine := { near1 [] with hot := f (near1 []).hot }
def withReplica (r : Replica) : Engine := farMap (withHot (fun h => { h with replicas := [r] }))
def mcast1 : Mcast := { table := 5, row := 1, ver := 1, members := [1], t0 := 0 }
/-- Way 0 of slice 0 keeps replicas. -/
def truffled : Engine := farMap (setF (.slcWayCfg 0) (Fld.SLC_WAY_CFG_KIND 0) 3 (near1 []))
def valOf (v : Nat) (b : Byte) : RowVal := { ver := v, data := List.replicate 64 b }
def replicaV (st : RepState) (v : Nat) : Replica := { replicaOf st 0 with val := valOf v 7 }

theorem wit_HotRowMessages :
    (∀ c ∈ [.drop hdr1 5, .dropAck hdr1 5, .rejoin hdr1 5, .rejoinAck hdr1 5, .mcastAck hdr1 5 1 1, .mcastRow hdr1 5 1 0 (valOf 1 7),
        .mcastRow hdr1 5 1 1 (valOf 1 7), .mcastRemove hdr1 5 1 true, .replicaFetch hdr1 5 1, .replicaFetch { hdr1 with arg := 1 } 5 1,
        .replicaAction hdr1 5 1 0, .replicaAction hdr1 5 1 1], passes c (near1 []) = true) ∧
    reachable 1 (near1 []) = true ∧
    ((5, 1) ∈ (withHot (fun h => { h with rejoin := [(5, 1)] })).hot.rejoin ∧ (5, 1) ∉ (near1 []).hot.rejoin) ∧
    (isDropped 5 1 (withHot (fun h => { h with dropped := [{ table := 5, member := 1, t0 := 0 }] })) = true ∧ isDropped 5 1 (near1 []) = false ∧
      passes (.dropAck hdr1 5) (withHot (fun h => { h with dropped := [{ table := 5, member := 1, t0 := 0 }] })) = true) ∧
    (passes (.rejoinAck hdr1 5) (withReplica { replicaV .invalid 1 with dropped := true }) = true ∧
      findReplica 5 1 (withReplica { replicaV .invalid 1 with dropped := true }) = some { replicaV .invalid 1 with dropped := true } ∧
      (place 5 1 (withReplica (replicaV .invalid 1))).device = 1 ∧ (withReplica (replicaV .invalid 1)).net.waits = []) ∧
    (passes (.mcastAck hdr1 5 1 1) (withHot (fun h => { h with mcasts := [mcast1] })) = true ∧
      (withHot (fun h => { h with mcasts := [mcast1] })).hot.mcasts.findIdx? (fun m => decide (m.table = 5) && decide (m.row = 1) &&
        decide (m.ver = 1 % 256) && m.members.contains 1) = some 0 ∧
      (near1 []).hot.mcasts.findIdx? (fun m => decide (m.table = 5) && decide (m.row = 1) && decide (m.ver = 1 % 256) && m.members.contains 1) = none) ∧
    (passes (.mcastRow hdr1 5 1 1 (valOf 1 7)) truffled = true ∧ findReplica 5 1 truffled = none ∧ truffleWay (place 5 1 truffled).slice 5 1 truffled = some 0) ∧
    (∀ st ∈ [.invalid, .pending, .valid], passes (.mcastRow hdr1 5 1 0 (valOf 1 7)) (withReplica (replicaV st 1)) = true ∧
      findReplica 5 1 (withReplica (replicaV st 1)) = some (replicaV st 1)) ∧
    (verNewer 2 1 = true ∧ verNewer 0 1 = false ∧ verNewer 1 1 = false ∧ 0 % 256 ≠ 1 % 256 ∧ (replicaV .valid 1).val.data = (valOf 1 7).data ∧
      (replicaV .valid 1).val.data ≠ (valOf 1 8).data) ∧
    (uncached 5 1 (near1 []) = true ∧ passes (.replicaFetch { hdr1 with arg := 2 } 5 1) (withReplica (replicaV .valid 1)) = true) ∧
    (mcastTo 5 (near1 []) = [1] ∧ mcastTo 5 (setReg (.nlMcast 1) 1 (near1 [])) = []) := by and_intros <;> decide +kernel

/-- A device that is not the master, its parent behind port 0; an exchange in progress, and answers before it. -/
def timed (t1 : Option Nat) (synced good t : Nat) : Engine :=
  let e := setReg .time (BitVec.ofNat 64 t) (setF .nlTimeSts Fld.NL_TIME_STS_SYNCED synced (near1 []))
  { e with net := { e.net with t1 := t1, good := good } }

theorem wit_TimeExchange :
    (alive (timed none 0 0 0) = true ∧ getB .nlTimeCfg Fld.NL_TIME_CFG_MASTER (timed none 0 0 0) = false ∧
      getB (.nlPortSts (getF .nlTimeCfg Fld.NL_TIME_CFG_PARENT_PORT (timed none 0 0 0))) Fld.NL_PORT_STS_UP (timed none 0 0 0) = true ∧
      (timed none 0 0 0).net.t1 = none) ∧
    (getB .nlTimeSts Fld.NL_TIME_STS_SYNCED (timed none 1 0 100000000) = true ∧
      elapsedUs (timed none 1 0 100000000).net.tReply (3 * timeInterval (timed none 1 0 100000000)) (timed none 1 0 100000000) = true) ∧
    passes (.timeSync hdr1 5) (near1 []) = true ∧
    (∀ x ∈ [(0, 0), (0, 1), (0, 2), (1, 2)], passes (.timeReply hdr1 2050 2050 1) (timed (some 900) x.1 x.2 300) = true ∧
      (timed (some 900) x.1 x.2 300).net.t1 = some 900 ∧ (timed (some 900) x.1 x.2 300).net.good = x.2) ∧
    ((timed (some 900) 0 0 300).net.stepped = false ∧ localNs (touch (timed (some 900) 0 0 300)) = 3200 ∧
      ((2050 - 900) - (3200 - 2050) : Int).tdiv 2 = 0 ∧ min 255 (1 + (0 : Int).natAbs + 2) ≤ 20 ∧ 20 < min 255 (200 + (0 : Int).natAbs + 2) ∧
      passes (.timeReply hdr1 2050 2050 200) (timed (some 900) 1 2 300) = true) := by and_intros <;> decide +kernel

/-- Table 5 with a state tier, its rows and state here; one with a state row that fails its check; one whose state is awaited. -/
def stateful : Engine := near1 [(6, 0, 1), (7, 0, 1), (7, 12, 1), (8, 0, 96)]
def stateBad : Engine := { stateful with mem := { stateful.mem with hbmSide := [(stateAddr 5 (place 5 1 stateful) stateful / 32, 1)] } }
def stateWaited : Engine := { stateful with upd := { stateful.upd with waits := [waitA] } }
/-- A write-back to another device that waits for its acknowledgement; a row copied here by a migration. -/
def writtenBack : Engine := { stateful with cache := { stateful.cache with writes := [{ rowWrite true [] [] with parts := [] }] } }
def copiedRow : Engine := { stateful with hot := { stateful.hot with copied := [((5, 1), 1)] } }

theorem wit_StateAndShardMessages :
    (∀ c ∈ [.stateRead hdr1 5 1 false, .stateWrite hdr1 5 1 (List.replicate 96 3), .stateData hdr1 5 1 (some (List.replicate 96 0)), .stateWriteAck hdr1 5 1,
        .shardMap hdr1 5 0 (makeEntry 1 0 1 0) [2], .shardMap hdr1 9 0 0 [], .shardMapAck hdr1 5 0 1, .migrateCopy hdr1 0 1 0 (valOf 1 7) none],
      passes c stateful = true) ∧
    (reachable 1 stateful = true ∧ stateful.mem.wf = true) ∧
    (((List.range (stateRowStride (imgOf 5 stateful) / 32)).map (fun k =>
        (seeHalf 0 0 (stateAddr 5 (place 5 1 stateful) stateful + 32 * k) stateful).ok)).all id = true ∧
      passes (.stateRead hdr1 5 1 false) stateBad = true ∧ ((List.range (stateRowStride (imgOf 5 stateBad) / 32)).map (fun k =>
        (seeHalf 0 0 (stateAddr 5 (place 5 1 stateBad) stateBad + 32 * k) stateBad).ok)).all id = false) ∧
    (stateAsked 5 1 stateful = false ∧ passes (.stateData hdr1 5 1 (some (List.replicate 96 0))) stateWaited = true ∧
      stateWaited.upd.waits.filter (fun x => decide (x.slot = 5) && decide (x.row = 1)) = [waitA]) ∧
    (passes (.stateWriteAck hdr1 5 1) writtenBack = true ∧
      (writtenBack.cache.writes.find? (fun w => w.evict && w.parts.isEmpty && decide (w.slot = 5) && decide (w.row = 1))).isSome = true ∧
      stateful.cache.writes = []) ∧
    ((slotOf 5 stateful).loaded = true ∧ shardEntry 0 stateful ≠ makeEntry 1 0 1 0 ∧ (slotOf 9 stateful).loaded = false) ∧
    (passes (.migrateCopy hdr1 0 1 0 (valOf 1 7) none) copiedRow = true ∧ tfind (5, 1) copiedRow.hot.copied = some 1 ∧ verNewer 1 1 = false ∧
      verNewer 2 1 = true ∧ tfind (5, 1) stateful.hot.copied = none) := by and_intros <;> decide +kernel

/-- A home run of device 1 that is held; a chain input of this home that has taken nothing. -/
def homeRunOf : HomeRun := { id := 0, dev := 1, slice := 0, ref := 0, bag := 0, slot := 5, at_ := (0, 0, 0), tiles := 1, accInt := false, wide := false
                             held := true }
def homing : Engine := { near1 [] with homeRuns := [homeRunOf] }
def chainInOf : ChainIn := { home := 0, slice := 0, chain := 1 }
def chaining (n : Nat) : Engine := gated { closing0 .chains with ins := [{ chainInOf with rows := n }] } []
/-- The state of table 5 is on its partner, device 1. -/
def stateFar : Engine :=
  setF (.partnerMap 0) (Fld.PARTNER_MAP_PARTNER 0) 1 (setF (.partnerMap 0) (Fld.PARTNER_MAP_VALID 0) 1 (near1 [(6, 0, 1), (7, 0, 2), (7, 12, 1), (8, 0, 96)]))

theorem wit_RowMessages :
    (∀ c ∈ [.subList hdr1 0 0 0 {} [(1, none)] [], .rowReq hdr1 0 { row := 1 }, .prefetchHint hdr1 5 [1], .rowWriteReq hdr1 0 1 (valOf 1 7) 0,
        .importRow hdr1 0 1 (List.replicate 64 7) 1, .token hdr1 0 1 (List.replicate 64 7) none], passes c (near1 []) = true) ∧
    (hdr1.srcDev ≠ thisDev (near1 []) ∧ movedRow 5 1 (near1 []) = false ∧ ({} : PoolFlags).prefetch = false ∧
      (near1 []).homeRuns = []) ∧
    (passes (.subList hdr1 0 0 0 {} [(1, none)] []) homing = true ∧ homing.homeRuns.find? (fun x => decide (x.dev = 1) && decide (x.ref = 0) &&
      decide (x.bag = 0) && decide (x.slot = 5) && decide (x.home = 0) && decide (x.part = false) && !x.last) = some homeRunOf) ∧
    uncached 5 1 (near1 []) = true ∧
    (cRule (imgOf 5 (near1 [])) = 0 ∧ stateAsked 5 1 stateWaited = true ∧ passes (.prefetchHint hdr1 5 [1]) stateWaited = true ∧
      passes (.prefetchHint hdr1 5 [1]) stateful = true ∧ cRule (imgOf 5 stateful) ≠ 0 ∧ (seeState (place 5 1 stateful).slice 5 1 stateful).2 = false ∧
      stateAsked 5 1 stateful = false ∧ stateSrc 5 stateful ≠ 65) ∧
    (cTier (imgOf 5 (near1 [])) = 0 ∧ (near1 []).upd.waits = [] ∧ openMcasts 5 1 (near1 []) < 64 ∧ (keptOf 5 1 (near1 [])).recomp = false) ∧
    (passes (.rowWriteReq hdr1 0 1 (valOf 1 7) 0) stateFar = true ∧ cTier (imgOf 5 stateFar) ≠ 0 ∧
      stateHere (place 5 1 stateFar).slice 5 1 stateFar = false) ∧
    (passes (.chainRow hdr1 0 5 1 1 0 0 1 []) (chaining 0) = true ∧ passes (.chainEnd hdr1 0 0 0 1 1) (chaining 1) = true ∧
      (insOf 0 0 { closing0 .chains with ins := [chainInOf] }).find? (fun x => decide (x.chain = 1)) = some chainInOf ∧ 1 ≠ 255 ∧
      (((chainInOf.queue.getLast?).map (fun r => (r.table, r.row))).or chainInOf.lastKey).all (fun k => keyLe k (5, 1) && decide (k ≠ (5, 1))) = true ∧
      (((chainInOf.queue.getLast?).map (fun r => (r.table, r.row))).or (some (5, 1))).all (fun k => keyLe k (5, 1) && decide (k ≠ (5, 1))) = false) := by
  and_intros <;> decide +kernel

/-- A job of this device that waits for others: a bag with one participant, a row of a gather, a replica, a written row. -/
def awaiting (j : Job) : Engine :=
  { near1 [] with tasks := [{ task gatherD with phase := .running }], jobs := [j]
                  net := { (near1 []).net with awaits := [(refNum r9, 1)] } }
def bagAwaits : Job := bagJob { bag1 0 with partials := [(1, 0, 5)] }
def hdrA : Hdr := { hdr1 with ref := refNum r9 }
def oneLane : List Lane := List.replicate 64 ⟨0x3F800000, 0⟩
/-- SHD.GATHER waits for element 0. -/
def gatherWaits : Engine :=
  let e := near1 []
  { e with tasks := [{ nearTask (gatherIn none) e with phase := .running }], near := { e.near with ins := [{ gatherIn none with pend := [(0, 0)] }] } }

theorem wit_AnswersEndWaits :
    (∀ c ∈ [.partialIn hdrA 0 oneLane ⟨0, 0⟩ 0 {} false 0, .partialIn hdrA 0 oneLane ⟨0, 0⟩ 0 { lost := true } true 0, .rowIn hdrA 0 1 none {},
        .reject { hdrA with arg := 0x22 } 0, .reject { hdrA with arg := 0x30 } 1, .reject { hdrA with arg := 0x55 } 0,
        .writeDone hdrA 0 {}, .writeDone hdrA 0 { lost := true }], passes c (awaiting bagAwaits) = true) ∧
    (refOf hdrA.ref = r9 ∧ findJob r9 (awaiting bagAwaits) = some bagAwaits ∧ bagAwaits.fault = none ∧ bagAwaits.opcode ≠ 0x12 ∧
      (findBag r9 0 (awaiting bagAwaits)).map (·.partials) = some [(1, 0, 5)] ∧ bagCfg.accInt = false) ∧
    ((findBag r9 0 (awaiting bagAwaits)).map (·.parts) = some [⟨0, 0, 0, ⟨0, 0⟩, false⟩] ∧ runTiles bagCfg = 1 ∧ oneLane.length = 64 * 1 ∧
      (tileOf (poolAt bagAwaits (awaiting bagAwaits), 0, 0) (awaiting bagAwaits)).lanes.length = 64) ∧
    (passes (.rowIn { hdr1 with arg := 1 } 0 1 (some (valOf 1 7)) {}) (withReplica (replicaV .pending 1)) = true ∧
      findReplica 5 1 (withReplica (replicaV .pending 1)) = some (replicaV .pending 1)) ∧
    (passes (.rowIn { hdr1 with ref := refNum (.near (gatherIn none).id) } 0 1 (some (valOf 1 7)) {}) gatherWaits = true ∧
      refOf (refNum (.near (gatherIn none).id)) = .near (gatherIn none).id ∧ findJob (.near (gatherIn none).id) gatherWaits = none ∧
      (findNear (gatherIn none).id gatherWaits).map (·.pend) = some [(0 / 2, 0 % 2)] ∧ (gatherIn none).got = [] ∧
      (findTask (.near (gatherIn none).id) gatherWaits).map (·.phase) = some .running) ∧
    (∀ n ∈ [1, 2], passes (.writeDone hdrA 0 {}) (awaiting { jobOf rowWriteD with open_ := [(0, n)] }) = true ∧
      findJob r9 (awaiting { jobOf rowWriteD with open_ := [(0, n)] }) = some { jobOf rowWriteD with open_ := [(0, n)] } ∧
      tfind 0 [(0, n)] = some n) := by and_intros <;> decide +kernel

/-- The head past step 2 of start-up, a relayed read in flight; a path of one port set up. -/
def head (t : Nat) : Engine :=
  let e := setReg .time (BitVec.ofNat 64 t) (setF .initSts Fld.INIT_STS_STATE 7 (near1 []))
  { e with net := { e.net with relays := [{ tag := 4, slot := 1, t0 := 0 }] } }
def pathed : Engine := setF .hostPath Fld.HOST_PATH_HOPS 1 (setF .hostPath (Fld.HOST_PATH_PORT 0) 6 up)

theorem wit_HostThroughHead :
    (thisDev (head 0) = 0 ∧ relayOpen (head 0) = true ∧ inFault (head 0) = false ∧ reachable 1 (head 0) = true ∧ reachable 2 (head 0) = false ∧
      relayOpen up = false) ∧
    (regAccess Reg.dbellPoll.offset 8 = some (.dbellPoll, 0) ∧ plainReg .dbellPoll = true ∧ writable .dbellPoll (head 0) = true ∧
      writeBreaks .dbellPoll (head 0) = false) ∧
    ((head 100000).net.relays.find? (fun x => decide (x.tag = 4)) = some { tag := 4, slot := 1, t0 := 0 } ∧ (head 100000).inReset = none ∧
      elapsedUs 0 50 (head 100000) = true) ∧
    (alive pathed = true ∧ hostPorts pathed = [6]) ∧
    (∀ c ∈ [.regWrite hdr1 Reg.dbellPoll.offset 8 1, .regRead hdr1 Reg.dbellPoll.offset 8 4, .regData hdr1 4 7, .regData hdr1 5 7,
        .dbLine hdr1 2 [1], .hostRead hdr1 0x9000 8, .hostData hdr1 0x9000 [1], .hostWrite hdr1 0x9000 [1], .msi hdr1 3],
      passes c (head 0) = true) ∧
    ((head 0).net.relays.map (·.tag) = [4] ∧ (head 0).front.rings = [] ∧ (head 0).mem.wf = true ∧ reachable 1 (head 0) = true) ∧
    (inFault (setF .faultSts Fld.FAULT_STS_FAULT 1 (head 0)) = true ∧ thisDev (head 0) < podSize (head 0) ∧ hdr1.dstDev = thisDev (head 0)) ∧
    (passes (.hostRead { hdr1 with srcDev := 0, dstDev := 1 } 0x9000 8) (setF .podCfg Fld.POD_CFG_DEVICE 1 (head 0)) = true ∧
      thisDev (setF .podCfg Fld.POD_CFG_DEVICE 1 (head 0)) ≠ 0) := by and_intros <;> decide +kernel

/-! Integrity, spares and the event log. -/

/-- Position 5 of slice 3, on core 5, failed or to be rotated, in READY, long after reset. -/
def spared (failed moving : Bool) : Engine :=
  let e := setReg .time 0x10000000000 (setF .initSts Fld.INIT_STS_STATE 7 up)
  { e with safe := { e.safe with failed := if failed then [(3, coreAt 3 5 e)] else [], moving := if moving then [(3, 5)] else [] } }
def noStandby : Engine := setF (.slcSpareSts 3) Fld.SLC_SPARE_STS_STANDBY_VALID 0 (spared false false)

theorem wit_SparesTakeOver :
    (∀ x ∈ [(true, false), (false, true), (false, false)], alive (spared x.1 x.2) = true ∧ hasStandby 3 (spared x.1 x.2) = true ∧
      posBusy 3 5 (spared x.1 x.2) = false ∧ decide ((3, coreAt 3 5 (spared x.1 x.2)) ∈ (spared x.1 x.2).safe.failed) = x.1 ∧
      decide ((3, 5) ∈ (spared x.1 x.2).safe.moving) = x.2) ∧
    (initState (spared false false) = 7 ∧ getB .safeCfg Fld.SAFE_CFG_ROTATE_EN (spared false false) = true ∧
      getB (.slcSpareSts 3) Fld.SLC_SPARE_STS_TEST_VALID (spared false false) = true ∧ (spared false false).safe.testing = [] ∧
      slicePoweredOff 3 (spared false false) = false ∧ elapsedUs (tget (0, 0) 3 (spared false false).safe.rotate).2
        (1000 * max 1 (getF .safeCfg Fld.SAFE_CFG_ROTATE_MS (spared false false))) (spared false false) = true) ∧
    (hasStandby 3 noStandby = false ∧ getB (.slcSpareSts 3) Fld.SLC_SPARE_STS_TEST_VALID noStandby = true ∧ alive noStandby = true ∧
      (3, getF (.slcSpareSts 3) Fld.SLC_SPARE_STS_TEST noStandby) ∉ noStandby.safe.failed) := by and_intros <;> decide +kernel

/-- Slice 3 in a state of service. -/
def served (st : Nat) : Engine := setF (.slcSts 3) Fld.SLC_STS_STATE st up

theorem wit_SlicesGoOffline :
    (∀ st ∈ [0, 1, 2], (served st).inReset = none ∧ alive (served st) = true ∧ getF (.slcSts 3) Fld.SLC_STS_STATE (served st) = st) ∧
    (sliceIdle 3 (served 1) = true ∧ getF (.slcSts 3) Fld.SLC_STS_STATE (served 0) ≠ 1) ∧
    (0xFF % 256 ∉ [0x0A, 0x13, 0x14] ∧ 0x113 % 256 ∈ [0x0A, 0x13, 0x14]) := by and_intros <;> decide +kernel

/-- A record in the FIFO of cluster 7 of slice 3; one in its log ring, with a host log ring of 64 words at 0x9000. -/
def logged (fifo ring : Bool) : Engine :=
  let e := setF (.logHost 3) Fld.LOG_HOST_LOG2_SIZE 6 (setF (.logHost 3) Fld.LOG_HOST_BASE 9 up)
  { e with logs := [(3, { logOf 3 e with fifos := if fifo then [(7, [{ cluster := 7, slice := 3, typ := 0x13 }])] else []
                                         ring := if ring then [{ cluster := 7, slice := 3, typ := 0x13 }] else [] })] }

theorem wit_LogMoves :
    ((logged true false).inReset = none ∧ nextCluster (logOf 3 (logged true false)) = some 7 ∧
      (tget [] 7 (logOf 3 (logged true false)).fifos).length = 1 ∧
      ringWords (logOf 3 (logged true false)).ring + logWords { cluster := 7, slice := 3, typ := 0x13 } ≤ 4096) ∧
    nextCluster (logOf 3 (logged false true)) = none ∧
    (drainable 3 (logged false true) = some { cluster := 7, slice := 3, typ := 0x13 } ∧ (logOf 3 (logged false true)).flushTo = none ∧
      thisDev (logged false true) = 0 ∧ (logged false true).mem.wf = true ∧ getF (.logPiAddr 3) Fld.LOG_PI_ADDR_PI_ADDR (logged false true) = 0) ∧
    getB .logCtl Fld.LOG_CTL_FLUSH (logged true false) = false := by and_intros <;> decide +kernel

/-! Resets, start-up, power and pins. -/

/-- A reset of a kind in progress. -/
def inReset (k : ResetKind) : Engine := { inReset := some k }

theorem wit_ResetsAndRelease :
    (up.inReset = none) ∧ (∀ k ∈ [.powerOn, .full, .engine], (inReset k).inReset = some k ∧ inFault (inReset k) = false) := by decide +kernel

theorem wit_ResetHolds :
    (inReset .full).inReset = some .full ∧ (inReset .full).jobs = [] ∧ actsInReset (.doorbellInvalidation 0 0) = false ∧
    actsInReset (.barAccess 0 0 8 none 0 true) = false := by decide +kernel

/-- Slice 3 runs a start-up step with none, or all, of the others done. -/
def starting (st : Nat) (done : List Nat) : Engine :=
  let e := setF .initSts Fld.INIT_STS_STATE st ({ inReset := none } : Engine)
  { e with power := { e.power with done := done, up := 100000000 } }

theorem wit_StartUpStepsEnd :
    (∀ st ∈ [1, 2, 4, 5, 6], ∀ d ∈ [[], [0, 1, 2]], runsStep st 3 (starting st d) = true ∧ othersDone 3 (starting st d) = decide (d ≠ [])) ∧
    ((edgesOf[0]?).isSome = true ∧ (edgesOf[3]?).isSome = true) ∧
    ((List.range 24).filter (fun w => [0, 1, 2, 3, 4, 5, 6, 23].contains w)).length = 8 ∧
    ((List.range 66).filter (fun c => [0, 65].contains c)).length = 2 := by and_intros <;> decide +kernel

/-- Start-up failed with slice `n` alone, its OFF bit set or not. -/
def brokenUp (n : Nat) (off : Bool) : Engine :=
  let e := setF .initSts Fld.INIT_STS_FAIL_SLICES (2 ^ n) (starting 15 [])
  let e := if off then setF .pwrSlice Fld.PWR_SLICE_OFF (2 ^ n / 2) e else e
  { e with power := { e.power with failStep := 4 } }

theorem wit_TrainTimeoutContinue :
    (∀ st ∈ [1, 2, 4, 5, 6], alive (starting st [0]) = true ∧ initState (starting st [0]) = st ∧ (stepLimit st).isSome = true ∧
      getF .initSts Fld.INIT_STS_FAIL_SLICES (starting st [0]) = 0 ∧ 1 ∉ (starting st [0]).power.done ∧
      (∀ n, n < 4 → slicePoweredOff n (starting st [0]) = false) ∧ 25000 * 375 ≤ ((starting st [0]).power.up - (starting st [0]).power.stepAt) * 4) ∧
    (initState (starting 3 []) = 3 ∧ alive (starting 3 []) = true) ∧
    (∀ n ∈ [1, 3], initState (brokenUp n true) = 15 ∧ (∀ m, m < 4 → (sliceFailed m (brokenUp n true) = true ↔ m = n)) ∧
      slicePoweredOff n (brokenUp n true) = false ∧ bitsOf (getF .pwrSlice Fld.PWR_SLICE_OFF (brokenUp n true)) (n - 1) 1 = 1) ∧
    (sliceFailed 0 (brokenUp 0 false) = true ∧ initState (brokenUp 0 false) = 15 ∧ sliceFailed 2 (brokenUp 2 false) = true ∧
      bitsOf (getF .pwrSlice Fld.PWR_SLICE_OFF (brokenUp 2 false)) (2 - 1) 1 = 0) := by and_intros <;> decide +kernel

/-- A slice whose gating has begun; one that is gated; a stack with its temperature, threshold and LEVEL. -/
def gatingOf : Engine := { served 2 with power := { (served 2).power with gating := [3] } }
def gatedOff : Engine := setF .initSts Fld.INIT_STS_STATE 7 (setF .pwrSlice Fld.PWR_SLICE_OFF 4 (served 3))
def warm (t th l : Nat) : Engine :=
  setF (.hbmStackSts 7) Fld.HBM_STACK_STS_TEMP t (setF (.hbmStackSts 7) Fld.HBM_STACK_STS_THRESH th (setF (.hbmStackSts 7) Fld.HBM_STACK_STS_LEVEL l up))
def idling : Engine := setReg .time 0x1000000 up

theorem wit_SliceAndStackPower :
    ((served 2).inReset = none ∧ initState (served 2) ≠ 15 ∧ (served 2).power.gating = [] ∧ getF (.slcSts 3) Fld.SLC_STS_STATE (served 2) = 2 ∧
      getB .stepSts Fld.STEP_STS_CLOSING (served 2) = false ∧ getF (.slcSts 3) Fld.SLC_STS_STATE (served 0) ≠ 2) ∧
    (alive gatingOf = true ∧ 3 ∈ gatingOf.power.gating ∧ gatingOf.cache.writes = []) ∧
    (alive gatedOff = true ∧ initState gatedOff = 7 ∧ slicePoweredOff 3 gatedOff = true ∧ upStep 3 gatedOff = 0) ∧
    (alive (warm 90 85 0) = true ∧ thrAbove 7 (warm 90 85 0) = true ∧ thrAbove 7 (warm 60 85 1) = false ∧ thrBelow 7 (warm 60 85 1) = true) ∧
    ((getB .pwrCtl Fld.PWR_CTL_IDLE_EN idling && getB .ctl Fld.CTL_ENABLE idling && quietNow idling &&
        elapsedUs idling.power.quiet (max 1 (getF .pwrCtl Fld.PWR_CTL_IDLE_US idling)) idling) = true ∧
      (getB .pwrCtl Fld.PWR_CTL_IDLE_EN up && getB .ctl Fld.CTL_ENABLE up && quietNow up &&
        elapsedUs up.power.quiet (max 1 (getF .pwrCtl Fld.PWR_CTL_IDLE_US up)) up) = false) ∧
    (getB .pwrSts Fld.PWR_STS_IDLE (setF .pwrSts Fld.PWR_STS_IDLE 1 up) = true ∧
      bitsOf (getF .clkCfg Fld.CLK_CFG_LOCKED (setF .clkCfg Fld.CLK_CFG_LOCKED 1 up)) 0 1 = 1 ∧ bitsOf (getF .clkCfg Fld.CLK_CFG_LOCKED up) 0 1 = 0) := by
  and_intros <;> decide +kernel

theorem wit_PowerAndTelemetry : up.inReset = none ∧ alive up = true ∧ 0 % 4 ≠ 3 ∧ 7 % 4 = 3 := by decide +kernel

theorem wit_MonitorsTrip : alive up = true ∧ up.jobs = [] ∧ alive (linked 2) = true ∧ reachable 1 (linked 2) = true ∧ 1 ≠ thisDev (linked 2) := by decide +kernel

/-! Steps and the memories. -/

theorem wit_StepTakesFront :
    ({ eng := up, pending := [.timeLowRead, .timeHighRead] } : State).pending = [.timeLowRead, .timeHighRead] ∧ (on up).pending = [] ∧
    State.reset.eng.inReset.isSome = true ∧ timeRuns up = false ∧
    timeRuns (setF .clkCfg Fld.CLK_CFG_LOCKED 1 up) = true ∧ up.net.slew = 0 ∧ up.net.frac < 32 := by decide +kernel

theorem wit_MemoryCanonicalKept : (on saving).eng.mem.wf = true ∧ ∃ t, step (on saving) = .next t := ⟨by decide +kernel, _, rfl⟩

theorem wit_StateAtReset : State.reset.eng.mem.wf = true := by decide +kernel

end Sys2Proof.Tests
end

section
/-! PROOFS. Writes of a register that wake the engine, and what one ring's fault or producer index changes: the rules of the
ring operations that later proofs use. -/

namespace Sys2Proof.Machine

/-! Tables and folds. -/

theorem tfind_tdel_other {K V : Type} [DecidableEq K] {k k' : K} (h : k ≠ k') (t : List (K × V)) :
    tfind k (tdel k' t) = tfind k t := by
  induction t with
  | nil => rfl
  | cons p t ih =>
    obtain ⟨k2, v2⟩ := p
    by_cases h2 : k2 = k'
    · subst h2
      rw [tdel, List.filter_cons_of_neg (by simp), tfind, if_neg (Ne.symm h)]
      exact ih
    · rw [tdel, List.filter_cons_of_pos (by simp [h2]), tfind, tfind]
      exact congrArg (ite (k2 = k) (some v2)) ih

/-- A table with at most one pair per key gives each listed pair. -/
theorem tget_of_mem {K V : Type} [DecidableEq K] (d : V) {k : K} {v : V} {t : List (K × V)}
    (hn : (t.map (·.1)).Nodup) (h : (k, v) ∈ t) : tget d k t = v := by
  induction t with
  | nil => simp at h
  | cons p t ih =>
    obtain ⟨k2, v2⟩ := p
    simp only [List.map_cons, List.nodup_cons] at hn
    rcases List.mem_cons.mp h with heq | hmem
    · obtain ⟨rfl, rfl⟩ := Prod.mk.inj heq
      simp [tget]
    · have hne : k2 ≠ k := fun he => hn.1 (he ▸ List.mem_map_of_mem (f := (·.1)) hmem)
      rw [tget, if_neg hne]
      exact ih hn.2 hmem

/-- A fold whose operations all leave the engine as it is. -/
theorem forEach_fixed {α : Type} {f : α → Engine → Engine} {xs : List α} {e : Engine} (h : ∀ a ∈ xs, f a e = e) :
    forEach xs f e = e := by
  induction xs with
  | nil => rfl
  | cons a xs ih =>
    show forEach xs f (f a e) = e
    rw [h a (by simp)]
    exact ih fun b hb => h b (by simp [hb])

/-! A register write that reaches its register (R9, R434). -/

/-- The engine that carries out a write of register `r`: awake, and `r` lost no longer. -/
def wokenFor (r : Reg) (e : Engine) : Engine :=
  { touch e with lostRegs := e.lostRegs.filter (fun x => decide (x ≠ r)) }

theorem wokenFor_frame (r : Reg) (e : Engine) : wokenFor r e =
    { e with regs := (wokenFor r e).regs, power := { e.power with quiet := now e }, lostRegs := (wokenFor r e).lostRegs } := by
  simp only [wokenFor]
  rw [touch_frame]

theorem wokenFor_getReg (r : Reg) {q : Reg} (h : q ≠ .pwrSts) (e : Engine) : getReg q (wokenFor r e) = getReg q e :=
  touch_getReg h e

theorem wokenFor_getF (r : Reg) {q : Reg} (h : q ≠ .pwrSts) (f : Field) (e : Engine) :
    getF q f (wokenFor r e) = getF q f e :=
  touch_getF h f e

@[simp] theorem wokenFor_inReset (r : Reg) (e : Engine) : (wokenFor r e).inReset = e.inReset := by rw [wokenFor_frame]
@[simp] theorem wokenFor_front (r : Reg) (e : Engine) : (wokenFor r e).front = e.front := by rw [wokenFor_frame]
@[simp] theorem wokenFor_pinFault (r : Reg) (e : Engine) : (wokenFor r e).pinFault = e.pinFault := by rw [wokenFor_frame]

@[simp] theorem wokenFor_initState (r : Reg) (e : Engine) : initState (wokenFor r e) = initState e :=
  wokenFor_getF r (by decide) _ e

@[simp] theorem wokenFor_inFault (r : Reg) (e : Engine) : inFault (wokenFor r e) = inFault e :=
  touch_getB (by decide) _ e

/-- A write that only wakes the engine changes no register but SHD_PWR_STS. -/
theorem wokenFor_onlyRegsWoken (r : Reg) (e : Engine) : onlyRegsWoken [] e (wokenFor r e) :=
  ⟨wokenFor_frame r e, fun _ hq => wokenFor_getReg r (List.ne_of_not_mem_cons hq) e⟩

/-- A write that reaches its register acts on the woken engine. -/
theorem atReg_eq_wokenFor {r : Reg} (f : Engine → Engine) {e : Engine} (h : writable r e = true) (hr : r ≠ .pwrCtl) :
    atReg r f e = f (wokenFor r e) := by
  rw [atReg_acts f h, if_neg hr]
  rfl

/-! The fault state under log records (R402, R404). -/

theorem inFault_setF_other {r : Reg} (h : r ≠ .faultSts) (f : Field) (x : Nat) (e : Engine) :
    inFault (setF r f x e) = inFault e := by
  simp only [inFault, getB, getF_setF_other (Ne.symm h)]

/-- An alert flag is apart from FAULT. -/
theorem inFault_setAlert {f : Field} (h : 1 ≤ f.lo) (e : Engine) : inFault (setAlert f e) = inFault e := by
  rw [setAlert_frame]
  simp only [inFault, getB]
  exact congrArg (decide <| · = 1) (getF_setF_apart .faultSts f Fld.FAULT_STS_FAULT 1 e (.inl h))

@[simp] theorem inFault_logEvent (r : LogRec) (e : Engine) : inFault (logEvent r e) = inFault e := by
  simp only [logEvent]
  split
  · split
    · rfl
    · rw [inFault_setAlert (by decide)]
      exact inFault_setF_other (by simp) _ _ _
  · rfl

/-! A ring read after each operation of the front end. -/

theorem ringOf_of_rings {e x : Engine} (h : x.front.rings = e.front.rings) (q : Nat) : ringOf q x = ringOf q e := by
  simp only [ringOf, h]

@[simp] theorem ringOf_updRing_same (r : Nat) (f : Ring → Ring) (e : Engine) :
    ringOf r (updRing r f e) = f (ringOf r e) :=
  tget_tput_same _ _ _ _

theorem ringOf_updRing_other {q r : Nat} (h : q ≠ r) (f : Ring → Ring) (e : Engine) :
    ringOf q (updRing r f e) = ringOf q e :=
  tget_tput_other _ _ h _

@[simp] theorem hostWrite_front (a : Nat) (bs : List Byte) (e : Engine) : (hostWrite a bs e).front = e.front := by
  rw [hostWrite_frame]

@[simp] theorem hostWrite_regs (a : Nat) (bs : List Byte) (e : Engine) : (hostWrite a bs e).regs = e.regs := by
  rw [hostWrite_frame]

@[simp] theorem logEvent_front (r : LogRec) (e : Engine) : (logEvent r e).front = e.front := by
  rw [logEvent_frame]

@[simp] theorem driveAlert_front (e : Engine) : (driveAlert e).front = e.front := by
  rw [driveAlert_frame]

@[simp] theorem writeMsix_regs (v : Nat) (e : Engine) : (writeMsix v e).regs = e.regs := by
  rw [writeMsix_frame]

@[simp] theorem writeMsix_rings (v : Nat) (e : Engine) : (writeMsix v e).front.rings = e.front.rings := by
  simp only [writeMsix]
  split
  · rfl
  · rw [sendMsg_frame]

@[simp] theorem writeMsix_piSeen (v : Nat) (e : Engine) : (writeMsix v e).front.piSeen = e.front.piSeen := by
  simp only [writeMsix]
  split
  · rfl
  · rw [sendMsg_frame]

/-- An interrupt request leaves the ring's state. -/
@[simp] theorem interruptRequest_state (r : Nat) (b : Bool) (e : Engine) :
    (ringOf r (interruptRequest r b e)).state = (ringOf r e).state := by
  simp only [interruptRequest]
  split
  · rfl
  · split
    · rw [sendInt, ringOf_of_rings (writeMsix_rings _ _), ringOf_updRing_same, ringOf_updRing_same]
    · rw [ringOf_updRing_same]

/-- Entering a state puts the ring in it (R27). -/
@[simp] theorem enterState_state (r : Nat) (st : RingState) (e : Engine) : (ringOf r (enterState r st e)).state = st := by
  have h : (ringOf r (writeQw7 r (updRing r (fun x => { x with state := st }) e))).state = st := by
    rw [writeQw7, ringOf_of_rings (congrArg Front.rings (hostWrite_front _ _ _)), ringOf_updRing_same, ringOf_updRing_same]
  simp only [enterState]
  split
  · rw [interruptRequest_state, h]
  · exact h

/-- A fault puts a RUNNING ring in ERROR (R54). -/
theorem ringFault_state_of_running {r : Nat} {e : Engine} (code : Nat) (h : (ringOf r e).state = .running) :
    (ringOf r (ringFault r code e)).state = .error := by
  have noted (c : Nat) (x : Engine) : (ringOf r (noteRingError r c x)).state = (ringOf r x).state := by
    rw [noteRingError, ringOf_of_rings (congrArg Front.rings (logEvent_front _ _))]
    rfl
  simp only [ringFault, noted, ringOf_updRing_same, h, enterState_state]

/-! What an operation on one ring leaves unchanged. -/

/-- The doorbell slot of a ring. -/
def dbKey (r : Nat) (e : Engine) : Nat × Nat := ((ringOf r e).ctx.dbLine, (ringOf r e).ctx.dbSlot)

/-- From `e` to `x` nothing happened to other rings, to the contexts of rings, to indices recorded for the slots of other
rings, to SHD_CTL and to the fault state. -/
structure ActsOnRing (r : Nat) (e x : Engine) : Prop where
  other : ∀ q, q ≠ r → ringOf q x = ringOf q e
  ctx : (ringOf r x).ctx = (ringOf r e).ctx
  recorded : ∀ k, k ≠ dbKey r e → tfind k x.front.piSeen = tfind k e.front.piSeen
  ctl : getReg .ctl x = getReg .ctl e
  fault : inFault x = inFault e

theorem ActsOnRing.dbKey {r : Nat} {e x : Engine} (h : ActsOnRing r e x) (q : Nat) :
    Machine.dbKey q x = Machine.dbKey q e := by
  by_cases hq : q = r
  · subst hq; simp only [Machine.dbKey, h.ctx]
  · simp only [Machine.dbKey, h.other q hq]

theorem ActsOnRing.refl (r : Nat) (e : Engine) : ActsOnRing r e e :=
  ⟨fun _ _ => rfl, rfl, fun _ _ => rfl, rfl, rfl⟩

theorem ActsOnRing.trans {r : Nat} {e x y : Engine} (h : ActsOnRing r e x) (h' : ActsOnRing r x y) : ActsOnRing r e y where
  other q hq := (h'.other q hq).trans (h.other q hq)
  ctx := h'.ctx.trans h.ctx
  recorded k hk := (h'.recorded k (by rwa [h.dbKey r])).trans (h.recorded k hk)
  ctl := h'.ctl.trans h.ctl
  fault := h'.fault.trans h.fault

/-- Where the rings and the recorded indices stay, the two register facts are left. -/
theorem ActsOnRing.of_front {e x : Engine} (r : Nat) (hr : x.front.rings = e.front.rings)
    (hp : x.front.piSeen = e.front.piSeen) (hc : getReg .ctl x = getReg .ctl e) (hf : inFault x = inFault e) :
    ActsOnRing r e x where
  other q _ := ringOf_of_rings hr q
  ctx := by rw [ringOf_of_rings hr]
  recorded _ _ := by rw [hp]
  ctl := hc
  fault := hf

theorem inFault_of_regs {e x : Engine} (h : x.regs = e.regs) : inFault x = inFault e := by
  simp only [inFault, getB, getF_of_regs _ _ h]

theorem actsOnRing_updRing (r : Nat) {f : Ring → Ring} (e : Engine) (hf : ∀ x, (f x).ctx = x.ctx := by intro; rfl) :
    ActsOnRing r e (updRing r f e) where
  other _ hq := ringOf_updRing_other hq f e
  ctx := by rw [ringOf_updRing_same, hf]
  recorded _ _ := rfl
  ctl := rfl
  fault := rfl

theorem actsOnRing_hostWrite (r a : Nat) (bs : List Byte) (e : Engine) : ActsOnRing r e (hostWrite a bs e) :=
  .of_front r (by simp) (by simp) (getReg_of_regs _ (by simp)) (inFault_of_regs (by simp))

theorem actsOnRing_writeMsix (r v : Nat) (e : Engine) : ActsOnRing r e (writeMsix v e) :=
  .of_front r (by simp) (by simp) (getReg_of_regs _ (by simp)) (inFault_of_regs (by simp))

theorem actsOnRing_setF (r : Nat) {q : Reg} (hc : q ≠ .ctl) (hf : q ≠ .faultSts) (f : Field) (v : Nat) (e : Engine) :
    ActsOnRing r e (setF q f v e) :=
  .of_front r rfl rfl (getReg_setReg_other (Ne.symm hc) _ e) (inFault_setF_other hf f v e)

theorem actsOnRing_logEvent (r : Nat) (l : LogRec) (e : Engine) : ActsOnRing r e (logEvent l e) :=
  .of_front r (by simp) (by simp) (logEvent_getReg l e (by simp) (by simp)) (by simp)

theorem actsOnRing_writeQw7 (r : Nat) (e : Engine) : ActsOnRing r e (writeQw7 r e) :=
  (actsOnRing_updRing r e).trans (actsOnRing_hostWrite r _ _ _)

theorem actsOnRing_sendInt (r : Nat) (e : Engine) : ActsOnRing r e (sendInt r e) :=
  (actsOnRing_updRing r e).trans (actsOnRing_writeMsix r _ _)

theorem actsOnRing_interruptRequest (r : Nat) (b : Bool) (e : Engine) : ActsOnRing r e (interruptRequest r b e) := by
  simp only [interruptRequest]
  split
  · exact .refl r e
  · split
    · exact (actsOnRing_updRing r e).trans (actsOnRing_sendInt r _)
    · exact actsOnRing_updRing r e

theorem actsOnRing_enterState (r : Nat) (st : RingState) (e : Engine) : ActsOnRing r e (enterState r st e) := by
  have entered := (actsOnRing_updRing r (f := fun x => { x with state := st }) e).trans
    (actsOnRing_writeQw7 r _)
  simp only [enterState]
  split
  · exact entered.trans (actsOnRing_interruptRequest r true _)
  · exact entered

theorem actsOnRing_noteRingError (r code : Nat) (e : Engine) : ActsOnRing r e (noteRingError r code e) := by
  have sts (f : Field) (v : Nat) (x : Engine) : ActsOnRing r x (setF .sts f v x) :=
    actsOnRing_setF r (by simp) (by simp) f v x
  exact (((sts _ _ _).trans (sts _ _ _)).trans (sts _ _ _)).trans (actsOnRing_logEvent r _ _)

/-- A ring's fault touches that ring alone (R54). -/
theorem actsOnRing_ringFault (r code : Nat) (e : Engine) : ActsOnRing r e (ringFault r code e) := by
  have coded := actsOnRing_updRing r (f := fun x => { x with err := if x.err = 0 then code else x.err }) e
  simp only [ringFault]
  refine .trans ?_ (actsOnRing_noteRingError r code _)
  refine coded.trans ?_
  split
  · exact actsOnRing_enterState r _ _
  · exact actsOnRing_enterState r _ _
  · exact actsOnRing_enterState r _ _
  · exact actsOnRing_writeQw7 r _

/-! A producer index is judged (R36). -/

/-- A producer index is too far ahead of the ring's fetches, or behind an earlier index (R36). -/
def piTooFar (x : Ring) (p : BitVec 32) : Prop :=
  2 ^ x.ctx.log2Size < (p - x.nextPos).toNat ∨ 2 ^ x.ctx.log2Size < (p - x.pLast).toNat

/-- What judging an index makes of a RUNNING ring: it becomes P_last, or the ring is in ERROR (R36). -/
def PiJudged (x : Ring) (p : BitVec 32) (y : Ring) : Prop :=
  (¬ piTooFar x p → y = { x with pLast := p }) ∧ (piTooFar x p → y.state = .error)

theorem judgePi_of_fits {r : Nat} {p : BitVec 32} {e : Engine} (h : ¬ piTooFar (ringOf r e) p) :
    judgePi r p e = updRing r (fun x => { x with pLast := p }) e := if_neg h

theorem judgePi_of_tooFar {r : Nat} {p : BitVec 32} {e : Engine} (h : piTooFar (ringOf r e) p) :
    judgePi r p e = ringFault r 0x01 e := if_pos h

theorem actsOnRing_judgePi (r : Nat) (p : BitVec 32) (e : Engine) : ActsOnRing r e (judgePi r p e) := by
  by_cases h : piTooFar (ringOf r e) p
  · rw [judgePi_of_tooFar h]; exact actsOnRing_ringFault r _ e
  · rw [judgePi_of_fits h]; exact actsOnRing_updRing r e

theorem judgePi_judges {r : Nat} {e : Engine} (p : BitVec 32) (h : (ringOf r e).state = .running) :
    PiJudged (ringOf r e) p (ringOf r (judgePi r p e)) := by
  constructor
  · intro hfit
    rw [judgePi_of_fits hfit, ringOf_updRing_same]
  · intro hfar
    rw [judgePi_of_tooFar hfar]
    exact ringFault_state_of_running _ h

/-- With no index recorded for the ring's slot there is nothing to judge. -/
theorem judgeRecorded_none {r : Nat} {e : Engine} (h : tfind (dbKey r e) e.front.piSeen = none) : judgeRecorded r e = e := by
  simp only [dbKey] at h
  simp only [judgeRecorded, h]

/-- The recorded index of the ring's slot is taken out of the record and judged. -/
theorem judgeRecorded_some {r : Nat} {e : Engine} {p : BitVec 32} (h : tfind (dbKey r e) e.front.piSeen = some p) :
    judgeRecorded r e = judgePi r p { e with front := { e.front with piSeen := tdel (dbKey r e) e.front.piSeen } } := by
  simp only [dbKey] at h ⊢
  simp only [judgeRecorded, h]

theorem actsOnRing_judgeRecorded (r : Nat) (e : Engine) : ActsOnRing r e (judgeRecorded r e) := by
  cases h : tfind (dbKey r e) e.front.piSeen with
  | none => rw [judgeRecorded_none h]; exact .refl r e
  | some p =>
    rw [judgeRecorded_some h]
    have taken : ActsOnRing r e { e with front := { e.front with piSeen := tdel (dbKey r e) e.front.piSeen } } :=
      ⟨fun _ _ => rfl, rfl, fun k hk => tfind_tdel_other hk _, rfl, rfl⟩
    exact taken.trans (actsOnRing_judgePi r p _)

theorem judgeRecorded_judges {r : Nat} {e : Engine} {p : BitVec 32} (hrun : (ringOf r e).state = .running)
    (h : tfind (dbKey r e) e.front.piSeen = some p) : PiJudged (ringOf r e) p (ringOf r (judgeRecorded r e)) := by
  rw [judgeRecorded_some h]
  exact judgePi_judges (e := { e with front := { e.front with piSeen := tdel (dbKey r e) e.front.piSeen } }) p hrun

/-- Judging the recorded indices of other rings leaves a ring alone. -/
theorem forEach_judgeRecorded_other {r : Nat} {rs : List Nat} (h : r ∉ rs) (e : Engine) :
    ringOf r (forEach rs judgeRecorded e) = ringOf r e := by
  induction rs generalizing e with
  | nil => rfl
  | cons q rs ih =>
    obtain ⟨hq, hrs⟩ : r ≠ q ∧ r ∉ rs := by simpa using h
    exact (ih hrs _).trans ((actsOnRing_judgeRecorded q e).other r hq)

/-- Among the rings whose recorded indices are judged, one that shares its slot with no other has its own index judged. -/
theorem forEach_judgeRecorded_judges {r : Nat} {rs : List Nat} {e : Engine} {p : BitVec 32} (hn : rs.Nodup) (hr : r ∈ rs)
    (halone : ∀ q ∈ rs, q ≠ r → dbKey q e ≠ dbKey r e) (hrun : (ringOf r e).state = .running)
    (hp : tfind (dbKey r e) e.front.piSeen = some p) :
    PiJudged (ringOf r e) p (ringOf r (forEach rs judgeRecorded e)) := by
  induction rs generalizing e with
  | nil => simp at hr
  | cons q rs ih =>
    obtain ⟨hq, hn⟩ := List.nodup_cons.mp hn
    show PiJudged _ p (ringOf r (forEach rs judgeRecorded (judgeRecorded q e)))
    by_cases hqr : q = r
    · subst hqr
      rw [forEach_judgeRecorded_other hq]
      exact judgeRecorded_judges hrun hp
    · have acts := actsOnRing_judgeRecorded q e
      have same : ringOf r (judgeRecorded q e) = ringOf r e := acts.other r (Ne.symm hqr)
      have hpi := acts.recorded (dbKey r e) (halone q (by simp) hqr).symm
      rw [← same]
      refine ih hn ((List.mem_cons.mp hr).resolve_left (Ne.symm hqr)) ?_ (by rw [same, hrun]) (by rw [acts.dbKey, hpi, hp])
      intro k hk hkr
      rw [acts.dbKey, acts.dbKey]
      exact halone k (by simp [hk]) hkr

end Sys2Proof.Machine
end

section
/-! PROOFS. SHD_CTL.ENABLE (R431): what a write of 1 does to the engine, and the indices it lets the rings judge. -/

namespace Sys2Proof.Machine

/-! Fetching resumes (R36, R453). -/

/-- The rings that satisfy a test, where each ring is listed once. -/
theorem mem_rings_filter {e : Engine} (hn : (e.front.rings.map (·.1)).Nodup) (P : Ring → Bool) (r : Nat) :
    r ∈ (e.front.rings.filter (fun q => P q.2)).map (·.1) ↔ r ∈ e.front.rings.map (·.1) ∧ P (ringOf r e) = true := by
  have read {x : Ring} (h : (r, x) ∈ e.front.rings) : ringOf r e = x := by
    rw [ringOf]; exact tget_of_mem _ hn h
  simp only [List.mem_map, List.mem_filter, Prod.exists, exists_and_right, exists_eq_right]
  constructor
  · rintro ⟨x, hx, hP⟩
    exact ⟨⟨x, hx⟩, by rwa [read hx]⟩
  · rintro ⟨⟨x, hx⟩, hP⟩
    exact ⟨x, hx, by rwa [read hx] at hP⟩

/-- The RUNNING rings of a doorbell slot, where each ring is listed once. -/
theorem mem_runningAt {e : Engine} (hn : (e.front.rings.map (·.1)).Nodup) (l d r : Nat) :
    r ∈ runningAt l d e ↔ r ∈ e.front.rings.map (·.1) ∧ (ringOf r e).state = .running ∧ dbKey r e = (l, d) := by
  refine (mem_rings_filter hn (fun x => decide (x.state = .running) && decide (x.ctx.dbLine = l) &&
    decide (x.ctx.dbSlot = d)) r).trans ?_
  simp [dbKey, and_assoc]

/-- The rings whose recorded index is judged when fetching resumes. -/
def resumable (e : Engine) : List Nat :=
  (e.front.rings.filter (fun q => decide (q.2.state = .running) && q.2.broken.isNone)).map (·.1)

theorem resumeFetch_eq (e : Engine) : resumeFetch e = if enabled e then forEach (resumable e) judgeRecorded e else e := rfl

theorem mem_resumable {e : Engine} (hn : (e.front.rings.map (·.1)).Nodup) (r : Nat) :
    r ∈ resumable e ↔ r ∈ e.front.rings.map (·.1) ∧ (ringOf r e).state = .running ∧ (ringOf r e).broken = none := by
  refine (mem_rings_filter hn (fun x => decide (x.state = .running) && x.broken.isNone) r).trans ?_
  simp

theorem resumable_nodup {e : Engine} (hn : (e.front.rings.map (·.1)).Nodup) : (resumable e).Nodup :=
  hn.sublist (List.filter_sublist.map _)

/-- Fetching resumes without a change to SHD_CTL or to the fault state. -/
theorem resumeFetch_keeps (e : Engine) : getReg .ctl (resumeFetch e) = getReg .ctl e ∧ inFault (resumeFetch e) = inFault e := by
  rw [resumeFetch_eq]
  split
  · refine forEach_keeps (fun x => getReg .ctl x = getReg .ctl e ∧ inFault x = inFault e) _ ?_ _ e ⟨rfl, rfl⟩
    rintro r x ⟨hc, hf⟩
    have acts := actsOnRing_judgeRecorded r x
    exact ⟨acts.ctl.trans hc, acts.fault.trans hf⟩
  · exact ⟨rfl, rfl⟩

/-- With no index recorded for a RUNNING ring nothing is left to judge. -/
theorem resumeFetch_unrecorded {e : Engine}
    (h : ∀ q ∈ e.front.rings, q.2.state = .running → tfind (dbKey q.1 e) e.front.piSeen = none) : resumeFetch e = e := by
  rw [resumeFetch_eq]
  split
  · refine forEach_fixed fun r hr => ?_
    obtain ⟨q, hq, rfl⟩ := List.mem_map.mp hr
    obtain ⟨hmem, htest⟩ := List.mem_filter.mp hq
    obtain ⟨hrun, -⟩ := Bool.and_eq_true_iff.mp htest
    exact judgeRecorded_none (h q hmem (of_decide_eq_true hrun))
  · rfl

/-- The only RUNNING ring of a slot judges the index recorded for it. -/
theorem resumeFetch_judges {e : Engine} {r : Nat} {p : BitVec 32} (hen : enabled e = true)
    (hn : (e.front.rings.map (·.1)).Nodup)
    (halone : runningAt (ringOf r e).ctx.dbLine (ringOf r e).ctx.dbSlot e = [r]) (hb : (ringOf r e).broken = none)
    (hp : tfind (dbKey r e) e.front.piSeen = some p) : PiJudged (ringOf r e) p (ringOf r (resumeFetch e)) := by
  have at_slot (q : Nat) : q = r ↔ q ∈ e.front.rings.map (·.1) ∧ (ringOf q e).state = .running ∧ dbKey q e = dbKey r e := by
    rw [← List.mem_singleton, ← halone]
    exact mem_runningAt hn _ _ q
  obtain ⟨hmem, hrun, -⟩ := (at_slot r).mp rfl
  rw [resumeFetch_eq, if_pos hen]
  refine forEach_judgeRecorded_judges (resumable_nodup hn) ((mem_resumable hn r).mpr ⟨hmem, hrun, hb⟩) ?_ hrun hp
  intro q hq hqr hkey
  obtain ⟨hqmem, hqrun, -⟩ := (mem_resumable hn q).mp hq
  exact hqr ((at_slot q).mpr ⟨hqmem, hqrun, hkey⟩)

/-! The write of ENABLE. -/

/-- The woken engine with ENABLE at 1. -/
def enabling (e : Engine) : Engine := setF .ctl Fld.CTL_ENABLE 1 (wokenFor .ctl e)

@[simp] theorem enabling_front (e : Engine) : (enabling e).front = e.front := by simp [enabling]
@[simp] theorem enabling_inReset (e : Engine) : (enabling e).inReset = e.inReset := by simp [enabling]
@[simp] theorem enabling_pinFault (e : Engine) : (enabling e).pinFault = e.pinFault := by simp [enabling]

@[simp] theorem enabling_inFault (e : Engine) : inFault (enabling e) = inFault e := by
  rw [enabling, inFault_setF_other (by decide), wokenFor_inFault]

@[simp] theorem enabling_ringOf (q : Nat) (e : Engine) : ringOf q (enabling e) = ringOf q e :=
  ringOf_of_rings (by simp) q

theorem enabling_ctl (e : Engine) : getF .ctl Fld.CTL_ENABLE (enabling e) = 1 :=
  getF_setF_same .ctl Fld.CTL_ENABLE 1 _ (by decide)

theorem enabling_enabled {e : Engine} (hr : e.inReset = none) (hf : inFault e = false) : enabled (enabling e) = true := by
  simp [enabled, getB, enabling_ctl, hr, hf]

theorem enabling_frame (e : Engine) : enabling e =
    { e with regs := (enabling e).regs, power := (enabling e).power, lostRegs := (enabling e).lostRegs } := by
  simp only [enabling, setF, setReg]
  rw [wokenFor_frame]

theorem enabling_regsKept (e : Engine) : regsKept [.ctl, .pwrSts] e (enabling e) := by
  intro q hq
  simp only [List.mem_cons, List.not_mem_nil, or_false, not_or] at hq
  exact (getReg_setReg_other hq.1 _ _).trans (wokenFor_getReg .ctl hq.2 e)

/-- What ENABLE at 1 makes of the engine: nothing more in the fault state; outside it fetching resumes and SHD_FAULT_N goes
high (R431, R444, R453). -/
def enabledBy (e : Engine) : Engine :=
  if inFault e then enabling e else driveAlert { resumeFetch (enabling e) with pinFault := .high }

theorem enabledBy_inFault {e : Engine} (h : inFault e = true) : enabledBy e = enabling e := if_pos h

theorem enabledBy_running {e : Engine} (h : inFault e = false) :
    enabledBy e = driveAlert { resumeFetch (enabling e) with pinFault := .high } := if_neg (by simp [h])

/-- ENABLE_SET reaches its register. -/
theorem answers_enableSet {s : State} (hr : s.eng.inReset = none) :
    answers .enableSet s (doEnableSet (wokenFor .ctl s.eng)) := by
  have hw : writable .ctl s.eng = true := by simp [writable, hr, regGated, regSlice]
  have hexec : exec .enableSet s = execEnableSet s := rfl
  rw [answers, hexec, execEnableSet, run_eq, atReg_eq_wokenFor _ hw (by decide)]

/-- In READY, or while ENABLE is 1 already, the write takes effect (R431). -/
theorem answers_enableSet_effective {s : State} (hr : s.eng.inReset = none)
    (h : initState s.eng = 7 ∨ getF .ctl Fld.CTL_ENABLE s.eng = 1) : answers .enableSet s (enabledBy s.eng) := by
  have hw : decide (initState (wokenFor .ctl s.eng) = 7) || getB .ctl Fld.CTL_ENABLE (wokenFor .ctl s.eng) := by
    rw [getB, wokenFor_getF .ctl (by decide), wokenFor_initState]
    simpa using h
  have hset : doEnableSet (wokenFor .ctl s.eng) = enabledBy s.eng := by
    simp only [doEnableSet, wokenFor_inReset, hr, Option.isSome_none, Bool.false_eq_true, if_false, hw, if_true]
    rw [← enabling, (resumeFetch_keeps _).2, enabling_inFault]
    cases hf : inFault s.eng with
    | true =>
      have off : enabled (enabling s.eng) = false := by simp [enabled, hf]
      rw [enabledBy_inFault hf, if_pos rfl, resumeFetch_eq, off, if_neg Bool.false_ne_true]
    | false => rw [enabledBy_running hf, if_neg Bool.false_ne_true]
  exact hset ▸ answers_enableSet hr

/-- Elsewhere the write only wakes the engine (R431). -/
theorem answers_enableSet_ignored {s : State} (hr : s.eng.inReset = none) (hi : initState s.eng ≠ 7)
    (hc : getF .ctl Fld.CTL_ENABLE s.eng ≠ 1) : answers .enableSet s (wokenFor .ctl s.eng) := by
  have hset : doEnableSet (wokenFor .ctl s.eng) = wokenFor .ctl s.eng := by
    simp [doEnableSet, getB, wokenFor_getF .ctl (show Reg.ctl ≠ .pwrSts by decide), hr, hi, hc]
  exact hset ▸ answers_enableSet hr

theorem enabledBy_ctl (e : Engine) : getF .ctl Fld.CTL_ENABLE (enabledBy e) = 1 := by
  cases hf : inFault e with
  | true => rw [enabledBy_inFault hf, enabling_ctl]
  | false =>
    rw [enabledBy_running hf, driveAlert_frame]
    exact (congrArg (getFld · Fld.CTL_ENABLE) (resumeFetch_keeps (enabling e)).1).trans (enabling_ctl e)

theorem enabledBy_pinFault_high {e : Engine} (h : inFault e = false) : (enabledBy e).pinFault = .high := by
  rw [enabledBy_running h, driveAlert_frame]

theorem enabledBy_pinFault_inFault {e : Engine} (h : inFault e = true) : (enabledBy e).pinFault = e.pinFault := by
  rw [enabledBy_inFault h, enabling_pinFault]

/-- In the fault state, and with no index recorded for a RUNNING ring, ENABLE and the pins alone change. -/
theorem enabledBy_frame {e : Engine} (h : inFault e = true ∨ ∀ q ∈ e.front.rings, q.2.state = .running →
      tfind (dbKey q.1 e) e.front.piSeen = none) :
    enabledBy e = { enabling e with pinFault := (enabledBy e).pinFault, pinAlert := (enabledBy e).pinAlert } := by
  cases hf : inFault e with
  | true => rw [enabledBy_inFault hf]
  | false =>
    have idle : resumeFetch (enabling e) = enabling e := by
      refine resumeFetch_unrecorded fun q hq hrun => ?_
      rw [enabling_front] at hq ⊢
      rw [dbKey, enabling_ringOf]
      exact h.resolve_left (by simp [hf]) q hq hrun
    rw [enabledBy_running hf, idle, driveAlert_frame]

/-- Outside the fault state the only RUNNING ring of a slot judges the index recorded for it (R36, R453). -/
theorem enabledBy_judges {e : Engine} {r : Nat} {p : BitVec 32} (hr : e.inReset = none) (hf : inFault e = false)
    (hn : (e.front.rings.map (·.1)).Nodup)
    (halone : runningAt (ringOf r e).ctx.dbLine (ringOf r e).ctx.dbSlot e = [r]) (hb : (ringOf r e).broken = none)
    (hp : tfind (dbKey r e) e.front.piSeen = some p) : PiJudged (ringOf r e) p (ringOf r (enabledBy e)) := by
  have read : ringOf r (enabledBy e) = ringOf r (resumeFetch (enabling e)) := by
    rw [enabledBy_running hf]
    exact ringOf_of_rings (by rw [driveAlert_front]) r
  have judged := resumeFetch_judges (e := enabling e) (r := r) (p := p) (enabling_enabled hr hf) (by simpa using hn)
    (by simpa [runningAt] using halone) (by simpa using hb) (by simpa [dbKey] using hp)
  rwa [← read, enabling_ringOf] at judged

/-- Settles O3: the effective write answers `enabledBy`, the ignored one the woken engine. -/
theorem enableTakesEffectInReady : Obligations.EnableTakesEffectInReady := by
  intro s hr
  refine ⟨fun heff => ⟨enabledBy s.eng, answers_enableSet_effective hr heff, enabledBy_ctl _,
    enabledBy_pinFault_high, enabledBy_pinFault_inFault, fun hidle => ?_,
    fun r p hf hn halone hb hp => enabledBy_judges hr hf hn halone hb hp⟩, fun hi hc => ?_⟩
  · have frame := enabledBy_frame hidle
    constructor
    · rw [frame, enabling_frame]
    · rw [frame]
      exact enabling_regsKept s.eng
  · exact ⟨wokenFor .ctl s.eng, answers_enableSet_ignored hr hi hc, wokenFor_getF .ctl (by decide) _ _,
      wokenFor_onlyRegsWoken .ctl s.eng⟩

end Sys2Proof.Machine
end

section
/-! PROOFS. SHD_TIME in halves (R454): what each 32-bit read gives and does to the shadow, and the write that only ends IDLE
(R434). -/

namespace Sys2Proof.Machine

/-! Reads of a half. -/

theorem regAccess_time_low : regAccess 0x700 4 = some (.time, 0) := by decide

theorem regAccess_time_high : regAccess 0x704 4 = some (.time, 32) := by decide

/-- Outside a reset SHD_TIME, a register of no slice, reads as it stands. -/
theorem regView_time {e : Engine} (hr : e.inReset = none) : regView .time e = getReg .time e := by
  simp [regView, hr, regGated, regSlice]

/-- The lower half of a word, on a 64-bit bus. -/
theorem and_mask32_eq_lowHalf (v : Word) : v &&& 0xFFFFFFFF = (v.extractLsb' 0 32).zeroExtend 64 := by
  apply BitVec.eq_of_toNat_eq
  have hmask : v.toNat &&& 0xFFFFFFFF = v.toNat % 2 ^ 32 := Nat.and_two_pow_sub_one_eq_mod _ 32
  simp [hmask]
  omega

/-- The upper half of a word, on a 64-bit bus. -/
theorem ushiftRight32_eq_highHalf (v : Word) : v >>> 32 = (v.extractLsb' 32 32).zeroExtend 64 := by
  apply BitVec.eq_of_toNat_eq
  simp [Nat.shiftRight_eq_div_pow]
  omega

/-- A read of the lower half gives it and latches the upper half. -/
theorem readTime_low {e : Engine} (hr : e.inReset = none) : readTime 0x700 e =
    { e with busData := ((getReg .time e).extractLsb' 0 32).zeroExtend 64
             timeShadow := some ((getReg .time e).extractLsb' 32 32) } := by
  simp only [readTime, regRead, regAccess_time_low, regView_time hr, and_mask32_eq_lowHalf]
  simp [hr, hostGets]

/-- A read of the upper half gives the shadow, which is then spent. -/
theorem readTime_high_shadow {e : Engine} (hr : e.inReset = none) {h : BitVec 32} (hs : e.timeShadow = some h) :
    readTime 0x704 e = { e with busData := h.zeroExtend 64, timeShadow := none } := by
  simp [readTime, regRead, regAccess_time_high, hr, hs, hostGets]

/-- With no shadow pending a read of the upper half gives that half. -/
theorem readTime_high_current {e : Engine} (hr : e.inReset = none) (hs : e.timeShadow = none) :
    readTime 0x704 e = { e with busData := ((getReg .time e).extractLsb' 32 32).zeroExtend 64 } := by
  simp only [readTime, regRead, regAccess_time_high, regView_time hr, ushiftRight32_eq_highHalf]
  simp [hr, hs, hostGets]

/-! The write. -/

/-- A register with no writable and no write-1-to-clear bit keeps its value (R10). -/
theorem storeReg_readOnly {r : Reg} (hrw : r.spec.rw = 0) (hw1c : r.spec.w1c = 0) (w m : Word) (e : Engine) :
    storeReg r w m e = e := by
  have hkeep : ((getReg r e &&& ~~~(0 &&& m)) ||| (w &&& 0 &&& m)) &&& ~~~(w &&& 0 &&& m) = getReg r e := by
    simp only [BitVec.ofNat_eq_ofNat, BitVec.zero_and, BitVec.and_zero, BitVec.not_zero, BitVec.and_allOnes, BitVec.or_zero]
  simp only [storeReg, hrw, hw1c]
  exact if_pos hkeep

/-- No parameter set rests on SHD_TIME, so its write breaks no rule. -/
theorem writeBreaks_time (e : Engine) : writeBreaks .time e = false := by
  simp [writeBreaks, setsOf]

theorem writeReg_time (w m : Word) (ok : Bool) (e : Engine) : writeReg .time w m ok e = e := by
  rw [plain_write rfl w m ok (writeBreaks_time e), storeReg_readOnly rfl rfl]

/-- A write of the window that meets SHD_TIME wakes the engine and does nothing else. -/
theorem regWrite_time {off size lo : Nat} (ha : regAccess off size = some (.time, lo)) (v : Word) (ok : Bool) {e : Engine}
    (hr : e.inReset = none) : regWrite off size v ok e = wokenFor .time e := by
  have hw : writable .time e = true := by simp [writable, hr, regGated, regSlice]
  simp only [regWrite, ha]
  rw [atReg_eq_wokenFor _ hw (by decide), writeReg_time]

/-- A command that acts on the engine alone answers what it makes of the engine. -/
theorem answers_of_run {c : Instr} {f : Engine → Engine} {s : State} {e' : Engine} (hc : exec c s = run f s)
    (hf : f s.eng = e') : answers c s e' := by
  rw [answers, hc, run_eq, hf]

/-- Settles O2: each read by the rule of its half, the write by the frame of a woken engine. -/
theorem timeInHalves : Obligations.TimeInHalves := by
  intro s hr
  refine ⟨?low, fun h hs => ?shadow, fun hs => ?current, fun off size v ok lo ha => ?write⟩
  case low => exact answers_of_run rfl (readTime_low hr)
  case shadow => exact answers_of_run rfl (readTime_high_shadow hr hs)
  case current => exact answers_of_run rfl (readTime_high_current hr hs)
  case write =>
    exact ⟨wokenFor .time s.eng, answers_of_run rfl (regWrite_time ha v ok hr), wokenFor_onlyRegsWoken .time s.eng⟩

end Sys2Proof.Machine
end
